-- ==== Sys2Proof/Word.lean ====
section
/-! DEFINITION. The words of the PH416: bytes on the links and in memory, and the finite numbers that name its ports,
contexts, frames, pages, slots and tags (00_scope.md, Principal figures). -/

namespace Sys2Proof

/-- One byte of a message, a notice record, a descriptor or an access's data. -/
abbrev Byte := BitVec 8

/-- A master port, P0 to P3. -/
abbrev Port := Fin 4

/-- A context, C0 to C15. -/
abbrev Ctx := Fin 16

/-- A frame number, 0 to 4095. -/
abbrev Frame := Fin 4096

/-- A logical page of a context, 0 to 127. -/
abbrev Page := Fin 128

/-- A transit slot of a port, 0 to 15. -/
abbrev Slot := Fin 16

/-- An access tag or a control tag, 0 to 15. -/
abbrev Tag := Fin 16

/-- An offer id: the number of a slot of the offer table, 0 to 15. -/
abbrev OfferId := Fin 16

/-- A set of request classes, as R184 encodes it: bit 0 FRAMES, bit 1 SHARING, bit 2 MAPPING, bit 3 CONTEXTS. -/
abbrev Classes := BitVec 4

end Sys2Proof
end

