-- ==== Sys2Proof/Syntax.lean ====
section
/-! DEFINITION. The commands of the PH416: one constructor per row of spec/opcode_table.json, and the messages they carry
(control request messages of 11.2, access requests and completions of 11.6). A request kind's row is the event at which the
owner block takes an admitted request (R175), so it names the request by its port and tag; the operands came with the
message and stand in the control slot. -/

namespace Sys2Proof

/-- The mode of an access or of a control request (R156). -/
inductive Mode where
  | plain
  | elevated
  deriving DecidableEq, Repr

/-- The direction of an access. -/
inductive Direction where
  | read
  | write
  deriving DecidableEq, Repr

/-- The status of a completion on the memory port (11.6). -/
inductive Status where
  | ok
  | error
  deriving DecidableEq, Repr

/-- A control request message as the link delivers it: the four header bytes of 11.2 and the operand bytes that follow. -/
structure ControlMessage where
  /-- Byte 0. -/
  kind : Byte
  /-- Byte 1: the tag in bits 3:0, the mode in bit 4, bits 7:5 reserved. -/
  tagMode : Byte
  /-- Byte 2: the length of the whole message in bytes. -/
  length : Byte
  /-- Byte 3, reserved. -/
  reserved : Byte
  /-- Bytes 4 onward. -/
  operands : List Byte
  deriving DecidableEq, Repr

/-- An access request with the fields of 11.6. -/
structure AccessRequest where
  tag : Tag
  mode : Mode
  dir : Direction
  /-- The 20-bit logical address. -/
  addr : BitVec 20
  /-- The length less one, so that every value is a legal length of 1 to 256 bytes. -/
  lengthCode : Byte
  /-- The write data, lowest address first; empty for a read. -/
  data : List Byte
  deriving DecidableEq, Repr

/-- The commands: the rows of spec/opcode_table.json, in the table's order. -/
inductive Instr where
  | rstNAssert
  | rstNRelease (part : BitVec 2)
  | prstNAssert (p : Port)
  | prstNDeassert (p : Port)
  | portTeardownLoadsEnd (p : Port)
  | portTeardownNextContext (p : Port)
  | portTeardownEnd (p : Port)
  | controlRequestArrival (p : Port) (m : ControlMessage)
  | claim (p : Port) (t : Tag)
  | release (p : Port) (t : Tag)
  | frameInfo (p : Port) (t : Tag)
  | deviceInfo (p : Port) (t : Tag)
  | create (p : Port) (t : Tag)
  | destroy (p : Port) (t : Tag)
  | cede (p : Port) (t : Tag)
  | contextInfo (p : Port) (t : Tag)
  | bind (p : Port) (t : Tag)
  | mapSet (p : Port) (t : Tag)
  | mapClear (p : Port) (t : Tag)
  | probe (p : Port) (t : Tag)
  | mapLoad (p : Port) (t : Tag)
  | loadCancel (p : Port) (t : Tag)
  | offer (p : Port) (t : Tag)
  | accept (p : Port) (t : Tag)
  | decline (p : Port) (t : Tag)
  | retract (p : Port) (t : Tag)
  | leave (p : Port) (t : Tag)
  | revoke (p : Port) (t : Tag)
  | fetchNotices (p : Port) (t : Tag)
  /-- The withdrawal record of context `c`: of FRAME kind for `some f`, of CONTEXT kind for `none`. -/
  | withdrawalEnd (c : Ctx) (f : Option Frame)
  | teardownOfferCancel (c : Ctx)
  | teardownFrameTurn (c : Ctx)
  | accessArrival (p : Port) (a : AccessRequest)
  | accessTranslation (p : Port)
  | memoryPortGrant
  | transitCompletionOk (p : Port) (i : Slot) (gen : Byte) (data : List Byte)
  | transitCompletionError (p : Port) (i : Slot) (gen : Byte)
  /-- A completion with its whole identifier: requester 0-3 a port, 4 the scrub engine, 5 the load engine, 6-7 none. -/
  | staleCompletion (requester : BitVec 3) (i : Slot) (gen : Byte) (status : Status) (data : List Byte)
  | transitTimeout (p : Port) (i : Slot)
  | switchCompletion (p : Port)
  | scrubCompletionOk (gen : Byte)
  | scrubCompletionError (gen : Byte)
  | scrubWriteTimeout
  | loadReadCompletion (gen : Byte) (data : List Byte)
  | loadReadError (gen : Byte)
  | loadReadTimeout
  | microsecondTick
  | millisecondTick
  | offerExpiry (i : OfferId)
  deriving DecidableEq, Repr

end Sys2Proof
end

