-- ==== Sys2Proof/WellFormed.lean ====
section
/-! DEFINITION. Which commands the links can carry. The types hold every field to its width; what is left is that the byte
counts of a command agree with its own length fields (11.2: "The link delivers the message as the number of bytes its length
field gives"; R119: write data of length bytes, writes only; R142: a descriptor read is 8 bytes). -/

namespace Sys2Proof

/-- A control message holds the header and as many operand bytes as its length byte leaves room for (11.2). -/
def ControlMessage.wf (m : ControlMessage) : Bool :=
  m.operands.length + 4 == max 4 m.length.toNat

/-- A write carries length bytes of data, a read none (R119). -/
def AccessRequest.wf (a : AccessRequest) : Bool :=
  match a.dir with
  | .read => a.data.isEmpty
  | .write => a.data.length == a.lengthCode.toNat + 1

/-- The commands that the links can carry. -/
def Instr.wf : Instr → Bool
  | .controlRequestArrival _ m => m.wf
  | .accessArrival _ a => a.wf
  | .transitCompletionOk _ _ _ data => data.length ≤ 256
  | .staleCompletion _ _ _ status data =>
    match status with
    | .ok => data.length ≤ 256
    | .error => data.isEmpty
  | .loadReadCompletion _ data => data.length == 8
  | _ => true

end Sys2Proof
end

