-- ==== Sys2Proof/Decode.lean ====
section
/-! DEFINITION. The command a word spells by the bits of spec/opcode_table.json. No row of this hardware's table gives bits
(every row's "fields" is empty and none has "fixed"), so no word spells a command. The messages of the control channel are
read in Machine/Formats.lean and Machine/Operands.lean, by R184 and R185. -/

namespace Sys2Proof

/-- The command spelled by the `nbits` bits `w`: none, since the table gives no row any bits. -/
def decodeTableWord (_nbits _w : Nat) : Option Instr := none

end Sys2Proof
end

