-- ==== Sys2Proof/Machine/Bytes.lean ====
section
/-! DEFINITION. Byte order: multi-byte fields on the links and in memory are little-endian, the byte at the lower offset
holding the less significant bits (R184). -/

namespace Sys2Proof.Machine

open Sys2Proof

/-- The low byte of a number. -/
def byteOf (n : Nat) : Byte := BitVec.ofNat 8 n

/-- A 16-bit field: two bytes. -/
def le16 (n : Nat) : List Byte := [byteOf n, byteOf (n / 256)]

/-- A 24-bit field: three bytes. -/
def le24 (n : Nat) : List Byte := [byteOf n, byteOf (n / 256), byteOf (n / 65536)]

/-- The byte at an offset of a byte list, as a number. -/
def byteAt (bs : List Byte) (i : Nat) : Nat := (bs.getD i 0).toNat

/-- The 16-bit field at an offset. -/
def wordAt (bs : List Byte) (i : Nat) : Nat := byteAt bs i + 256 * byteAt bs (i + 1)

/-- The 32-bit field at an offset. -/
def longAt (bs : List Byte) (i : Nat) : Nat := wordAt bs i + 65536 * wordAt bs (i + 2)

/-- `n` zero bytes. -/
def zeros (n : Nat) : List Byte := List.replicate n 0

/-- A flag byte: 0 clear, 1 set (R184). -/
def flagByte (b : Bool) : Byte := if b then 1 else 0

end Sys2Proof.Machine
end

