-- ==== Sys2Proof/Config.lean ====
section
/-! DEFINITION. The fixed figures of the part (00_scope.md, Principal figures) and the free values: choices of order that the
spec leaves open, constants without a body of which nothing can be proved. -/

namespace Sys2Proof.Config

/-- Bytes in a frame (00_scope.md). -/
def frameSize : Nat := 8192

/-- Outstanding control requests of one port (R171). -/
def controlSlots : Nat := 4

/-- Records in one notice queue (R179). -/
def noticeQueueSize : Nat := 16

/-- The ceiling of a dropped-notice count (R179). -/
def droppedMax : Nat := 255

/-- Holders of one frame (R66). -/
def holdersMax : Nat := 4

/-- Loads in the load queue (R138). -/
def loadQueueSize : Nat := 4

/-- The age in microseconds at which an access, a scrub write or a descriptor read times out (R132, R113, R145). -/
def timeout : Nat := 200

/-- Writes in the scrub of one frame (R110). -/
def scrubWrites : Nat := 32

/-- DESIGN CHOICE (entry 6), safe. The free choices of order: where the spec lets several things of one event be taken in
either order, the k-th choice takes the one this value names. It has no body, so a claim holds whatever the order. -/
opaque freeChoice : Nat → Nat

/-- DESIGN CHOICE (entry 3), unsafe. The strap levels that State.reset takes as sampled. -/
def resetPart : BitVec 2 := 0

end Sys2Proof.Config
end

