-- ==== Sys2Proof/Machine/State.lean ====
section
/-! DEFINITION. The state of the PH416 as plain data: one structure per record the spec describes, the whole state with its
queue of waiting commands, the reasons a step can stop, the accessors, and the state after device reset. INVENTORY.md lists
each field with the rule that names it. -/

namespace Sys2Proof.Machine

open Sys2Proof

/-! ## Names -/

/-- The states of a frame (R4). -/
inductive FrameState where
  | free
  | held
  | reclaim
  | scrub
  | retired
  deriving DecidableEq, Repr

/-- Holder rights and map entry rights (00_scope.md, Rights). -/
inductive Rights where
  | read
  | readWrite
  deriving DecidableEq, Repr

/-- The states of a context (R23). -/
inductive CtxState where
  | free
  | live
  | teardown
  deriving DecidableEq, Repr

/-- The 21 kinds of control request (00_scope.md, Control requests and their owner chapters). -/
inductive RequestKind where
  | claim | release | frameInfo | deviceInfo
  | create | destroy | cede | contextInfo | bind
  | mapSet | mapClear | probe | mapLoad | loadCancel
  | offer | accept | decline | retract | leave | revoke
  | fetchNotices
  deriving DecidableEq, Repr

/-- The outcomes of a control response (10, Outcome codes). -/
inductive Verdict where
  | done | malformed | backlog | tagInUse | noRight | notOwner | notLive | badOperand
  | overQuota | noFrames | notHolder | notOrigin | isOrigin | stillShared | busy | alreadyHolder
  | duplicateOffer | holdersFull | offersFull | noSuchOffer | noContext | inUse | rightsExceeded
  | loadQueueFull | loadStopped | cancelled | offline
  deriving DecidableEq, Repr

/-- The causes of an access fault (R57). -/
inductive FaultCause where
  | badTag
  | span
  | notMapped
  | noWrite
  deriving DecidableEq, Repr

/-- The reasons for which a load stops (R146). -/
inductive StopReason where
  | sourceLost
  | stampMismatch
  | badDescriptor
  | notHolder
  | rightsExceeded
  | memoryFault
  | contextGone
  deriving DecidableEq, Repr

/-- The stop requests that can stand on a load record (R138). -/
inductive StopRequest where
  | cancelled
  | contextGone
  | portReset
  deriving DecidableEq, Repr

/-- The reasons of an OFFER_ENDED notice (R76). -/
inductive OfferEnd where
  | accepted
  | declined
  | expired
  | retracted
  | cancelled
  deriving DecidableEq, Repr

/-- The reasons of a SHARE_LOST notice (R82, R87). -/
inductive ShareLoss where
  | revoked
  | originGone
  deriving DecidableEq, Repr

/-- The kinds of a MEMORY_FAULT notice (R131, R132). -/
inductive MemoryFaultKind where
  | error
  | timeout
  deriving DecidableEq, Repr

/-! ## The frame table, the context table, the map store and the offer table -/

/-- A holder record of a frame (R1). -/
structure Holder where
  ctx : Ctx
  rights : Rights
  withdrawing : Bool
  deriving DecidableEq, Repr

/-- A frame record (R1). The holder list is empty outside HELD (R2). -/
structure FrameRec where
  state : FrameState
  holders : List Holder
  mapCount : Nat
  errorMark : Bool
  pendingOffers : Nat
  deriving DecidableEq, Repr

/-- A context record (R22). -/
structure CtxRec where
  state : CtxState
  owner : Option Port
  classes : Classes
  quota : Nat
  charged : Nat
  shareCount : Nat
  validCount : Nat
  deriving DecidableEq, Repr

/-- A valid map entry (R46). -/
structure MapEntry where
  frame : Frame
  rights : Rights
  deriving DecidableEq, Repr

/-- A map table: 128 entries, each invalid or valid (R46). -/
abbrev MapTable := Vector (Option MapEntry) 128

/-- An offer record; its id is the number of its slot (R65). -/
structure OfferRec where
  serial : BitVec 16
  frame : Frame
  offerer : Ctx
  target : Ctx
  rights : Rights
  remaining : Nat
  deriving DecidableEq, Repr

/-! ## Withdrawals and teardowns -/

/-- The operation that started a withdrawal, and what its record counts against (R91): a control slot named by port and
tag, or the teardown of a context. -/
inductive Requester where
  | release (p : Port) (t : Tag)
  | leave (p : Port) (t : Tag)
  | revoke (p : Port) (t : Tag)
  /-- A co-holder withdrawal of the origin departure that the teardown of `origin` asked for. -/
  | departure (origin : Ctx)
  /-- Step 4 of the context's own teardown. -/
  | teardown
  deriving DecidableEq, Repr

/-- A withdrawal record (R90): of FRAME kind where `frame` is present, else of CONTEXT kind. -/
structure Withdrawal where
  ctx : Ctx
  frame : Option Frame
  requester : Requester
  drain : List (Port × Slot)
  deriving DecidableEq, Repr

/-- What started a context teardown, and hears of its end (R43). -/
inductive Starter where
  | destroy (p : Port) (t : Tag)
  | portReset (p : Port)
  deriving DecidableEq, Repr

/-- Where a context teardown stands (R36 to R43, R85 to R88). -/
inductive TeardownStep where
  /-- Step 1 is taken; step 2 comes at a later event (pooled contexts, R36). -/
  | offers
  /-- Step 3 waits for a running load (R39). -/
  | loads
  /-- Step 4 waits for its withdrawal (R40). -/
  | drain
  /-- Step 5 between two turns (R41). -/
  | frames
  /-- Step 5, the turn of `f` waits for a holder under withdrawal (R41, R85). -/
  | turn (f : Frame)
  /-- Step 5, an origin departure of `f` without candidate runs (R87, R88). -/
  | departure (f : Frame)
  deriving DecidableEq, Repr

/-- A context teardown in progress. -/
structure Teardown where
  starter : Starter
  step : TeardownStep
  deriving DecidableEq, Repr

/-! ## The ports -/

/-- The phase of a port teardown (R153); CONTEXTS carries the context in teardown. -/
inductive PortPhase where
  | loads
  | contexts (c : Ctx)
  | ended
  deriving DecidableEq, Repr

/-- The state of a port (R154). -/
inductive PortState where
  | down
  | teardown (phase : PortPhase)
  | up
  deriving DecidableEq, Repr

/-- The binding state of a port (R153); SWITCHING carries the switch target and the pending BIND's tag. -/
inductive Binding where
  | settled
  | switching (target : Ctx) (pendingBind : Tag)
  deriving DecidableEq, Repr

/-- The standing of an outstanding control request (R170). -/
inductive Standing where
  | waiting
  | active
  deriving DecidableEq, Repr

/-- A control slot that holds an outstanding request (R170), with the operand bytes handed to its owner block (R175). -/
structure ControlSlot where
  tag : Tag
  kind : RequestKind
  operands : List Byte
  classes : Classes
  standing : Standing
  discard : Bool
  deriving DecidableEq, Repr

/-- The phase of a transit entry (R122); ISSUED carries the age in microseconds. -/
inductive TransitPhase where
  | waiting
  | issued (age : Nat)
  deriving DecidableEq, Repr

/-- A transit entry (R59, R122). Its port and slot are those of the place it stands at, its generation the slot's. -/
structure TransitEntry where
  tag : Tag
  mode : Mode
  ctx : Ctx
  page : Page
  frame : Frame
  dir : Direction
  offset : Fin 8192
  length : Nat
  data : List Byte
  phase : TransitPhase
  deriving DecidableEq, Repr

/-- A transit slot (R122): its generation outlives the accesses it carries. -/
structure TransitSlot where
  gen : Byte
  entry : Option TransitEntry
  deriving DecidableEq, Repr

/-- The result of an access response (R119). -/
inductive AccessResult where
  | ok (data : List Byte)
  | fault (cause : FaultCause)
  | memoryError
  | memoryTimeout
  | offline
  deriving DecidableEq, Repr

/-- The notices of 10.4 with the fields of their kinds. -/
inductive Notice where
  | accessFault (cause : FaultCause) (mode : Mode) (addr : Nat) (c : Ctx)
  | memoryFault (kind : MemoryFaultKind) (mode : Mode) (addr : Nat) (f : Frame)
  | offerArrived (i : OfferId) (serial : BitVec 16) (f : Frame) (offerer target : Ctx) (r : Rights) (lifetime : Nat)
  | offerEnded (i : OfferId) (serial : BitVec 16) (f : Frame) (reason : OfferEnd)
  | shareLost (f : Frame) (c : Ctx) (reason : ShareLoss)
  | shareLeft (f : Frame) (c : Ctx)
  | originInherited (f : Frame) (c : Ctx)
  | quotaReceived (source target : Ctx) (amount : Nat)
  deriving DecidableEq, Repr

/-- An access response (R119). -/
structure AccessResponse where
  tag : Tag
  result : AccessResult
  deriving DecidableEq, Repr

/-- All the state that belongs to one port: its controller's record (R153), the request lanes of its access channel (R119),
its control slots (R170), its part of the transit table (R122, R123), its notice queue (R179), the level of its port reset
line, and what its two response streams have delivered. -/
structure PortRec where
  state : PortState
  bound : Ctx
  binding : Binding
  lastLane : Mode
  /-- The level of PRST_N: true while the line is asserted. -/
  prst : Bool
  plainLane : List AccessRequest
  elevatedLane : List AccessRequest
  slots : List ControlSlot
  transit : Vector TransitSlot 16
  issueQueue : List Slot
  plainCount : Nat
  notices : List (List Byte)
  dropped : Nat
  /-- The model's own: the notices that the event under way has addressed to the port and not yet placed, as they were
  addressed (R180); empty between events (entry 18). -/
  arriving : List Notice
  accessResponses : List AccessResponse
  controlResponses : List (List Byte)
  deriving DecidableEq, Repr

/-! ## The memory port and the engines -/

/-- A request on the memory port (11.6). -/
structure MemoryRequest where
  requester : BitVec 3
  slot : Slot
  gen : Byte
  dir : Direction
  addr : BitVec 25
  length : Nat
  data : List Byte
  deriving DecidableEq, Repr

/-- A requester of the memory port arbiter, in ring order (R125). -/
inductive MemoryRequester where
  | port (p : Port)
  | scrub
  | load
  deriving DecidableEq, Repr

/-- The state of the scrub engine (R110). -/
inductive ScrubState where
  | idle
  | ready (current : Frame) (progress : Nat)
  | outstanding (current : Frame) (progress : Nat) (age : Nat)
  deriving DecidableEq, Repr

/-- The state of the load engine (R141); OUTSTANDING carries the read's age (R142). -/
inductive LoadState where
  | idle
  | ready
  | outstanding (age : Nat)
  deriving DecidableEq, Repr

/-- A load record (R138). -/
structure LoadRec where
  port : Port
  tag : Tag
  target : Ctx
  source : Frame
  offset : Nat
  count : Nat
  stamp : BitVec 32
  next : Nat
  stop : Option StopRequest
  deriving DecidableEq, Repr

/-! ## The whole state -/

/-- The state of the PH416 and the queue of commands waiting for it. -/
structure State where
  /-- The level of RST_N: true while the line is asserted (R154). -/
  rstAsserted : Bool
  /-- The straps as sampled at the last release of RST_N (R27). -/
  part : BitVec 2
  /-- Microsecond ticks since the release of RST_N (R137). -/
  usTicks : Nat
  /-- Millisecond ticks since the release of RST_N (R68, R89). -/
  msTicks : Nat
  /-- The frame records (R1). -/
  frames : Vector FrameRec 4096
  /-- The free list, head first (R10). -/
  freeList : List Frame
  /-- The scrub queue, head first (R108). -/
  scrubQueue : List Frame
  /-- The context records (R22). -/
  contexts : Vector CtxRec 16
  /-- The context teardowns in progress (R36). -/
  teardowns : Vector (Option Teardown) 16
  /-- The map tables (R46). -/
  maps : Vector MapTable 16
  /-- The offer slots (R65). -/
  offers : Vector (Option OfferRec) 16
  /-- The next offer serial (R67). -/
  nextSerial : BitVec 16
  /-- The withdrawal list (R90). -/
  withdrawals : List Withdrawal
  /-- The ports. -/
  ports : Vector PortRec 4
  /-- The arbiter's pointer (R125). -/
  pointer : MemoryRequester
  /-- The scrub engine (R110). -/
  scrub : ScrubState
  /-- The scrub engine's write generation (R110). -/
  writeGen : Byte
  /-- The load queue; its head is the running load (R138). -/
  loadQueue : List LoadRec
  /-- The load engine's state (R141). -/
  load : LoadState
  /-- The load engine's read generation (R142). -/
  readGen : Byte
  /-- The requests sent on the memory port, oldest first. -/
  memoryRequests : List MemoryRequest
  /-- The model's own: how many free choices of order have been used (entry 6). -/
  choices : Nat
  /-- The commands that are waiting, first in first out. -/
  pending : List Instr
  deriving DecidableEq, Repr

/-- The faults that stop the machine: none. The spec describes no event that stops the part; every error it names is an
outcome, an access result, a notice, an error mark or a retirement, all of them next states. -/
inductive Fault where
  deriving DecidableEq, Repr

/-- The refusals of the model. -/
inductive Refusal where
  /-- Raised by an arm of exec for a command that has no meaning yet; safe. No arm raises it now. -/
  | notModelled (mnemonic : String)
  deriving DecidableEq, Repr

/-! ## Accessors -/

namespace State

/-- The record of frame `f`. -/
def frame (s : State) (f : Frame) : FrameRec := s.frames.get f

/-- Write the record of frame `f`. -/
def setFrame (s : State) (f : Frame) (r : FrameRec) : State := { s with frames := s.frames.set f r }

/-- The record of context `c`. -/
def ctx (s : State) (c : Ctx) : CtxRec := s.contexts.get c

/-- Write the record of context `c`. -/
def setCtx (s : State) (c : Ctx) (r : CtxRec) : State := { s with contexts := s.contexts.set c r }

/-- The teardown of context `c`, if one is in progress. -/
def teardown (s : State) (c : Ctx) : Option Teardown := s.teardowns.get c

/-- Write the teardown of context `c`. -/
def setTeardown (s : State) (c : Ctx) (t : Option Teardown) : State := { s with teardowns := s.teardowns.set c t }

/-- Map entry (c, page). -/
def entry (s : State) (c : Ctx) (g : Page) : Option MapEntry := (s.maps.get c).get g

/-- Write map entry (c, page), without its counts. -/
def setEntry (s : State) (c : Ctx) (g : Page) (e : Option MapEntry) : State :=
  { s with maps := s.maps.set c ((s.maps.get c).set g e) }

/-- The offer record in slot `i`. -/
def offer (s : State) (i : OfferId) : Option OfferRec := s.offers.get i

/-- Write offer slot `i`. -/
def setOffer (s : State) (i : OfferId) (o : Option OfferRec) : State := { s with offers := s.offers.set i o }

/-- The record of port `p`. -/
def port (s : State) (p : Port) : PortRec := s.ports.get p

/-- Write the record of port `p`. -/
def setPort (s : State) (p : Port) (r : PortRec) : State := { s with ports := s.ports.set p r }

end State

/-- Transit slot `i` of a port. -/
def PortRec.slot (r : PortRec) (i : Slot) : TransitSlot := r.transit.get i

/-- Write transit slot `i` of a port. -/
def PortRec.setSlot (r : PortRec) (i : Slot) (x : TransitSlot) : PortRec := { r with transit := r.transit.set i x }

/-! ## The state after reset -/

/-- The home context of a port: C0 for P0 through C3 for P3 (00_scope.md, Terms). -/
def homeOf (p : Port) : Ctx := ⟨p.val, by omega⟩

/-- The port whose home context `c` is, if it is one (R24). -/
def homePort (c : Ctx) : Option Port := if h : c.val < 4 then some ⟨c.val, h⟩ else none

/-- The quota of home context `c` by the straps (R27); 0 for a pooled context. -/
def strapQuota (part : BitVec 2) (c : Ctx) : Nat :=
  match part.toNat, c.val with
  | 0, 0 => 1024 | 0, 1 => 1024 | 0, 2 => 1024 | 0, 3 => 1024
  | 1, 0 => 2048 | 1, 1 => 1024 | 1, 2 => 512 | 1, 3 => 512
  | 2, 0 => 3072 | 2, 1 => 512 | 2, 2 => 256 | 2, 3 => 256
  | 3, 0 => 4096
  | _, _ => 0

/-- A frame record after device reset (R21). -/
def FrameRec.reset : FrameRec := ⟨.scrub, [], 0, false, 0⟩

/-- The record of a FREE pooled context (R43, R45). -/
def CtxRec.free : CtxRec := ⟨.free, none, 0, 0, 0, 0, 0⟩

/-- The record of a context after device reset (R45). -/
def CtxRec.reset (part : BitVec 2) (c : Ctx) : CtxRec :=
  match homePort c with
  | some p => ⟨.live, some p, 15, strapQuota part c, 0, 0, 0⟩
  | none => CtxRec.free

/-- A FREE transit slot after device reset (R137). -/
def TransitSlot.reset : TransitSlot := ⟨0, none⟩

/-- A port record after device reset (R169, R137, R170, R179), in the given state, with the level of its PRST_N line and
with what its response streams have delivered. -/
def PortRec.reset (st : PortState) (p : Port) (prst : Bool) (acc : List AccessResponse) (ctl : List (List Byte)) :
    PortRec where
  state := st
  bound := homeOf p
  binding := .settled
  lastLane := .plain
  prst := prst
  plainLane := []
  elevatedLane := []
  slots := []
  transit := Vector.replicate 16 TransitSlot.reset
  issueQueue := []
  plainCount := 0
  notices := []
  dropped := 0
  arriving := []
  accessResponses := acc
  controlResponses := ctl

/-- The context records after device reset (R45). -/
def resetContexts (part : BitVec 2) : Vector CtxRec 16 :=
  ⟨⟨(List.finRange 16).map (CtxRec.reset part)⟩, by simp⟩

/-- The scrub queue after device reset: frames 0 to 4095 in ascending order (R21). -/
def resetScrubQueue : List Frame := List.finRange 4096

/-- The machine at the release of RST_N, with PART = 00 and no PRST_N asserted (entry 3; 12.1). -/
def State.reset : State where
  rstAsserted := false
  part := Config.resetPart
  usTicks := 0
  msTicks := 0
  frames := Vector.replicate 4096 FrameRec.reset
  freeList := []
  scrubQueue := resetScrubQueue
  contexts := resetContexts Config.resetPart
  teardowns := Vector.replicate 16 none
  maps := Vector.replicate 16 (Vector.replicate 128 none)
  offers := Vector.replicate 16 none
  nextSerial := 0
  withdrawals := []
  ports := ⟨⟨(List.finRange 4).map fun p => PortRec.reset .up p false [] []⟩, by simp⟩
  pointer := .port 0
  scrub := .ready 0 0
  writeGen := 0
  loadQueue := []
  load := .idle
  readGen := 0
  memoryRequests := []
  choices := 0
  pending := []

end Sys2Proof.Machine
end

