-- ==== Sys2Proof/Machine/Formats.lean ====
section
/-! DEFINITION. Message and record formats (11): the code tables of 11.7, the form of control requests (R184, R185), the bytes
of control responses (R186), notice records (R187) and map load descriptors (R188). -/

namespace Sys2Proof.Machine

open Sys2Proof

/-! ## Codes (11.2, 11.7) -/

/-- The kind a request code names (11.2), if it is one of the 21. -/
def kindOfCode (b : Byte) : Option RequestKind :=
  match b.toNat with
  | 0x01 => some .claim
  | 0x02 => some .release
  | 0x03 => some .frameInfo
  | 0x04 => some .deviceInfo
  | 0x10 => some .create
  | 0x11 => some .destroy
  | 0x12 => some .cede
  | 0x13 => some .contextInfo
  | 0x14 => some .bind
  | 0x20 => some .mapSet
  | 0x21 => some .mapClear
  | 0x22 => some .probe
  | 0x23 => some .mapLoad
  | 0x24 => some .loadCancel
  | 0x30 => some .offer
  | 0x31 => some .accept
  | 0x32 => some .decline
  | 0x33 => some .retract
  | 0x34 => some .leave
  | 0x35 => some .revoke
  | 0x40 => some .fetchNotices
  | _ => none

/-- The code of a request kind (11.2). -/
def RequestKind.code : RequestKind → Byte
  | .claim => 0x01
  | .release => 0x02
  | .frameInfo => 0x03
  | .deviceInfo => 0x04
  | .create => 0x10
  | .destroy => 0x11
  | .cede => 0x12
  | .contextInfo => 0x13
  | .bind => 0x14
  | .mapSet => 0x20
  | .mapClear => 0x21
  | .probe => 0x22
  | .mapLoad => 0x23
  | .loadCancel => 0x24
  | .offer => 0x30
  | .accept => 0x31
  | .decline => 0x32
  | .retract => 0x33
  | .leave => 0x34
  | .revoke => 0x35
  | .fetchNotices => 0x40

/-- The outcome codes of 11.7. -/
def Verdict.code : Verdict → Byte
  | .done => 0
  | .malformed => 1
  | .backlog => 2
  | .tagInUse => 3
  | .noRight => 4
  | .notOwner => 5
  | .notLive => 6
  | .badOperand => 7
  | .overQuota => 8
  | .noFrames => 9
  | .notHolder => 10
  | .notOrigin => 11
  | .isOrigin => 12
  | .stillShared => 13
  | .busy => 14
  | .alreadyHolder => 15
  | .duplicateOffer => 16
  | .holdersFull => 17
  | .offersFull => 18
  | .noSuchOffer => 19
  | .noContext => 20
  | .inUse => 21
  | .rightsExceeded => 22
  | .loadQueueFull => 23
  | .loadStopped => 24
  | .cancelled => 25
  | .offline => 26

/-- The fault cause codes of 11.7. -/
def FaultCause.code : FaultCause → Byte
  | .badTag => 1
  | .span => 2
  | .notMapped => 3
  | .noWrite => 4

/-- The MEMORY_FAULT kind codes of 11.7. -/
def MemoryFaultKind.code : MemoryFaultKind → Byte
  | .error => 1
  | .timeout => 2

/-- The OFFER_ENDED reason codes of 11.7. -/
def OfferEnd.code : OfferEnd → Byte
  | .accepted => 1
  | .declined => 2
  | .expired => 3
  | .retracted => 4
  | .cancelled => 5

/-- The SHARE_LOST reason codes of 11.7. -/
def ShareLoss.code : ShareLoss → Byte
  | .revoked => 1
  | .originGone => 2

/-- The load stop reason codes of 11.7. -/
def StopReason.code : StopReason → Byte
  | .sourceLost => 1
  | .stampMismatch => 2
  | .badDescriptor => 3
  | .notHolder => 4
  | .rightsExceeded => 5
  | .memoryFault => 6
  | .contextGone => 7

/-- The frame state codes of 11.7. -/
def FrameState.code : FrameState → Byte
  | .free => 0
  | .held => 1
  | .reclaim => 2
  | .scrub => 3
  | .retired => 4

/-- The context state codes of 11.7. -/
def CtxState.code : CtxState → Byte
  | .free => 0
  | .live => 1
  | .teardown => 2

/-- Rights: 1 READ, 2 READ_WRITE (R184). -/
def Rights.code : Rights → Byte
  | .read => 1
  | .readWrite => 2

/-- The rights a code names: 0 and 3-255 name none (R184). -/
def rightsOfCode (n : Nat) : Option Rights :=
  match n with
  | 1 => some .read
  | 2 => some .readWrite
  | _ => none

/-- Mode: 0 plain, 1 elevated (R184). -/
def modeCode : Mode → Byte
  | .plain => 0
  | .elevated => 1

/-- A context is its number (R184). -/
def ctxCode (c : Ctx) : Byte := byteOf c.val

/-- A port is its number, FFh for none (R184). -/
def ownerCode : Option Port → Byte
  | some p => byteOf p.val
  | none => 0xFF

/-- The result code of an access response (11.6). -/
def AccessResult.code : AccessResult → BitVec 3
  | .ok _ => 0
  | .fault _ => 1
  | .memoryError => 2
  | .memoryTimeout => 3
  | .offline => 4

/-- The cause field of an access response: 0 for every result other than FAULT (R189). -/
def AccessResult.causeCode : AccessResult → BitVec 3
  | .fault c => c.code.setWidth 3
  | _ => 0

/-! ## Control requests (11.2) -/

/-- The tag of a message: bits 3:0 of byte 1. -/
def messageTag (m : ControlMessage) : Tag := ⟨m.tagMode.toNat % 16, Nat.mod_lt _ (by decide)⟩

/-- The mode of a message: bit 4 of byte 1. -/
def messageMode (m : ControlMessage) : Mode := if m.tagMode.getLsbD 4 then .elevated else .plain

/-- The length of a request of this kind in bytes (11.2). -/
def requestLength : RequestKind → Nat
  | .deviceInfo => 4
  | .mapSet => 12
  | .mapLoad => 16
  | .offer => 12
  | _ => 8

/-- The byte offsets that the layout of this kind marks reserved, beside those of the header (11.2). -/
def reservedBytes : RequestKind → List Nat
  | .claim => [6, 7]
  | .release => [5]
  | .frameInfo => [4, 5]
  | .deviceInfo => []
  | .create => [5, 6, 7]
  | .destroy => [5, 6, 7]
  | .cede => []
  | .contextInfo => [5, 6, 7]
  | .bind => [5, 6, 7]
  | .mapSet => [9, 10, 11]
  | .mapClear => [6, 7]
  | .probe => [6, 7]
  | .mapLoad => [10, 11]
  | .loadCancel => [5, 6, 7]
  | .offer => [9]
  | .accept => [5]
  | .decline => [5]
  | .retract => [5]
  | .leave => [5]
  | .revoke => []
  | .fetchNotices => [5, 6, 7]

/-- The byte of a message's operands at an offset counted from the start of the message (11.2). -/
def operandByte (operands : List Byte) (i : Nat) : Nat := byteAt operands (i - 4)

/-- Every reserved field of a message of this kind is zero (test 3 of R185). -/
def reservedClear (k : RequestKind) (m : ControlMessage) : Bool :=
  m.tagMode.toNat / 32 == 0 && m.reserved == 0
    && (reservedBytes k).all (fun i => operandByte m.operands i == 0)
    && (k != .create || operandByte m.operands 4 / 16 == 0)

/-- The form of a message, judged in the order of R185: its kind where it is well formed, none where it is MALFORMED. -/
def messageKind (m : ControlMessage) : Option RequestKind :=
  match kindOfCode m.kind with
  | none => none
  | some k =>
    if m.length.toNat ≠ requestLength k then none
    else if reservedClear k m then some k
    else none

/-- The class of a request kind, none for a query (00_scope.md, Control requests and their owner chapters). -/
def requestClass : RequestKind → Option Classes
  | .claim => some 1
  | .release => some 1
  | .frameInfo => none
  | .deviceInfo => none
  | .create => some 8
  | .destroy => some 8
  | .cede => some 8
  | .contextInfo => none
  | .bind => some 8
  | .mapSet => some 4
  | .mapClear => some 4
  | .probe => none
  | .mapLoad => some 4
  | .loadCancel => some 4
  | .offer => some 2
  | .accept => some 2
  | .decline => some 2
  | .retract => some 2
  | .leave => some 2
  | .revoke => some 2
  | .fetchNotices => none

/-- All four request classes (R156). -/
def allClasses : Classes := 15

/-- Every class of `a` is in `b`. -/
def classesWithin (a b : Classes) : Bool := a &&& ~~~b == 0

/-! ## Control responses (11.3) -/

/-- The bytes of a control response: the header and the results (R186). -/
def responseBytes (kind : Byte) (t : Tag) (v : Verdict) (results : List Byte) : List Byte :=
  [kind, byteOf t.val, v.code, byteOf (4 + results.length)] ++ results

/-- The results of CLAIM DONE. -/
def claimResults (fs : List Frame) : List Byte :=
  [byteOf fs.length, 0, 0, 0] ++ fs.flatMap (fun f => le16 f.val)

/-- The results of OVER_QUOTA: the headroom. -/
def overQuotaResults (headroom : Nat) : List Byte := le16 headroom ++ zeros 2

/-- The results of NO_FRAMES: free list length and scrub queue length. -/
def noFramesResults (free scrub : Nat) : List Byte := le16 free ++ le16 scrub

/-- The results of RELEASE DONE: the retired flag. -/
def releaseResults (retired : Bool) : List Byte := flagByte retired :: zeros 3

/-- A holder record of FRAME_INFO: four bytes. -/
def holderBytes (h : Holder) : List Byte := [ctxCode h.ctx, h.rights.code, flagByte h.withdrawing, 0]

/-- The results of FRAME_INFO DONE. -/
def frameInfoResults (r : FrameRec) : List Byte :=
  [r.state.code, byteOf r.holders.length] ++ le16 r.mapCount
    ++ [flagByte r.errorMark, byteOf r.pendingOffers, 0, 0] ++ r.holders.flatMap holderBytes

/-- The results of FRAME_INFO NOT_HOLDER: the state alone. -/
def frameStateResults (st : FrameState) : List Byte := st.code :: zeros 3

/-- The results of DEVICE_INFO DONE. -/
def deviceInfoResults (free held reclaim scrub retired freeLength scrubLength offers loads serial : Nat) : List Byte :=
  le16 free ++ le16 held ++ le16 reclaim ++ le16 scrub ++ le16 retired ++ le16 freeLength ++ le16 scrubLength
    ++ [byteOf offers, byteOf loads] ++ le16 serial ++ zeros 2

/-- The results of CREATE DONE and BIND DONE: one context. -/
def contextResults (c : Ctx) : List Byte := ctxCode c :: zeros 3

/-- The results of DESTROY DONE: the quota returned. -/
def destroyResults (quota : Nat) : List Byte := le16 quota ++ zeros 2

/-- The results of CEDE DONE: the two quotas after the move. -/
def cedeResults (a b : Nat) : List Byte := le16 a ++ le16 b

/-- The results of CONTEXT_INFO DONE, with the binding's code. -/
def contextInfoResults (r : CtxRec) (binding : Byte) : List Byte :=
  [r.state.code, ownerCode r.owner, r.classes.setWidth 8, binding]
    ++ le16 r.quota ++ le16 r.charged ++ le16 r.shareCount ++ [byteOf r.validCount, 0]

/-- The results of MAP_SET DONE and MAP_CLEAR DONE: the entry before the change. -/
def previousResults : Option MapEntry → List Byte
  | some e => [1, 0] ++ le16 e.frame.val
  | none => zeros 4

/-- The results of PROBE DONE for a valid entry. -/
def probeResults (e : MapEntry) (st : FrameState) (holderRights : Byte) : List Byte :=
  [1, e.rights.code] ++ le16 e.frame.val ++ [st.code, holderRights, 0, 0]

/-- The results of MAP_LOAD DONE: the applied count. -/
def loadDoneResults (applied : Nat) : List Byte := [0, byteOf applied, 0, 0]

/-- The results of MAP_LOAD LOAD_STOPPED: reason, applied count and the stopping index, which equals it (R146). -/
def loadStoppedResults (r : StopReason) (applied : Nat) : List Byte := [r.code, byteOf applied, byteOf applied, 0]

/-- The results of MAP_LOAD CANCELLED: applied count and stopping index. -/
def loadCancelledResults (applied : Nat) : List Byte := [0, byteOf applied, byteOf applied, 0]

/-- The results of OFFER DONE: offer id and serial. -/
def offerResults (i : OfferId) (serial : BitVec 16) : List Byte := [byteOf i.val, 0] ++ le16 serial.toNat

/-- The results of ACCEPT DONE: the frame. -/
def acceptResults (f : Frame) : List Byte := le16 f.val ++ zeros 2

/-- The results of RETRACT DONE: the frame and the remaining lifetime. -/
def retractResults (f : Frame) (remaining : Nat) : List Byte := le16 f.val ++ le16 remaining

/-- The results of FETCH_NOTICES DONE. -/
def fetchResults (records : List (List Byte)) (remaining dropped : Nat) : List Byte :=
  [byteOf records.length, byteOf remaining, byteOf dropped, 0] ++ records.flatten

/-! ## Notice records (11.4) -/

/-- The 16 bytes of a notice record (R187). -/
def Notice.record : Notice → List Byte
  | .accessFault cause mode addr c =>
    [1, cause.code, modeCode mode, ctxCode c, 0, 0, 0, 0] ++ le24 addr ++ zeros 5
  | .memoryFault kind mode addr f =>
    [2, kind.code, modeCode mode, 0, 0, 0] ++ le16 f.val ++ le24 addr ++ zeros 5
  | .offerArrived i serial f offerer target r lifetime =>
    [3, byteOf i.val, ctxCode offerer, ctxCode target] ++ le16 serial.toNat ++ le16 f.val
      ++ [r.code, 0] ++ le16 lifetime ++ zeros 4
  | .offerEnded i serial f reason =>
    [4, byteOf i.val, reason.code, 0] ++ le16 serial.toNat ++ le16 f.val ++ zeros 8
  | .shareLost f c reason => [5, reason.code, ctxCode c, 0, 0, 0] ++ le16 f.val ++ zeros 8
  | .shareLeft f c => [6, 0, ctxCode c, 0, 0, 0] ++ le16 f.val ++ zeros 8
  | .originInherited f c => [7, 0, ctxCode c, 0, 0, 0] ++ le16 f.val ++ zeros 8
  | .quotaReceived source target amount =>
    [8, 0, ctxCode source, ctxCode target] ++ le16 amount ++ zeros 10

/-! ## Map load descriptors (11.5) -/

/-- What a descriptor of good form asks for. -/
inductive DescriptorAction where
  | set (page : Page) (e : MapEntry)
  | clear (page : Page)
  deriving DecidableEq, Repr

/-- The stamp of a descriptor: bytes 0-3, little-endian (R188). -/
def descriptorStamp (d : List Byte) : BitVec 32 := BitVec.ofNat 32 (longAt d 0)

/-- What a descriptor asks for, none where test 3 of R143 fails (R188): page byte 128-255, zero byte not 0, action 0 or 3,
or, for SET, rights 0 or 3. For CLEAR bits 13:0 of bytes 6-7 are not examined. -/
def descriptorAction (d : List Byte) : Option DescriptorAction :=
  if h : byteAt d 4 < 128 then
    if byteAt d 5 ≠ 0 then none
    else
      match wordAt d 6 / 16384 with
      | 1 =>
        match rightsOfCode (wordAt d 6 / 4096 % 4) with
        | some r => some (.set ⟨byteAt d 4, h⟩ ⟨⟨wordAt d 6 % 4096, Nat.mod_lt _ (by decide)⟩, r⟩)
        | none => none
      | 2 => some (.clear ⟨byteAt d 4, h⟩)
      | _ => none
  else none

end Sys2Proof.Machine
end

