-- ==== Sys2Proof/Machine/Flags.lean ====
section
/-! DEFINITION. What is computed from the state and not stored: the notice line, headroom, standing on a frame, the holding
checks H1 and H2, outstanding tags, the binding that CONTEXT_INFO reports, and the counts of DEVICE_INFO. -/

namespace Sys2Proof.Machine

open Sys2Proof

/-- The port is UP (R154). -/
def portUp (s : State) (p : Port) : Bool := (s.port p).state == .up

/-- The notice line of a port: asserted in UP while the queue holds a record (R155). -/
def State.noticeLine (s : State) (p : Port) : Bool := portUp s p && !(s.port p).notices.isEmpty

/-- Headroom: quota minus charged (R26). -/
def headroom (r : CtxRec) : Nat := r.quota - r.charged

/-- The context is one of C4-C15 (R22). -/
def pooled (c : Ctx) : Bool := 4 ≤ c.val

/-- The context's owner is the port (R24). -/
def ownedBy (s : State) (p : Port) (c : Ctx) : Bool := (s.ctx c).owner == some p

/-- The context is LIVE. -/
def live (s : State) (c : Ctx) : Bool := (s.ctx c).state == .live

/-- The holder record of a context in a holder list. -/
def holderOf (hs : List Holder) (c : Ctx) : Option Holder := hs.find? fun h => h.ctx == c

/-- The context stands in the holder list, withdrawing or not. -/
def holds (hs : List Holder) (c : Ctx) : Bool := hs.any fun h => h.ctx == c

/-- The origin: the first holder (R2). -/
def originOf (hs : List Holder) : Option Ctx := hs.head?.map Holder.ctx

/-- Some holder's withdrawing flag is set. -/
def anyWithdrawing (hs : List Holder) : Bool := hs.any Holder.withdrawing

/-- `r` exceeds the holder rights `h`: READ_WRITE where READ is held (00_scope.md, Rights). -/
def exceeds (r h : Rights) : Bool := r == .readWrite && h == .read

/-- The holding checks H1 and H2 of R49 for an entry of `c` naming `f` with rights `r`: the failing outcome, or none. -/
def holdingFault (s : State) (c : Ctx) (f : Frame) (r : Rights) : Option Verdict :=
  if (s.frame f).state ≠ .held then some .notHolder
  else
    match holderOf (s.frame f).holders c with
    | none => some .notHolder
    | some h =>
      if h.withdrawing then some .notHolder
      else if exceeds r h.rights then some .rightsExceeded
      else none

/-- The source test of R141: the frame is HELD and the target or the home context of the port stands in its holder list,
withdrawing or not. -/
def sourceHeld (s : State) (p : Port) (target : Ctx) (f : Frame) : Bool :=
  (s.frame f).state == .held && (holds (s.frame f).holders target || holds (s.frame f).holders (homeOf p))

/-- The context stands in the holder list of the frame; only a HELD frame has one (R2). -/
def standsOn (c : Ctx) (r : FrameRec) : Bool := r.state == .held && holds r.holders c

/-- The lowest-numbered frame in whose holder list the context stands (R41). -/
def lowestHeld (s : State) (c : Ctx) : Option Frame :=
  match s.frames.toArray.toList.findIdx? (standsOn c) with
  | some n => if h : n < 4096 then some ⟨n, h⟩ else none
  | none => none

/-- The number of frames in a state (R19). -/
def frameCount (s : State) (st : FrameState) : Nat := s.frames.toArray.toList.countP fun r => r.state == st

/-- The number of pending offers (R19). -/
def offerCount (s : State) : Nat := s.offers.toArray.toList.countP Option.isSome

/-- The access tag is outstanding at the port: a transit entry of the port carries it (R57). -/
def tagOutstanding (r : PortRec) (t : Tag) : Bool :=
  r.transit.toArray.toList.any fun x =>
    match x.entry with
    | some e => e.tag == t
    | none => false

/-- The lowest-numbered FREE transit slot of a port (R123). -/
def freeSlot (r : PortRec) : Option Slot := (List.finRange 16).find? fun i => (r.slot i).entry.isNone

/-- The control slot of a port with this tag (R170). -/
def slotOf (r : PortRec) (t : Tag) : Option ControlSlot := r.slots.find? fun q => q.tag == t

/-- The code of the binding that CONTEXT_INFO reports (R32, 11.7): 0 UNBOUND, 1 BOUND_SETTLED, 2 BOUND_SWITCHING,
3 SWITCH_TARGET. -/
def bindingCode (s : State) (c : Ctx) : Byte :=
  match (s.ctx c).owner with
  | none => 0
  | some p =>
    match (s.port p).binding with
    | .settled => if (s.port p).bound = c then 1 else 0
    | .switching target _ =>
      if (s.port p).bound = c then 2 else if target = c then 3 else 0

/-- The context is the port's bound context or the target of its pending switch (R33). -/
def inUse (r : PortRec) (c : Ctx) : Bool :=
  r.bound == c ||
    match r.binding with
    | .settled => false
    | .switching target _ => target == c

/-- The translating context of an access (R56). -/
def translatingCtx (s : State) (p : Port) (m : Mode) : Ctx :=
  match m with
  | .elevated => homeOf p
  | .plain => (s.port p).bound

/-- The acting classes of a request (R173). -/
def actingClasses (s : State) (p : Port) (m : Mode) : Classes :=
  match m with
  | .elevated => allClasses
  | .plain => (s.ctx (s.port p).bound).classes

/-- The physical address of an offset in a frame, 25 bits (R124). -/
def physical (f : Frame) (offset : Nat) : BitVec 25 := BitVec.ofNat 25 (f.val * Config.frameSize + offset)

end Sys2Proof.Machine
end

