-- ==== Sys2Proof/Machine/Operands.lean ====
section
/-! DEFINITION. The operands of a control request, read from the operand bytes in its control slot at the offsets of 11.2
(counted from the start of the message). An operand outside its range reads as none: the owner block's range check refuses it
BAD_OPERAND (R184). -/

namespace Sys2Proof.Machine

open Sys2Proof

/-- A context operand: 16-255 is out of range (R184). -/
def operandCtx (ops : List Byte) (i : Nat) : Option Ctx :=
  if h : operandByte ops i < 16 then some ⟨operandByte ops i, h⟩ else none

/-- A page operand: 128-255 is out of range. -/
def operandPage (ops : List Byte) (i : Nat) : Option Page :=
  if h : operandByte ops i < 128 then some ⟨operandByte ops i, h⟩ else none

/-- A tag or offer id operand: 16-255 is out of range. -/
def operandTag (ops : List Byte) (i : Nat) : Option Tag :=
  if h : operandByte ops i < 16 then some ⟨operandByte ops i, h⟩ else none

/-- A 16-bit operand. -/
def operandWord (ops : List Byte) (i : Nat) : Nat := wordAt ops (i - 4)

/-- A frame operand: 4096-65535 is out of range. -/
def operandFrame (ops : List Byte) (i : Nat) : Option Frame :=
  if h : operandWord ops i < 4096 then some ⟨operandWord ops i, h⟩ else none

/-- A rights operand: 0 and 3-255 are out of range. -/
def operandRights (ops : List Byte) (i : Nat) : Option Rights := rightsOfCode (operandByte ops i)

/-- A serial operand: every value is one. -/
def operandSerial (ops : List Byte) (i : Nat) : BitVec 16 := BitVec.ofNat 16 (operandWord ops i)

/-- A stamp operand: every value is one. -/
def operandStamp (ops : List Byte) (i : Nat) : BitVec 32 := BitVec.ofNat 32 (longAt ops (i - 4))

/-- A set of request classes: bits 3:0 of the byte (R184). -/
def operandClasses (ops : List Byte) (i : Nat) : Classes := BitVec.ofNat 4 (operandByte ops i)

end Sys2Proof.Machine
end

