-- ==== Sys2Proof/Machine/Ops.lean ====
section
/-! DEFINITION. The shared operations of the blocks: the response streams and the notice queues (10), the operations asked of
the frame table (R6), the reclaim exit and the scrub queue (6), the entry changes of the map store (R48, R55), the offer table's
removals (R76), and the start of a withdrawal (R93). Each is one whole change (R5). -/

namespace Sys2Proof.Machine

open Sys2Proof

/-! ## Updates -/

/-- Change the record of frame `f`. -/
def modFrame (s : State) (f : Frame) (g : FrameRec → FrameRec) : State := s.setFrame f (g (s.frame f))

/-- Change the record of context `c`. -/
def modCtx (s : State) (c : Ctx) (g : CtxRec → CtxRec) : State := s.setCtx c (g (s.ctx c))

/-- Change the record of port `p`. -/
def modPort (s : State) (p : Port) (g : PortRec → PortRec) : State := s.setPort p (g (s.port p))

/-- Apply a function to every entry of a vector. -/
def mapVec {α β : Type} {n : Nat} (g : α → β) (v : Vector α n) : Vector β n :=
  ⟨⟨v.toArray.toList.map g⟩, by simp⟩

/-- DESIGN CHOICE (entry 6). One of several things that the spec lets be taken in either order. Where there is only one it
is that one; where there are several the free choice decides, and the count of choices advances. -/
def choose {α : Type} (s : State) : List α → Option (State × α)
  | [] => none
  | [x] => some (s, x)
  | x :: y :: rest =>
    some ({ s with choices := s.choices + 1 },
      (x :: y :: rest).getD (Config.freeChoice s.choices % (rest.length + 2)) x)

/-! ## Response streams (R134, R176) -/

/-- Deliver an access response on the port's access stream (R134). -/
def sendAccess (s : State) (p : Port) (r : AccessResponse) : State :=
  modPort s p fun x => { x with accessResponses := x.accessResponses ++ [r] }

/-- An access response decided for work accepted earlier: discarded unless the port is UP (R135, R155). -/
def answerAccess (s : State) (p : Port) (r : AccessResponse) : State :=
  modPort s p fun x => if x.state = .up then { x with accessResponses := x.accessResponses ++ [r] } else x

/-- Deliver a control response on the port's control stream (R176). -/
def sendControl (s : State) (p : Port) (bytes : List Byte) : State :=
  modPort s p fun x => { x with controlResponses := x.controlResponses ++ [bytes] }

/-- A long request is carried on: its slot becomes ACTIVE (R170). -/
def activate (s : State) (p : Port) (t : Tag) : State :=
  modPort s p fun x =>
    { x with slots := x.slots.map fun q => if q.tag = t then { q with standing := .active } else q }

/-- A port record after the response to the request under the tag: its slot returns to FREE, and the response is sent, or
discarded where the slot carries the discard mark or the port is not UP (R176, R177). -/
def PortRec.responded (r : PortRec) (t : Tag) (v : Verdict) (results : List Byte) : PortRec :=
  match slotOf r t with
  | none => r
  | some q =>
    let r1 := { r with slots := r.slots.filter fun x => x.tag != t }
    if q.discard || r.state != .up then r1
    else { r1 with controlResponses := r1.controlResponses ++ [responseBytes q.kind.code t v results] }

/-- The response to an outstanding request, sent or discarded (R176, R177). -/
def respond (s : State) (p : Port) (t : Tag) (v : Verdict) (results : List Byte) : State :=
  modPort s p fun r => r.responded t v results

/-! ## Notices (R180) -/

/-- A port record after a notice is addressed to the port: placed at the tail of its queue, counted as dropped where the queue
is full, discarded uncounted where the port is not UP (R180). -/
def PortRec.noticed (r : PortRec) (n : Notice) : PortRec :=
  if r.state = .up then
    if r.notices.length < Config.noticeQueueSize then { r with notices := r.notices ++ [n.record] }
    else { r with dropped := min Config.droppedMax (r.dropped + 1) }
  else r

/-- A notice addressed to a port (R180). -/
def address (s : State) (p : Port) (n : Notice) : State := modPort s p fun r => r.noticed n

/-- A notice addressed to the owner port of a context. -/
def addressOwner (s : State) (c : Ctx) (n : Notice) : State :=
  match (s.ctx c).owner with
  | some p => address s p n
  | none => s

/-- A notice addressed to the owner port of a frame's origin. -/
def addressOrigin (s : State) (f : Frame) (n : Notice) : State :=
  match originOf (s.frame f).holders with
  | some c => addressOwner s c n
  | none => s

/-! ### Several notices of one event (R180)

An event that may go on (`settle`, TeardownOps.lean) can address several notices to one port, in another order than R180 places
them. Its notices are kept as they are addressed and placed at its end. -/

/-- The group of a notice in the order of R180: 1 the faults of accesses, 2 what end steps tell, 3 what the offer table tells.
DESIGN CHOICE (entry 18): SHARE_LEFT and ORIGIN_INHERITED of a teardown's turn, which R180 does not list, stand in group 2. -/
def Notice.group : Notice → Nat
  | .accessFault _ _ _ _ => 1
  | .memoryFault _ _ _ _ => 1
  | .offerArrived _ _ _ _ _ _ _ => 3
  | .offerEnded _ _ _ _ => 3
  | .shareLost _ _ _ => 2
  | .shareLeft _ _ => 2
  | .originInherited _ _ => 2
  | .quotaReceived _ _ _ => 2

/-- The offer id that a notice of the offer table carries. -/
def Notice.offerId : Notice → Option OfferId
  | .offerArrived i _ _ _ _ _ _ => some i
  | .offerEnded i _ _ _ => some i
  | _ => none

/-- The notices of one event to one port in the order of R180: groups 1 and 2 as they were addressed, group 3 in ascending
offer id. -/
def inNoticeOrder (ns : List Notice) : List Notice :=
  (ns.filter fun n => n.group == 1) ++ (ns.filter fun n => n.group == 2)
    ++ (List.finRange 16).flatMap fun i => ns.filter fun n => n.offerId == some i

/-- A port record after an event that may go on has addressed a notice to the port: kept to be placed at the event's end where
the port is UP, discarded uncounted where it is not (R180). -/
def PortRec.notified (r : PortRec) (n : Notice) : PortRec :=
  if r.state = .up then { r with arriving := r.arriving ++ [n] } else r

/-- A notice addressed to a port by an event that may go on (R180). -/
def notify (s : State) (p : Port) (n : Notice) : State := modPort s p fun r => r.notified n

/-- A notice addressed to the owner port of a context by an event that may go on. -/
def notifyOwner (s : State) (c : Ctx) (n : Notice) : State :=
  match (s.ctx c).owner with
  | some p => notify s p n
  | none => s

/-- A notice addressed to the owner port of a frame's origin by an event that may go on. -/
def notifyOrigin (s : State) (f : Frame) (n : Notice) : State :=
  match originOf (s.frame f).holders with
  | some c => notifyOwner s c n
  | none => s

/-- A port record after the notices of the event are placed, in the order of R180, each under its conditions. -/
def PortRec.placed (r : PortRec) : PortRec :=
  (inNoticeOrder r.arriving).foldl PortRec.noticed { r with arriving := [] }

/-- The notices of the event are placed (R180). -/
def placeNotices (s : State) : State := { s with ports := mapVec PortRec.placed s.ports }

/-! ## Operations of the frame table (R6, R8) -/

/-- Set the error mark of a frame, in whatever state it is (R8). -/
def setErrorMark (s : State) (f : Frame) : State := modFrame s f fun r => { r with errorMark := true }

/-- Append co-holder (R6): with the share count of the target. -/
def appendHolder (s : State) (f : Frame) (c : Ctx) (r : Rights) : State :=
  modCtx (modFrame s f fun x => { x with holders := x.holders ++ [⟨c, r, false⟩] }) c
    fun x => { x with shareCount := x.shareCount + 1 }

/-- Mark withdrawing (R6). -/
def markWithdrawing (s : State) (f : Frame) (c : Ctx) : State :=
  modFrame s f fun x =>
    { x with holders := x.holders.map fun h => if h.ctx = c then { h with withdrawing := true } else h }

/-- Remove co-holder (R6): with the share count of the removed context. -/
def removeHolder (s : State) (f : Frame) (c : Ctx) : State :=
  modCtx (modFrame s f fun x => { x with holders := x.holders.filter fun h => h.ctx != c }) c
    fun x => { x with shareCount := x.shareCount - 1 }

/-- Promote (R6, R86): the departing origin's record is removed, the candidate's moved to the head with READ_WRITE, and the
charge moves to it. -/
def promote (s : State) (f : Frame) (origin candidate : Ctx) : State :=
  let s1 := modFrame s f fun x =>
    { x with holders :=
        ⟨candidate, .readWrite, false⟩ :: x.holders.filter fun h => h.ctx != origin && h.ctx != candidate }
  let s2 := modCtx s1 candidate fun x => { x with charged := x.charged + 1, shareCount := x.shareCount - 1 }
  modCtx s2 origin fun x => { x with charged := x.charged - 1 }

/-- Give up (R6): HELD to RECLAIM, the holder list dropped, the origin's charge with it. -/
def giveUp (s : State) (f : Frame) (origin : Ctx) : State :=
  modCtx (modFrame s f fun x => { x with state := .reclaim, holders := [], pendingOffers := 0 }) origin
    fun x => { x with charged := x.charged - 1 }

/-! ## Reclaim exit and scrub queue (R106, R108, R110) -/

/-- The scrub engine takes the head of the scrub queue as current frame with progress 0, or goes IDLE (R112, R113). -/
def scrubNext (s : State) : State :=
  { s with scrub := match s.scrubQueue with | [] => .idle | f :: _ => .ready f 0 }

/-- Append a frame at the tail of the scrub queue; an IDLE engine leaves idle with the head (R110). -/
def enqueueScrub (s : State) (f : Frame) : State :=
  let s1 := { s with scrubQueue := s.scrubQueue ++ [f] }
  if s.scrub = .idle then scrubNext s1 else s1

/-- The reclaim exit (R106): a frame in RECLAIM goes to SCRUB where its error mark is clear, to RETIRED where it is set. -/
def reclaimExit (s : State) (f : Frame) : State :=
  if (s.frame f).state ≠ .reclaim then s
  else if (s.frame f).errorMark then modFrame s f fun x => { x with state := .retired }
  else enqueueScrub (modFrame s f fun x => { x with state := .scrub }) f

/-! ## Entry changes of the map store (R48) -/

/-- Raise the map count of a frame by 1 (R7). -/
def raiseMapCount (s : State) (f : Frame) : State := modFrame s f fun x => { x with mapCount := x.mapCount + 1 }

/-- Lower the map count of a frame by 1 (R7). -/
def lowerMapCount (s : State) (f : Frame) : State := modFrame s f fun x => { x with mapCount := x.mapCount - 1 }

/-- Make entry (c, page) valid, or replace it, with the counts in step (R48). -/
def makeEntry (s : State) (c : Ctx) (g : Page) (e : MapEntry) : State :=
  let s1 := s.setEntry c g (some e)
  match s.entry c g with
  | none => modCtx (raiseMapCount s1 e.frame) c fun x => { x with validCount := x.validCount + 1 }
  | some old => if old.frame = e.frame then s1 else raiseMapCount (lowerMapCount s1 old.frame) e.frame

/-- Make entry (c, page) invalid, with the counts in step; nothing where it is invalid (R48). -/
def clearEntry (s : State) (c : Ctx) (g : Page) : State :=
  match s.entry c g with
  | none => s
  | some old =>
    modCtx (lowerMapCount (s.setEntry c g none) old.frame) c fun x => { x with validCount := x.validCount - 1 }

/-- The invalidation at the start of a withdrawal (R55): every valid entry of `c`, or those naming the one frame. -/
def invalidate (s : State) (c : Ctx) (f : Option Frame) : State :=
  (List.finRange 128).foldl (fun s g =>
    match s.entry c g with
    | none => s
    | some e => if f = none ∨ f = some e.frame then clearEntry s c g else s) s

/-! ## Removals of the offer table (R69, R73 to R76) -/

/-- Remove the record in slot `i`; the pending offer count of its frame falls by 1 (R65). -/
def removeOffer (s : State) (i : OfferId) : State :=
  match s.offer i with
  | none => s
  | some o => modFrame (s.setOffer i none) o.frame fun x => { x with pendingOffers := x.pendingOffers - 1 }

/-- The offer in slot `i` ends: it is removed, and OFFER_ENDED is addressed to the owner port of one party. -/
def endOffer (s : State) (i : OfferId) (reason : OfferEnd) (party : Ctx) : State :=
  match s.offer i with
  | none => s
  | some o => addressOwner (removeOffer s i) party (.offerEnded i o.serial o.frame reason)

/-- The offer in slot `i` is cancelled (R76): it is removed, and OFFER_ENDED CANCELLED is addressed to the owner port of one
party. -/
def cancelOffer (s : State) (i : OfferId) (party : Ctx) : State :=
  match s.offer i with
  | none => s
  | some o => notifyOwner (removeOffer s i) party (.offerEnded i o.serial o.frame .cancelled)

/-- Cancellation at the acceptance of a RELEASE of `f` (R76): the notice goes to the target's owner port. -/
def cancelOffersOn (s : State) (f : Frame) : State :=
  (List.finRange 16).foldl (fun s i =>
    match s.offer i with
    | none => s
    | some o => if o.frame = f then cancelOffer s i o.target else s) s

/-- Cancellation at step 2 of the teardown of `c` (R38, R76): the notice goes to the other party's owner port. -/
def cancelOffersOf (s : State) (c : Ctx) : State :=
  (List.finRange 16).foldl (fun s i =>
    match s.offer i with
    | none => s
    | some o =>
      if o.offerer = c then cancelOffer s i o.target
      else if o.target = c then cancelOffer s i o.offerer
      else s) s

/-- Expiry (R69): OFFER_ENDED EXPIRED to the owner ports of both parties, once where they are one port. -/
def expireOffer (s : State) (i : OfferId) : State :=
  match s.offer i with
  | none => s
  | some o =>
    let s1 := endOffer s i .expired o.offerer
    if (s.ctx o.offerer).owner = (s.ctx o.target).owner then s1
    else addressOwner s1 o.target (.offerEnded i o.serial o.frame .expired)

/-! ## Withdrawals (R93, R94) -/

/-- The drain set of R94: every transit entry of `c`, or those whose frame is the one frame. -/
def drainSet (s : State) (c : Ctx) (f : Option Frame) : List (Port × Slot) :=
  (List.finRange 4).flatMap fun p =>
    ((List.finRange 16).filter fun i =>
      match ((s.port p).slot i).entry with
      | none => false
      | some e => e.ctx == c && (f == none || f == some e.frame)).map fun i => (p, i)

/-- The start of a withdrawal (R93): the record is placed, the entries are invalidated and the drain set is taken. The
withdrawing flag, where the requester sets one (R91), is set by `markWithdrawing` at the same event. -/
def startWithdrawal (s : State) (c : Ctx) (f : Option Frame) (q : Requester) : State :=
  let s1 := invalidate s c f
  { s1 with withdrawals := s1.withdrawals ++ [⟨c, f, q, drainSet s1 c f⟩] }

/-- The start of a FRAME withdrawal that sets the holder's flag: LEAVE, REVOKE, origin departure (R91). -/
def withdrawHolder (s : State) (c : Ctx) (f : Frame) (q : Requester) : State :=
  startWithdrawal (markWithdrawing s f c) c (some f) q

end Sys2Proof.Machine
end

