-- ==== Sys2Proof/Machine/LoadOps.lean ====
section
/-! DEFINITION. The shared operations of the load engine (8): the start check of a descriptor (R141), the end of a load (R146)
and the stop requests (R147 to R150). The head of the load queue is the running load. -/

namespace Sys2Proof.Machine

open Sys2Proof

/-- How a load ends: the outcome and the results of its MAP_LOAD's response (R146). -/
abbrev LoadEnd := Verdict × List Byte

/-- The end of a load that a test or a failed read stops (R146). -/
def stopped (reason : StopReason) (applied : Nat) : LoadEnd := (.loadStopped, loadStoppedResults reason applied)

/-- The end of a load by a stop request taken (R148). -/
def stopRequestEnd (q : StopRequest) (applied : Nat) : LoadEnd :=
  match q with
  | .cancelled => (.cancelled, loadCancelledResults applied)
  | .contextGone => stopped .contextGone applied
  | .portReset => stopped .contextGone applied

/-- The start check of the running load's next descriptor (R141): a stop request is taken in its place (R148); else the
target must be LIVE, then the source held. None where the descriptor may be read. -/
def startCheck (s : State) (r : LoadRec) : Option LoadEnd :=
  match r.stop with
  | some q => some (stopRequestEnd q r.next)
  | none =>
    if live s r.target then
      if sourceHeld s r.port r.target r.source then none else some (stopped .sourceLost r.next)
    else some (stopped .contextGone r.next)

/-- The running load ends: its record leaves the queue, its MAP_LOAD is answered and its slot released (R146). -/
def endRunning (s : State) (e : LoadEnd) : State :=
  match s.loadQueue with
  | [] => s
  | r :: rest => respond { s with loadQueue := rest, load := .idle } r.port r.tag e.1 e.2

/-- Run the head of the load queue to its next descriptor's READY; a load that its start check ends makes way for the next
one at the same event; an empty queue leaves the engine IDLE (R141, R146). -/
def runLoadsFor : Nat → State → State
  | 0, s => s
  | n + 1, s =>
    match s.loadQueue with
    | [] => { s with load := .idle }
    | r :: _ =>
      match startCheck s r with
      | none => { s with load := .ready }
      | some e => runLoadsFor n (endRunning s e)

/-- `runLoadsFor` for as many loads as the queue holds. -/
def runLoads (s : State) : State := runLoadsFor (s.loadQueue.length + 1) s

/-- The running load ends and the next one, if any, begins (R146). -/
def endLoad (s : State) (e : LoadEnd) : State := runLoads (endRunning s e)

/-- Remove the queued loads (not the running one) that a request concerns (R147, R149, R150). DESIGN CHOICE (entry 10): of
several removed at one event each is answered in queue order; the spec states no order between their responses. -/
def removeQueued (s : State) (which : LoadRec → Bool) (e : LoadEnd) : State :=
  match s.loadQueue with
  | [] => s
  | r :: rest =>
    (rest.filter which).foldl (fun s q => respond s q.port q.tag e.1 e.2)
      { s with loadQueue := r :: rest.filter fun q => !which q }

/-- Place a stop request on the running load (R148): taken at once in READY, else it waits on the record; a request already
placed stands. -/
def placeStop (s : State) (q : StopRequest) : State :=
  match s.loadQueue with
  | [] => s
  | r :: rest =>
    if r.stop.isSome then s
    else
      let s1 := { s with loadQueue := { r with stop := some q } :: rest }
      if s.load = .ready then runLoads s1 else s1

/-- End every load that a teardown concerns: the queued ones are removed, the running one gets a stop request (R149, R150).
DESIGN CHOICE (entry 10): the queued ones are answered before the running one. -/
def endLoadsWhere (s : State) (which : LoadRec → Bool) (q : StopRequest) : State :=
  let s1 := removeQueued s which (stopped .contextGone 0)
  match s1.loadQueue with
  | [] => s1
  | r :: _ => if which r then placeStop s1 q else s1

/-- Step 3 of the teardown of `c` (R149). -/
def endLoadsOfCtx (s : State) (c : Ctx) : State := endLoadsWhere s (fun r => r.target == c) .contextGone

/-- The loads of port `p` at the start of its teardown (R150). -/
def endLoadsOfPort (s : State) (p : Port) : State := endLoadsWhere s (fun r => r.port == p) .portReset

/-- Some load targets the context (R39). -/
def loadTargets (s : State) (c : Ctx) : Bool := s.loadQueue.any fun r => r.target == c

/-- Some load is the port's (R166). -/
def loadOfPort (s : State) (p : Port) : Bool := s.loadQueue.any fun r => r.port == p

end Sys2Proof.Machine
end

