-- ==== Sys2Proof/Machine/TeardownOps.lean ====
section
/-! DEFINITION. What goes on by itself inside an event: the end of a withdrawal (R99), the turns of a teardown's step 5 and the
origin departure (R41, R42, R85 to R88, R100), the steps of a context teardown (R36 to R43), and the phases of a port teardown
(R164 to R167). Each is one operation that a row of the table names; `settle` takes those that are due, one after the other,
within the event that makes them due, and places the event's notices at its end (entries 4, 9, 18). -/

namespace Sys2Proof.Machine

open Sys2Proof

/-! ## Context teardown -/

/-- Move the teardown of `c` to another step. -/
def setStep (s : State) (c : Ctx) (st : TeardownStep) : State :=
  match s.teardown c with
  | some t => s.setTeardown c (some { t with step := st })
  | none => s

/-- Step 1 (R37): a pooled context enters TEARDOWN. Its step 2 comes at a later event (R36). -/
def startPooledTeardown (s : State) (c : Ctx) (by' : Starter) : State :=
  (modCtx s c fun x => { x with state := .teardown }).setTeardown c (some ⟨by', .offers⟩)

/-- Steps 2 and 3 (R38, R39): the offers from and to the context are cancelled, then its loads are ended. -/
def cancelThenEndLoads (s : State) (c : Ctx) (by' : Starter) : State :=
  endLoadsOfCtx ((cancelOffersOf s c).setTeardown c (some ⟨by', .loads⟩)) c

/-- Step 4 (R40): the context withdrawal starts. -/
def startContextWithdrawal (s : State) (c : Ctx) : State :=
  startWithdrawal (setStep s c .drain) c none .teardown

/-- The co-holder that an origin departure promotes: the first in list order with headroom of at least 1 (R86). -/
def heirOf (s : State) (hs : List Holder) : Option Ctx :=
  (hs.tail.find? fun h => 1 ≤ headroom (s.ctx h.ctx)).map Holder.ctx

/-- The examination of an origin departure of `c` from `f` and the decision that follows it (R85, R86, R87). -/
def examineDeparture (s : State) (c : Ctx) (f : Frame) : State :=
  if anyWithdrawing (s.frame f).holders.tail then setStep s c (.turn f)
  else if (s.frame f).holders.tail.isEmpty then setStep (reclaimExit (giveUp s f c) f) c .frames
  else
    match heirOf s (s.frame f).holders with
    | some h => setStep (notifyOwner (promote s f c h) h (.originInherited f h)) c .frames
    | none => setStep (markWithdrawing s f c) c (.departure f)

/-- The examination of a turn of step 5 on `f` (R41) and the three cases of R42. -/
def examineTurn (s : State) (c : Ctx) (f : Frame) : State :=
  if (s.frame f).state ≠ .held ∨ !holds (s.frame f).holders c then setStep s c .frames
  else if anyWithdrawing (s.frame f).holders then setStep s c (.turn f)
  else if originOf (s.frame f).holders ≠ some c then
    setStep (notifyOrigin (removeHolder s f c) f (.shareLeft f c)) c .frames
  else if (s.frame f).holders.tail.isEmpty then setStep (reclaimExit (giveUp s f c) f) c .frames
  else examineDeparture s c f

/-- An origin departure without candidate takes its next co-holder, always the first in the list: its withdrawal starts, or,
where none is left, the frame is given up and the departure ends (R87, R100). -/
def nextCoHolder (s : State) (c : Ctx) (f : Frame) : State :=
  if (s.frame f).state ≠ .held then setStep s c .frames
  else
    match (s.frame f).holders.tail with
    | [] => setStep (reclaimExit (giveUp s f c) f) c .frames
    | h :: _ => withdrawHolder s h.ctx f (.departure c)

/-- Steps 6 and 7 (R43): a pooled context's quota goes to its owner port's home context, the context becomes FREE, and a
DESTROY is answered; a home context stays LIVE. -/
def finishTeardown (s : State) (c : Ctx) : State :=
  let s1 := s.setTeardown c none
  if pooled c then
    let quota := (s.ctx c).quota
    let s2 :=
      match (s.ctx c).owner with
      | some p => modCtx s1 (homeOf p) fun x => { x with quota := x.quota + quota }
      | none => s1
    let s3 := s2.setCtx c CtxRec.free
    match s.teardown c with
    | some ⟨.destroy p t, _⟩ => respond s3 p t .done (destroyResults quota)
    | _ => s3
  else s1

/-- One turn of step 5 (R41): of the lowest-numbered frame in whose holder list the context stands; where it stands in none,
step 5 ends and steps 6 and 7 follow (R36, R43). -/
def frameTurn (s : State) (c : Ctx) : State :=
  match lowestHeld s c with
  | some f => examineTurn s c f
  | none => finishTeardown s c

/-- Step 4 of a teardown ends, and step 5 begins (R40, R99). -/
def endDrain (s : State) (c : Ctx) : State :=
  match s.teardown c with
  | some ⟨_, .drain⟩ => setStep s c .frames
  | _ => s

/-! ## The end of a withdrawal -/

/-- Take a record from the withdrawal list; a record is named by its context and frame (R90). -/
def removeRecord (s : State) (w : Withdrawal) : State :=
  { s with withdrawals := s.withdrawals.filter fun x => !(x.ctx == w.ctx && x.frame == w.frame) }

/-- The end of a withdrawal: its record is removed and its requesting operation takes its end step (R99). -/
def endWithdrawal (s : State) (w : Withdrawal) : State :=
  let s1 := removeRecord s w
  match w.requester, w.frame with
  | .release p t, some f => respond (reclaimExit s1 f) p t .done (releaseResults (s1.frame f).errorMark)
  | .leave p t, some f =>
    respond (notifyOrigin (removeHolder s1 f w.ctx) f (.shareLeft f w.ctx)) p t .done []
  | .revoke p t, some f =>
    respond (notifyOwner (removeHolder s1 f w.ctx) w.ctx (.shareLost f w.ctx .revoked)) p t .done []
  | .departure _, some f => notifyOwner (removeHolder s1 f w.ctx) w.ctx (.shareLost f w.ctx .originGone)
  | .teardown, _ => endDrain s1 w.ctx
  | _, none => s1

/-! ## Port teardown -/

/-- The next context of a port teardown among the pooled contexts of the port, LIVE or in teardown, in ascending id
(R44, R167). -/
def nextPooled (s : State) (p : Port) : Option Ctx :=
  (List.finRange 16).find? fun c => pooled c && ownedBy s p c && (live s c || (s.teardown c).isSome)

/-- The port teardown goes on to its next context (R167): a LIVE pooled context is torn down, one in TEARDOWN is waited for,
and after the last of them the home context is emptied from step 2 on (R36, R44). -/
def enterContext (s : State) (p : Port) : State :=
  match nextPooled s p with
  | some c =>
    let s1 := modPort s p fun x => { x with state := .teardown (.contexts c) }
    if live s c then startPooledTeardown s1 c (.portReset p) else s1
  | none =>
    cancelThenEndLoads (modPort s p fun x => { x with state := .teardown (.contexts (homeOf p)) }) (homeOf p)
      (.portReset p)

/-- The port teardown ends (R167): UP where PRST_N is deasserted, phase ENDED where it is asserted. -/
def endPortTeardown (s : State) (p : Port) : State :=
  modPort s p fun x => { x with state := if x.prst then .teardown .ended else .up }

/-- The step that a port teardown takes when what it waits for has ended. -/
def portStep (s : State) (p : Port) : State :=
  match (s.port p).state with
  | .teardown .loads => enterContext s p
  | .teardown (.contexts c) => if c = homeOf p then endPortTeardown s p else enterContext s p
  | _ => s

/-! ## What is due -/

/-- A withdrawal whose drain set is empty is at its end (R99); the end step of a FRAME record is taken before that of a
CONTEXT record (R97; entry 4), and of one kind the oldest record's (DESIGN CHOICE, entry 20). -/
def dueWithdrawal (s : State) : Option Withdrawal :=
  match s.withdrawals.find? fun w => w.drain.isEmpty && w.frame.isSome with
  | some w => some w
  | none => s.withdrawals.find? fun w => w.drain.isEmpty

/-- Step 5 of the teardown of `c` may go on: a turn begins where no turn is under way; a turn, or an origin departure, that
waited on frame `f` goes on where the wait is over (R36, R41, R87, R100). -/
def turnDue (s : State) (c : Ctx) : Bool :=
  match s.teardown c with
  | some ⟨_, .frames⟩ => true
  | some ⟨_, .turn f⟩ => (s.frame f).state != .held || !anyWithdrawing (s.frame f).holders
  | some ⟨_, .departure f⟩ =>
    (s.frame f).state != .held ||
      match (s.frame f).holders.tail with
      | [] => true
      | h :: _ => !h.withdrawing
  | _ => false

/-- Step 3 of the teardown of `c` has nothing left to wait for (R39). -/
def stepDue (s : State) (c : Ctx) : Bool :=
  match s.teardown c with
  | some ⟨_, .loads⟩ => !loadTargets s c
  | _ => false

/-- What a port teardown waits for has ended (R166, R167). -/
def portDue (s : State) (p : Port) : Bool :=
  match (s.port p).state with
  | .teardown .loads => !loadOfPort s p
  | .teardown (.contexts c) => (s.teardown c).isNone
  | _ => false

/-- Step 5 of the teardown of `c` goes on: its next turn, the turn it waits in, or its departure. -/
def takeTurn (s : State) (c : Ctx) : State :=
  match s.teardown c with
  | some ⟨_, .frames⟩ => frameTurn s c
  | some ⟨_, .turn f⟩ => examineTurn s c f
  | some ⟨_, .departure f⟩ => nextCoHolder s c f
  | _ => s

/-- The teardown of `c` goes on: from step 3 to step 4, or within step 5 and to its end. -/
def takeStep (s : State) (c : Ctx) : State :=
  match s.teardown c with
  | some ⟨_, .loads⟩ => startContextWithdrawal s c
  | _ => takeTurn s c

/-- A teardown that can go on: that of a context, or that of a port. -/
inductive Due where
  | context (c : Ctx)
  | port (p : Port)
  deriving DecidableEq, Repr

/-- Every teardown that can go on. -/
def dueTeardowns (s : State) : List Due :=
  ((List.finRange 16).filter fun c => turnDue s c || stepDue s c).map Due.context
    ++ ((List.finRange 4).filter (portDue s)).map Due.port

/-- One teardown goes on. -/
def takeTeardown (s : State) : Due → State
  | .context c => takeStep s c
  | .port p => portStep s p

/-- The next thing that is due, taken. DESIGN CHOICE (entry 23): the ends of withdrawals come before the teardowns that can go
on. Of several teardowns the free choice takes one (entry 6): the spec orders neither the steps of different contexts'
teardowns (2.8) nor an examination against another teardown's return of quota (R85, R86). -/
def takeDue (s : State) : Option State :=
  match dueWithdrawal s with
  | some w => some (endWithdrawal s w)
  | none =>
    match choose s (dueTeardowns s) with
    | some (s1, d) => some (takeTeardown s1 d)
    | none => none

/-- Take what is due, at most so many times. -/
def settleFor : Nat → State → State
  | 0, s => s
  | n + 1, s =>
    match takeDue s with
    | none => s
    | some s1 => settleFor n s1

/-- The co-holders of a frame that no withdrawal has flagged. -/
def unflagged (s : State) (f : Frame) : Nat := (s.frame f).holders.tail.countP fun h => !h.withdrawing

/-- How much one turn of step 5 can still make due: it counts where `c` stands on the frame. -/
def turnBound (c : Ctx) (r : FrameRec) : Nat :=
  if standsOn c r then 4 + 2 * r.holders.tail.countP fun h => !h.withdrawing else 0

/-- How much the turns of `c` still to come can make due. -/
def turnsBound (s : State) (c : Ctx) : Nat := (s.frames.toArray.toList.map (turnBound c)).sum

/-- How much can still come due for the teardown of `c` that stands at a step. -/
def stepBound (s : State) (c : Ctx) : TeardownStep → Nat
  | .offers => 9
  | .loads => 8 + turnsBound s c
  | .drain => 6 + turnsBound s c
  | .frames => 5 + turnsBound s c
  | .turn f => (if standsOn c (s.frame f) then 4 else 6) + turnsBound s c
  | .departure f => (if standsOn c (s.frame f) then 3 else 6 + 2 * unflagged s f) + turnsBound s c

/-- How much can still come due for a context: its teardown's steps still to come, and the start of one while it is LIVE. -/
def ctxBound (s : State) (c : Ctx) : Nat :=
  (if live s c then 10 else 0) +
    match s.teardown c with
    | none => 0
    | some t => stepBound s c t.step

/-- How much can still come due for a port: the phases of its teardown still to come, with the turns of its home context. -/
def portBound (s : State) (p : Port) : Nat :=
  match (s.port p).state with
  | .teardown .loads => 30 + turnsBound s (homeOf p)
  | .teardown (.contexts c) =>
    (if c = homeOf p then 1 else 15 + turnsBound s (homeOf p)) + if (s.teardown c).isNone then 1 else 0
  | _ => 0

/-- A bound on how many things can come due within one event; each one taken lowers it (Laws/Settle.lean). -/
def settleBound (s : State) : Nat :=
  s.withdrawals.length + ((List.finRange 16).map (ctxBound s)).sum + ((List.finRange 4).map (portBound s)).sum

/-- Everything that is due within the event is taken (R36; entries 4 and 9). -/
def runDue (s : State) : State := settleFor (settleBound s) s

/-- The rest of an event: everything that is due is taken, then the event's notices are placed (R180; entries 4 and 18). -/
def settle (s : State) : State := placeNotices (runDue s)

/-! ## The start of a port teardown (R164, R165) -/

/-- The accesses waiting at the two lanes, in an order the lanes' own orders allow; which lane goes first each time is a
free choice (entry 6), since no order is kept between lanes (R119). -/
def mergeLanes : Nat → Nat → List AccessRequest → List AccessRequest → List AccessRequest
  | 0, _, _, _ => []
  | _ + 1, _, [], ys => ys
  | _ + 1, _, xs, [] => xs
  | n + 1, k, x :: xs, y :: ys =>
    if Config.freeChoice k % 2 = 0 then x :: mergeLanes n (k + 1) xs (y :: ys)
    else y :: mergeLanes n (k + 1) (x :: xs) ys

/-- The accesses waiting at the port's lanes are answered OFFLINE and leave them; the last lane becomes plain
(R120, R121, R164). -/
def offlineLanes (s : State) (p : Port) : State :=
  let r := s.port p
  let n := r.plainLane.length + r.elevatedLane.length
  let waiting := mergeLanes n s.choices r.plainLane r.elevatedLane
  let s1 := if r.plainLane.isEmpty || r.elevatedLane.isEmpty then s else { s with choices := s.choices + n }
  modPort s1 p fun x =>
    { x with
      plainLane := []
      elevatedLane := []
      lastLane := .plain
      accessResponses := x.accessResponses ++ waiting.map fun a => ⟨a.tag, .offline⟩ }

/-- A control slot at the start of its port's teardown (R165): a WAITING request and a BIND waiting on a switch end with no
response; a long request that runs on is marked discarding. -/
def discardSlot (q : ControlSlot) : Option ControlSlot :=
  match q.standing with
  | .waiting => none
  | .active => if q.kind = .bind then none else some { q with discard := true }

/-- The start of port teardown (R164): notices, binding, lanes, control requests, loads. -/
def startPortTeardown (s : State) (p : Port) : State :=
  let s1 := modPort s p fun x =>
    { x with
      state := .teardown .loads
      notices := []
      dropped := 0
      arriving := []
      bound := homeOf p
      binding := .settled }
  let s2 := offlineLanes s1 p
  let s3 := modPort s2 p fun x => { x with slots := x.slots.filterMap discardSlot }
  endLoadsOfPort s3 p

end Sys2Proof.Machine
end

