-- ==== Sys2Proof/Machine/TransitOps.lean ====
section
/-! DEFINITION. The shared operations of the access path (3.8, 7): translation and its fault or transit entry (R57 to R59,
R123), acceptance from the two lanes (R120, R121), the completion of a switch (R161), the freeing of a transit entry (R133),
and the failures of the three kinds of memory request (R131, R132, R113, R145). -/

namespace Sys2Proof.Machine

open Sys2Proof

/-! ## Translation (3.8) -/

/-- The page of a logical address (R56). -/
def pageOf (a : BitVec 20) : Page := ⟨a.toNat / 8192, by omega⟩

/-- The offset of a logical address in its page (R56). -/
def offsetOf (a : BitVec 20) : Fin 8192 := ⟨a.toNat % 8192, Nat.mod_lt _ (by decide)⟩

/-- The length of an access, 1 to 256 bytes (11.6). -/
def accessLength (a : AccessRequest) : Nat := a.lengthCode.toNat + 1

/-- The four checks of R57 in their order: the fault cause, or the map entry the access goes through. -/
def translation (s : State) (p : Port) (a : AccessRequest) : Except FaultCause MapEntry :=
  if tagOutstanding (s.port p) a.tag then .error .badTag
  else if (offsetOf a.addr).val + accessLength a > Config.frameSize then .error .span
  else
    match s.entry (translatingCtx s p a.mode) (pageOf a.addr) with
    | none => .error .notMapped
    | some e => if a.dir = .write ∧ e.rights = .read then .error .noWrite else .ok e

/-- An access that fails a check: FAULT and ACCESS_FAULT (R58). -/
def faultAccess (s : State) (p : Port) (a : AccessRequest) (cause : FaultCause) : State :=
  address (sendAccess s p ⟨a.tag, .fault cause⟩) p
    (.accessFault cause a.mode a.addr.toNat (translatingCtx s p a.mode))

/-- The transit entry of an access translated to frame `f` (R59, R122). -/
def transitEntry (s : State) (p : Port) (a : AccessRequest) (f : Frame) : TransitEntry where
  tag := a.tag
  mode := a.mode
  ctx := translatingCtx s p a.mode
  page := pageOf a.addr
  frame := f
  dir := a.dir
  offset := offsetOf a.addr
  length := accessLength a
  data := a.data
  phase := .waiting

/-- Allocation (R123): slot `i` takes the entry with its generation advanced, and joins the issue queue. -/
def allocate (s : State) (p : Port) (i : Slot) (e : TransitEntry) : State :=
  modPort s p fun x =>
    { x.setSlot i ⟨(x.slot i).gen + 1, some e⟩ with
      issueQueue := x.issueQueue ++ [i]
      plainCount := if e.mode = .plain then x.plainCount + 1 else x.plainCount }

/-- The translation of an accepted access, one event (R57): a fault, or the lowest-numbered FREE slot taken (R123). -/
def translate (s : State) (p : Port) (a : AccessRequest) : State :=
  match translation s p a with
  | .error cause => faultAccess s p a cause
  | .ok e =>
    match freeSlot (s.port p) with
    | none => s
    | some i => allocate s p i (transitEntry s p a e.frame)

/-! ## Acceptance (R120, R121) -/

/-- The accesses of the plain lane that may be accepted: none while the port is SWITCHING (R120). -/
def openPlainLane (r : PortRec) : List AccessRequest :=
  match r.binding with
  | .settled => r.plainLane
  | .switching _ _ => []

/-- Accept and translate the access at the front of one lane, where the port is UP and has a free transit slot; where both
lanes have one, the lane not taken last time (R120, R121). -/
def acceptOne (s : State) (p : Port) : State :=
  if portUp s p && (freeSlot (s.port p)).isSome then
    match openPlainLane (s.port p), (s.port p).elevatedLane with
    | [], [] => s
    | a :: rest, [] => translate (modPort s p fun x => { x with plainLane := rest }) p a
    | [], b :: rest => translate (modPort s p fun x => { x with elevatedLane := rest }) p b
    | a :: restA, b :: restB =>
      match (s.port p).lastLane with
      | .plain => translate (modPort s p fun x => { x with elevatedLane := restB, lastLane := .elevated }) p b
      | .elevated => translate (modPort s p fun x => { x with plainLane := restA, lastLane := .plain }) p a
  else s

/-! ## Freeing (R133, R161) -/

/-- A switch completes (R161): the target is bound and the pending BIND is answered with the context bound before. -/
def completeSwitch (s : State) (p : Port) : State :=
  match (s.port p).binding with
  | .settled => s
  | .switching target t =>
    respond (modPort s p fun x => { x with bound := target, binding := .settled }) p t .done
      (contextResults (s.port p).bound)

/-- The slot leaves every drain set that holds it (R96). -/
def leaveDrains (s : State) (p : Port) (i : Slot) : State :=
  { s with withdrawals := s.withdrawals.map fun w => { w with drain := w.drain.filter fun x => x != (p, i) } }

/-- The entry in slot `i` is freed: the slot keeps its generation, and the plain entry count falls for a plain entry
(R133). -/
def dropEntry (s : State) (p : Port) (i : Slot) (e : TransitEntry) : State :=
  modPort s p fun x =>
    { x.setSlot i ⟨(x.slot i).gen, none⟩ with
      plainCount := if e.mode = .plain then x.plainCount - 1 else x.plainCount }

/-- A switch that waited for this plain entry completes where the count has reached 0 (R133, R161). -/
def switchAfter (s : State) (p : Port) (e : TransitEntry) : State :=
  if e.mode = .plain ∧ (s.port p).plainCount = 0 then completeSwitch s p else s

/-- The freeing event of R133 after the access's own response, mark and notice: the slot, tag and count, the drain sets, the
switch, an acceptance, and the ends of the withdrawals whose drain sets are now empty (entry 11). -/
def freeEntry (s : State) (p : Port) (i : Slot) (e : TransitEntry) : State :=
  settle (acceptOne (switchAfter (leaveDrains (dropEntry s p i e) p i) p e) p)

/-- The entry that a completion for slot `i` with this generation matches (R129): ISSUED, with the slot's generation. -/
def matching (s : State) (p : Port) (i : Slot) (gen : Byte) : Option TransitEntry :=
  match ((s.port p).slot i).entry with
  | none => none
  | some e =>
    match e.phase with
    | .waiting => none
    | .issued _ => if ((s.port p).slot i).gen = gen then some e else none

/-- The logical address of an entry as the master sent it (R131). -/
def logicalAddress (e : TransitEntry) : Nat := e.page.val * Config.frameSize + e.offset.val

/-- An OK completion ends the access (R130). -/
def completeEntry (s : State) (p : Port) (i : Slot) (e : TransitEntry) (data : List Byte) : State :=
  freeEntry (answerAccess s p ⟨e.tag, .ok (if e.dir = .read then data else [])⟩) p i e

/-- An ERROR completion or a timeout ends the access (R131, R132): response, error mark, MEMORY_FAULT, freeing. -/
def failEntry (s : State) (p : Port) (i : Slot) (e : TransitEntry) (kind : MemoryFaultKind) : State :=
  let result := match kind with
    | .error => AccessResult.memoryError
    | .timeout => AccessResult.memoryTimeout
  let s1 := setErrorMark (answerAccess s p ⟨e.tag, result⟩) e.frame
  freeEntry (address s1 p (.memoryFault kind e.mode (logicalAddress e) e.frame)) p i e

/-! ## The engines' completions and failures -/

/-- The frame, progress and generation match of a scrub completion: the outstanding write (R112, R114). -/
def scrubMatching (s : State) (gen : Byte) : Option (Frame × Nat) :=
  match s.scrub with
  | .outstanding f k _ => if s.writeGen = gen then some (f, k) else none
  | _ => none

/-- A scrub write completes OK (R112): progress, or at 32 the frame is FREE at the free list tail with its mark clear. -/
def scrubAdvance (s : State) (f : Frame) (k : Nat) : State :=
  if k + 1 < Config.scrubWrites then { s with scrub := .ready f (k + 1) }
  else
    let s1 := { s with scrubQueue := s.scrubQueue.erase f, freeList := s.freeList ++ [f] }
    scrubNext (modFrame s1 f fun x => { x with state := .free, errorMark := false })

/-- The scrub of the current frame fails (R113): RETIRED with its mark set. -/
def scrubFail (s : State) (f : Frame) : State :=
  let s1 := { s with scrubQueue := s.scrubQueue.erase f }
  scrubNext (modFrame s1 f fun x => { x with state := .retired, errorMark := true })

/-- The outstanding descriptor read matches a completion with this generation (R143, R145). -/
def loadMatching (s : State) (gen : Byte) : Bool :=
  match s.load with
  | .outstanding _ => s.readGen == gen
  | _ => false

/-- The judgement of a descriptor by the tests of R143 in their order: the reason it stops the load, or what it asks for. -/
def judge (s : State) (r : LoadRec) (d : List Byte) : Except StopReason DescriptorAction :=
  if sourceHeld s r.port r.target r.source then
    if descriptorStamp d ≠ r.stamp then .error .stampMismatch
    else
      match descriptorAction d with
      | none => .error .badDescriptor
      | some a =>
        if live s r.target then
          match a with
          | .clear g => .ok (.clear g)
          | .set g e =>
            match holdingFault s r.target e.frame e.rights with
            | none => .ok (.set g e)
            | some .rightsExceeded => .error .rightsExceeded
            | some _ => .error .notHolder
        else .error .contextGone
  else .error .sourceLost

/-- A descriptor is applied (R144). -/
def applyAction (s : State) (c : Ctx) : DescriptorAction → State
  | .set g e => makeEntry s c g e
  | .clear g => clearEntry s c g

/-- The read of the running load ends OK with these bytes (R143, R144): the descriptor stops the load, or is applied; then the
load ends DONE or its next descriptor's start check follows. -/
def finishRead (s : State) (d : List Byte) : State :=
  match s.loadQueue with
  | [] => s
  | r :: rest =>
    match judge s r d with
    | .error reason => endLoad s (stopped reason r.next)
    | .ok a =>
      let s1 := applyAction { s with loadQueue := { r with next := r.next + 1 } :: rest } r.target a
      if r.next + 1 = r.count then endLoad s1 (.done, loadDoneResults (r.next + 1)) else runLoads s1

/-- The read of the running load fails (R145): the source's mark is set and the load stops MEMORY_FAULT. With an empty load
queue the engine is IDLE (R141). -/
def failRead (s : State) : State :=
  match s.loadQueue with
  | [] => { s with load := .idle }
  | r :: _ => endLoad (setErrorMark s r.source) (stopped .memoryFault r.next)

end Sys2Proof.Machine
end

