-- ==== Sys2Proof/Machine/AccessPath.lean ====
section
/-! DEFINITION. The access path and the memory port (7), with the scrub engine's completions (6.3): the arrival and translation
of accesses, the arbiter's grant, the completions and timeouts, and the completion of a switch. -/

namespace Sys2Proof.Machine

open Sys2Proof

/-! ## Accesses (R120) -/

/-- Put an access at the end of its lane (R119). -/
def pushLane (s : State) (p : Port) (a : AccessRequest) : State :=
  modPort s p fun x =>
    match a.mode with
    | .plain => { x with plainLane := x.plainLane ++ [a] }
    | .elevated => { x with elevatedLane := x.elevatedLane ++ [a] }

/-- ACCESS_ARRIVAL (R120): OFFLINE at a port that is not UP; else it stands at its lane, and one access of the port that can
be accepted at this event is. -/
def execAccessArrival (p : Port) (a : AccessRequest) (s : State) : Host.Outcome State Fault Refusal :=
  .next (if portUp s p then acceptOne (pushLane s p a) p else sendAccess s p ⟨a.tag, .offline⟩)

/-- ACCESS_TRANSLATION (R57, R120): the next event of the port controller, at which a waiting access that can be accepted
is. -/
def execAccessTranslation (p : Port) (s : State) : Host.Outcome State Fault Refusal :=
  .next (acceptOne s p)

/-! ## The arbiter (R125 to R127) -/

/-- The ring of the six requesters (R125). -/
def ring : List MemoryRequester := [.port 0, .port 1, .port 2, .port 3, .scrub, .load]

/-- The ring from a requester on (R126). -/
def ringFrom (r : MemoryRequester) : List MemoryRequester := ring.drop (ring.idxOf r) ++ ring.take (ring.idxOf r)

/-- The requester after a requester in the ring (R126). -/
def ringAfter (r : MemoryRequester) : MemoryRequester := (ringFrom r).getD 1 r

/-- Who is requesting (R125). -/
def requesting (s : State) : MemoryRequester → Bool
  | .port p => !(s.port p).issueQueue.isEmpty
  | .scrub =>
    match s.scrub with
    | .ready _ _ => true
    | _ => false
  | .load => s.load == .ready

/-- The requester that a grant goes to (R126). -/
def granted (s : State) : Option MemoryRequester := (ringFrom s.pointer).find? (requesting s)

/-- The memory request of a port's entry (R127, R124). -/
def portRequest (p : Port) (i : Slot) (gen : Byte) (e : TransitEntry) : MemoryRequest where
  requester := BitVec.ofNat 3 p.val
  slot := i
  gen := gen
  dir := e.dir
  addr := physical e.frame e.offset.val
  length := e.length
  data := if e.dir = .write then e.data else []

/-- The head of the port's issue queue leaves it and is issued with age 0; the write data is handed over (R127, R122). -/
def issueHead (s : State) (p : Port) : State :=
  match (s.port p).issueQueue with
  | [] => s
  | i :: rest =>
    let s1 := modPort s p fun x => { x with issueQueue := rest }
    match ((s.port p).slot i).entry with
    | none => s1
    | some e =>
      let s2 := modPort s1 p fun x => x.setSlot i ⟨(x.slot i).gen, some { e with phase := .issued 0, data := [] }⟩
      { s2 with memoryRequests := s2.memoryRequests ++ [portRequest p i ((s.port p).slot i).gen e] }

/-- The scrub engine issues write number `k` of frame `f` under an advanced generation (R111). -/
def issueScrub (s : State) : State :=
  match s.scrub with
  | .ready f k =>
    { s with
      writeGen := s.writeGen + 1
      scrub := .outstanding f k 0
      memoryRequests := s.memoryRequests ++
        [⟨4, 0, s.writeGen + 1, .write, physical f (256 * k), 256, zeros 256⟩] }
  | _ => s

/-- The load engine repeats its source check and issues a descriptor read under an advanced generation, or issues nothing and
the load stops SOURCE_LOST (R142). -/
def issueLoad (s : State) : State :=
  match s.loadQueue with
  | [] => s
  | r :: _ =>
    if sourceHeld s r.port r.target r.source then
      { s with
        readGen := s.readGen + 1
        load := .outstanding 0
        memoryRequests := s.memoryRequests ++
          [⟨5, 0, s.readGen + 1, .read, physical r.source (r.offset + 8 * r.next), 8, []⟩] }
    else settle (endLoad s (stopped .sourceLost r.next))

/-- A grant (R126, R127): the pointer moves past the granted requester, which issues its request. -/
def grant (s : State) (r : MemoryRequester) : State :=
  let s1 := { s with pointer := ringAfter r }
  match r with
  | .port p => issueHead s1 p
  | .scrub => issueScrub s1
  | .load => issueLoad s1

/-- MEMORY_PORT_GRANT (R126): the memory link is ready; with no requester there is no grant. -/
def execMemoryPortGrant (s : State) : Host.Outcome State Fault Refusal :=
  match granted s with
  | none => .next s
  | some r => .next (grant s r)

/-! ## Completions of transit entries (R129 to R131) -/

/-- TRANSIT_COMPLETION_OK (R130); a completion that matches no entry is stale and is discarded (R129). -/
def execTransitCompletionOk (p : Port) (i : Slot) (gen : Byte) (data : List Byte) (s : State) :
    Host.Outcome State Fault Refusal :=
  match matching s p i gen with
  | none => .next s
  | some e => .next (completeEntry s p i e data)

/-- TRANSIT_COMPLETION_ERROR (R131); stale completions as above (R129). -/
def execTransitCompletionError (p : Port) (i : Slot) (gen : Byte) (s : State) : Host.Outcome State Fault Refusal :=
  match matching s p i gen with
  | none => .next s
  | some e => .next (failEntry s p i e .error)

/-- The entry in slot `i` if it is ISSUED and its age has reached the timeout (R132). -/
def timedOut (s : State) (p : Port) (i : Slot) : Option TransitEntry :=
  match ((s.port p).slot i).entry with
  | none => none
  | some e =>
    match e.phase with
    | .waiting => none
    | .issued age => if Config.timeout ≤ age then some e else none

/-- TRANSIT_TIMEOUT (R132): of an ISSUED entry whose age has reached 200 microseconds. -/
def execTransitTimeout (p : Port) (i : Slot) (s : State) : Host.Outcome State Fault Refusal :=
  match timedOut s p i with
  | none => .next s
  | some e => .next (failEntry s p i e .timeout)

/-! ## Switches (R161) -/

/-- The port is SWITCHING and its plain entry count is 0. -/
def switchDue (r : PortRec) : Bool :=
  match r.binding with
  | .settled => false
  | .switching _ _ => r.plainCount == 0

/-- SWITCH_COMPLETION (R161): of a SWITCHING port whose plain entry count is 0; the plain lane is no longer held. -/
def execSwitchCompletion (p : Port) (s : State) : Host.Outcome State Fault Refusal :=
  .next (if switchDue (s.port p) then acceptOne (completeSwitch s p) p else s)

/-! ## Completions of scrub writes (R112 to R114) -/

/-- SCRUB_COMPLETION_OK (R112); a completion that does not match is discarded (R114). -/
def execScrubCompletionOk (gen : Byte) (s : State) : Host.Outcome State Fault Refusal :=
  match scrubMatching s gen with
  | none => .next s
  | some x => .next (scrubAdvance s x.1 x.2)

/-- SCRUB_COMPLETION_ERROR (R113); a completion that does not match is discarded (R114). -/
def execScrubCompletionError (gen : Byte) (s : State) : Host.Outcome State Fault Refusal :=
  match scrubMatching s gen with
  | none => .next s
  | some x => .next (scrubFail s x.1)

/-- The frame whose outstanding scrub write has reached the timeout (R113). -/
def scrubTimedOut (s : State) : Option Frame :=
  match s.scrub with
  | .outstanding f _ age => if Config.timeout ≤ age then some f else none
  | _ => none

/-- SCRUB_WRITE_TIMEOUT (R113): of an outstanding write whose age has reached 200 microseconds. -/
def execScrubWriteTimeout (s : State) : Host.Outcome State Fault Refusal :=
  match scrubTimedOut s with
  | none => .next s
  | some f => .next (scrubFail s f)

/-! ## A completion by its identifier (R129, R189) -/

/-- What a completion does: the memory port hands it to the requester its identifier names, which matches it against its own
state; a requester field of 6 or 7 names none (R129, R189). None where it is stale. -/
def completionEffect (s : State) (requester : BitVec 3) (i : Slot) (gen : Byte) (status : Status) (data : List Byte) :
    Option State :=
  if h : requester.toNat < 4 then
    (matching s ⟨requester.toNat, h⟩ i gen).map fun e =>
      match status with
      | .ok => completeEntry s ⟨requester.toNat, h⟩ i e data
      | .error => failEntry s ⟨requester.toNat, h⟩ i e .error
  else if requester = 4 then
    (scrubMatching s gen).map fun x =>
      match status with
      | .ok => scrubAdvance s x.1 x.2
      | .error => scrubFail s x.1
  else if requester = 5 then
    if loadMatching s gen then
      match status with
      | .ok => some (settle (finishRead s data))
      | .error => some (settle (failRead s))
    else none
  else none

/-- STALE_COMPLETION (R129): a completion that matches nothing is discarded with no effect. One that does match is not stale,
and ends its request like any other (R136). -/
def execStaleCompletion (requester : BitVec 3) (i : Slot) (gen : Byte) (status : Status) (data : List Byte)
    (s : State) : Host.Outcome State Fault Refusal :=
  match completionEffect s requester i gen status data with
  | none => .next s
  | some s1 => .next s1

end Sys2Proof.Machine
end

