-- ==== Sys2Proof/Machine/Control.lean ====
section
/-! DEFINITION. The control dispatcher and the notice queues (10): CONTROL_REQUEST_ARRIVAL and FETCH_NOTICES, and what the
request kinds share: the taking of a WAITING request by its owner block (R175) and the owner and state checks (R24). -/

namespace Sys2Proof.Machine

open Sys2Proof

/-! ## The taking of a request (R175) -/

/-- A refusal by an owner block: the outcome and the results its rule gives with it (R176). -/
abbrev Reply := Verdict × List Byte

/-- A refusal with no results. -/
def refuse {α : Type} (v : Verdict) : Except Reply α := .error (v, [])

/-- The WAITING request of this kind that the port holds under the tag: the one its owner block takes. -/
def waitingRequest (s : State) (p : Port) (t : Tag) (k : RequestKind) : Option ControlSlot :=
  match slotOf (s.port p) t with
  | none => none
  | some q => if q.kind = k ∧ q.standing = .waiting then some q else none

/-- The owner block takes a request (R175): with no such request WAITING nothing is taken (entry 2). -/
def takeRequest (s : State) (p : Port) (t : Tag) (k : RequestKind) (serve : ControlSlot → State) :
    Host.Outcome State Fault Refusal :=
  match waitingRequest s p t k with
  | none => .next s
  | some q => .next (serve q)

/-- Serve a request by its checks: a refusal answers it and changes nothing else, else the effect follows. -/
def serveChecked {α : Type} (s : State) (p : Port) (t : Tag) (check : Except Reply α) (effect : α → State) : State :=
  match check with
  | .error r => respond s p t r.1 r.2
  | .ok a => effect a

/-- The owner and the state of an acting context, in the order of R24: the failing outcome, or none. -/
def actingFault (s : State) (p : Port) (c : Ctx) : Option Verdict :=
  if !ownedBy s p c then some .notOwner else if !live s c then some .notLive else none

/-! ## Admission (R172) -/

/-- A request refused at its arrival, or answered OFFLINE, is answered with the kind byte and the tag as sent (R174, R185). -/
def refuseArrival (s : State) (p : Port) (m : ControlMessage) (v : Verdict) : State :=
  sendControl s p (responseBytes m.kind (messageTag m) v [])

/-- The checks of R172 in their order: the failing outcome, or the kind of the request to admitRequest. -/
def admission (s : State) (p : Port) (m : ControlMessage) : Except Verdict RequestKind :=
  match messageKind m with
  | none => .error .malformed
  | some k =>
    if Config.controlSlots ≤ (s.port p).slots.length then .error .backlog
    else if (slotOf (s.port p) (messageTag m)).isSome then .error .tagInUse
    else
      match requestClass k with
      | none => .ok k
      | some cl => if classesWithin cl (actingClasses s p (messageMode m)) then .ok k else .error .noRight

/-- Admission: a FREE slot takes the request in standing WAITING with its acting classes (R172, R173). -/
def admitRequest (s : State) (p : Port) (m : ControlMessage) (k : RequestKind) : State :=
  modPort s p fun x =>
    { x with slots := x.slots ++
        [⟨messageTag m, k, m.operands, actingClasses s p (messageMode m), .waiting, false⟩] }

/-- CONTROL_REQUEST_ARRIVAL (R172): OFFLINE at a port that is not UP (R155), else admitted or refused. -/
def execControlRequestArrival (p : Port) (m : ControlMessage) (s : State) : Host.Outcome State Fault Refusal :=
  .next (if portUp s p then
      match admission s p m with
      | .error v => refuseArrival s p m v
      | .ok k => admitRequest s p m k
    else refuseArrival s p m .offline)

/-! ## FETCH_NOTICES (R181) -/

/-- The operand of FETCH_NOTICES: n is 1-4. -/
def fetchCheck (ops : List Byte) : Except Reply Nat :=
  if operandByte ops 4 < 1 ∨ 4 < operandByte ops 4 then refuse .badOperand else .ok (operandByte ops 4)

/-- The n oldest records leave the queue, and the dropped count is reported and cleared (R181). -/
def fetchRecords (s : State) (p : Port) (t : Tag) (n : Nat) : State :=
  let r := s.port p
  respond (modPort s p fun x => { x with notices := x.notices.drop n, dropped := 0 }) p t .done
    (fetchResults (r.notices.take n) (r.notices.drop n).length r.dropped)

/-- FETCH_NOTICES (R181). -/
def execFetchNotices (p : Port) (t : Tag) (s : State) : Host.Outcome State Fault Refusal :=
  takeRequest s p t .fetchNotices fun q => serveChecked s p t (fetchCheck q.operands) (fetchRecords s p t)

end Sys2Proof.Machine
end

