-- ==== Sys2Proof/Machine/Contexts.lean ====
section
/-! DEFINITION. The requests of the context table (2) and BIND (9.5): CREATE, DESTROY, CEDE, CONTEXT_INFO, BIND. -/

namespace Sys2Proof.Machine

open Sys2Proof

/-! ## CREATE (R29) -/

/-- The lowest-numbered FREE pooled context (R29). -/
def lowestFreePooled (s : State) : Option Ctx :=
  (List.finRange 16).find? fun c => pooled c && (s.ctx c).state == .free

/-- The checks of R29 in their order, against the acting classes kept in the slot (R173). -/
def createCheck (s : State) (q : ControlSlot) : Except Reply Ctx :=
  if !classesWithin (operandClasses q.operands 4) q.classes then refuse .noRight
  else
    match lowestFreePooled s with
    | none => refuse .noContext
    | some c => .ok c

/-- The record of a context taken by CREATE (R29). -/
def createdCtx (p : Port) (classes : Classes) : CtxRec := ⟨.live, some p, classes, 0, 0, 0, 0⟩

/-- CREATE (R29). -/
def execCreate (p : Port) (t : Tag) (s : State) : Host.Outcome State Fault Refusal :=
  takeRequest s p t .create fun q =>
    serveChecked s p t (createCheck s q) fun c =>
      respond (s.setCtx c (createdCtx p (operandClasses q.operands 4))) p t .done (contextResults c)

/-! ## DESTROY (R33, R34) -/

/-- The checks of R33 in their order. -/
def destroyCheck (s : State) (p : Port) (ops : List Byte) : Except Reply Ctx :=
  match operandCtx ops 4 with
  | none => refuse .badOperand
  | some c =>
    if !pooled c then refuse .badOperand
    else
      match actingFault s p c with
      | some v => refuse v
      | none => if inUse (s.port p) c then refuse .inUse else .ok c

/-- DESTROY (R33, R34): accepted, the context enters TEARDOWN; its step 2 comes at a later event (R36). -/
def execDestroy (p : Port) (t : Tag) (s : State) : Host.Outcome State Fault Refusal :=
  takeRequest s p t .destroy fun q =>
    serveChecked s p t (destroyCheck s p q.operands) fun c =>
      startPooledTeardown (activate s p t) c (.destroy p t)

/-! ## CEDE (R30) -/

/-- The checks of R30 in their order, after the range checks of the contexts (R184). -/
def cedeCheck (s : State) (p : Port) (ops : List Byte) : Except Reply (Ctx × Ctx × Nat) :=
  match operandCtx ops 4, operandCtx ops 5 with
  | some a, some b =>
    if operandWord ops 6 < 1 ∨ 4096 < operandWord ops 6 then refuse .badOperand
    else if b = a then refuse .badOperand
    else
      match actingFault s p a with
      | some v => refuse v
      | none =>
        if !live s b then refuse .notLive
        else if headroom (s.ctx a) < operandWord ops 6 then
          .error (.overQuota, overQuotaResults (headroom (s.ctx a)))
        else .ok (a, b, operandWord ops 6)
  | _, _ => refuse .badOperand

/-- The move of quota (R30). -/
def moveQuota (s : State) (a b : Ctx) (n : Nat) : State :=
  modCtx (modCtx s a fun x => { x with quota := x.quota - n }) b fun x => { x with quota := x.quota + n }

/-- QUOTA_RECEIVED goes to the owner port of `b` where that is not the requesting port (R30). -/
def announceQuota (s : State) (p : Port) (a b : Ctx) (n : Nat) : State :=
  if ownedBy s p b then s else addressOwner s b (.quotaReceived a b n)

/-- CEDE (R30). -/
def execCede (p : Port) (t : Tag) (s : State) : Host.Outcome State Fault Refusal :=
  takeRequest s p t .cede fun q =>
    serveChecked s p t (cedeCheck s p q.operands) fun x =>
      let s1 := announceQuota (moveQuota s x.1 x.2.1 x.2.2) p x.1 x.2.1 x.2.2
      respond s1 p t .done (cedeResults (s1.ctx x.1).quota (s1.ctx x.2.1).quota)

/-! ## CONTEXT_INFO (R32) -/

/-- The answer to CONTEXT_INFO (R32, R184). -/
def contextInfoReply (s : State) (ops : List Byte) : Reply :=
  match operandCtx ops 4 with
  | none => (.badOperand, [])
  | some c => (.done, contextInfoResults (s.ctx c) (bindingCode s c))

/-- CONTEXT_INFO (R32). -/
def execContextInfo (p : Port) (t : Tag) (s : State) : Host.Outcome State Fault Refusal :=
  takeRequest s p t .contextInfo fun q =>
    respond s p t (contextInfoReply s q.operands).1 (contextInfoReply s q.operands).2

/-! ## BIND (R158, R159) -/

/-- The checks of R158 in their order. -/
def bindCheck (s : State) (p : Port) (ops : List Byte) : Except Reply Ctx :=
  match operandCtx ops 4 with
  | none => refuse .badOperand
  | some c =>
    match actingFault s p c with
    | some v => refuse v
    | none => if (s.port p).binding = .settled then .ok c else refuse .busy

/-- The three ways of R159. -/
def bindTo (s : State) (p : Port) (t : Tag) (c : Ctx) : State :=
  if (s.port p).bound = c then respond s p t .done (contextResults c)
  else if (s.port p).plainCount = 0 then
    respond (modPort s p fun x => { x with bound := c }) p t .done (contextResults (s.port p).bound)
  else modPort (activate s p t) p fun x => { x with binding := .switching c t }

/-- BIND (R158, R159). -/
def execBind (p : Port) (t : Tag) (s : State) : Host.Outcome State Fault Refusal :=
  takeRequest s p t .bind fun q => serveChecked s p t (bindCheck s p q.operands) (bindTo s p t)

end Sys2Proof.Machine
end

