-- ==== Sys2Proof/Machine/DeviceReset.lean ====
section
/-! DEFINITION. Device reset: RST_N_ASSERT and RST_N_RELEASE (R21, R27, R45, R46, R89, R105, R117, R137, R152, R154, R169, R170,
R179). -/

namespace Sys2Proof.Machine

open Sys2Proof

/-- Every port record after device reset, in the given state: the level of PRST_N and what the streams have delivered stay. -/
def resetPorts (s : State) (st : PortState) : Vector PortRec 4 :=
  ⟨⟨(List.finRange 4).map fun p =>
    PortRec.reset st p (s.port p).prst (s.port p).accessResponses (s.port p).controlResponses⟩, by simp⟩

/-- The blocks as device reset leaves them. The two engines' generations, the delivered outputs and the queue of commands
are not changed by it (R114, R152). -/
def resetBlocks (s : State) (asserted : Bool) (part : BitVec 2) (st : PortState) (scrub : ScrubState) : State :=
  { s with
    rstAsserted := asserted
    part := part
    usTicks := 0
    msTicks := 0
    frames := Vector.replicate 4096 FrameRec.reset
    freeList := []
    scrubQueue := resetScrubQueue
    contexts := resetContexts part
    teardowns := Vector.replicate 16 none
    maps := Vector.replicate 16 (Vector.replicate 128 none)
    offers := Vector.replicate 16 none
    nextSerial := 0
    withdrawals := []
    ports := resetPorts s st
    pointer := .port 0
    scrub := scrub
    loadQueue := []
    load := .idle }

/-- The assertion of RST_N: the accesses waiting at the lanes are answered OFFLINE (R120), every port is DOWN, and everything in
progress is abandoned. The quotas keep the row of the straps sampled last (entry 8). -/
def assertReset (s : State) : State :=
  resetBlocks ((List.finRange 4).foldl offlineLanes s) true s.part .down .idle

/-- A port whose PRST_N stands asserted at the release enters TEARDOWN at the same event (R154). -/
def resetPortAsserted (s : State) (p : Port) : State :=
  if (s.port p).prst then startPortTeardown s p else s

/-- The release of RST_N: the straps are sampled (R27), the scrub engine is READY on frame 0 (R117), the ports are UP (R169). -/
def releaseReset (s : State) (part : BitVec 2) : State :=
  settle ((List.finRange 4).foldl resetPortAsserted (resetBlocks s false part .up (.ready 0 0)))

/-- RST_N_ASSERT (R154, R169): an edge of a line already asserted does not arise (entry 2). -/
def execRstNAssert (s : State) : Host.Outcome State Fault Refusal :=
  .next (if s.rstAsserted then s else assertReset s)

/-- RST_N_RELEASE (R169, R27): of a line that is asserted (entry 2). -/
def execRstNRelease (part : BitVec 2) (s : State) : Host.Outcome State Fault Refusal :=
  .next (if s.rstAsserted then releaseReset s part else s)

end Sys2Proof.Machine
end

