-- ==== Sys2Proof/Machine/FrameTable.lean ====
section
/-! DEFINITION. The requests of the frame table (1): CLAIM, RELEASE, FRAME_INFO, DEVICE_INFO. -/

namespace Sys2Proof.Machine

open Sys2Proof

/-! ## CLAIM (R12, R13) -/

/-- The checks of R12 in their order, after the range check of the context (R184). -/
def claimCheck (s : State) (p : Port) (ops : List Byte) : Except Reply (Ctx × Nat) :=
  match operandCtx ops 4 with
  | none => refuse .badOperand
  | some c =>
    if operandByte ops 5 < 1 ∨ 8 < operandByte ops 5 then refuse .badOperand
    else
      match actingFault s p c with
      | some v => refuse v
      | none =>
        if headroom (s.ctx c) < operandByte ops 5 then .error (.overQuota, overQuotaResults (headroom (s.ctx c)))
        else if s.freeList.length < operandByte ops 5 then
          .error (.noFrames, noFramesResults s.freeList.length s.scrubQueue.length)
        else .ok (c, operandByte ops 5)

/-- A frame taken by a CLAIM (R13): its error mark is left as it was. -/
def claimedFrame (c : Ctx) (r : FrameRec) : FrameRec :=
  { r with state := .held, holders := [⟨c, .readWrite, false⟩], mapCount := 0, pendingOffers := 0 }

/-- The first n frames of the free list become HELD by `c` and are charged to it (R13). -/
def claimFrames (s : State) (c : Ctx) (n : Nat) : State :=
  let s1 := { s with freeList := s.freeList.drop n }
  modCtx ((s.freeList.take n).foldl (fun s f => modFrame s f (claimedFrame c)) s1) c
    fun x => { x with charged := x.charged + n }

/-- CLAIM (R12, R13). -/
def execClaim (p : Port) (t : Tag) (s : State) : Host.Outcome State Fault Refusal :=
  takeRequest s p t .claim fun q =>
    serveChecked s p t (claimCheck s p q.operands) fun a =>
      respond (claimFrames s a.1 a.2) p t .done (claimResults (s.freeList.take a.2))

/-! ## RELEASE (R15, R16) -/

/-- The checks of R15 in their order. -/
def releaseCheck (s : State) (p : Port) (ops : List Byte) : Except Reply (Ctx × Frame) :=
  match operandCtx ops 4, operandFrame ops 6 with
  | some c, some f =>
    match actingFault s p c with
    | some v => refuse v
    | none =>
      if (s.frame f).state ≠ .held then refuse .notHolder
      else if !holds (s.frame f).holders c then refuse .notHolder
      else if originOf (s.frame f).holders ≠ some c then refuse .notOrigin
      else if !(s.frame f).holders.tail.isEmpty then refuse .stillShared
      else .ok (c, f)
  | _, _ => refuse .badOperand

/-- The acceptance of a RELEASE (R16): the give-up, the cancellation of the frame's offers, the start of the withdrawal. -/
def acceptRelease (s : State) (p : Port) (t : Tag) (c : Ctx) (f : Frame) : State :=
  settle (startWithdrawal (cancelOffersOn (giveUp (activate s p t) f c) f) c (some f) (.release p t))

/-- RELEASE (R15, R16). -/
def execRelease (p : Port) (t : Tag) (s : State) : Host.Outcome State Fault Refusal :=
  takeRequest s p t .release fun q =>
    serveChecked s p t (releaseCheck s p q.operands) fun a => acceptRelease s p t a.1 a.2

/-! ## FRAME_INFO and DEVICE_INFO (R18, R19) -/

/-- At least one holder of the frame is owned by the port (R18). -/
def ownsHolder (s : State) (p : Port) (hs : List Holder) : Bool := hs.any fun h => ownedBy s p h.ctx

/-- The answer to FRAME_INFO (R18). -/
def frameInfoReply (s : State) (p : Port) (ops : List Byte) : Reply :=
  match operandFrame ops 6 with
  | none => (.badOperand, [])
  | some f =>
    if (s.frame f).state = .held ∧ ownsHolder s p (s.frame f).holders then (.done, frameInfoResults (s.frame f))
    else (.notHolder, frameStateResults (s.frame f).state)

/-- FRAME_INFO (R18). -/
def execFrameInfo (p : Port) (t : Tag) (s : State) : Host.Outcome State Fault Refusal :=
  takeRequest s p t .frameInfo fun q =>
    respond s p t (frameInfoReply s p q.operands).1 (frameInfoReply s p q.operands).2

/-- The results of DEVICE_INFO (R19). -/
def deviceFigures (s : State) : List Byte :=
  deviceInfoResults (frameCount s .free) (frameCount s .held) (frameCount s .reclaim) (frameCount s .scrub)
    (frameCount s .retired) s.freeList.length s.scrubQueue.length (offerCount s) s.loadQueue.length s.nextSerial.toNat

/-- DEVICE_INFO (R19). -/
def execDeviceInfo (p : Port) (t : Tag) (s : State) : Host.Outcome State Fault Refusal :=
  takeRequest s p t .deviceInfo fun _ => respond s p t .done (deviceFigures s)

end Sys2Proof.Machine
end

