-- ==== Sys2Proof/Machine/LoadEngine.lean ====
section
/-! DEFINITION. The load engine (8): MAP_LOAD, LOAD_CANCEL and the ends of a descriptor read. -/

namespace Sys2Proof.Machine

open Sys2Proof

/-! ## MAP_LOAD (R139, R140) -/

/-- The list lies on the frame as check 1 of R139 asks: offset a multiple of 8 and 0-8184, count 1-128, the list's end within
the frame. -/
def goodList (offset count : Nat) : Bool :=
  offset % 8 == 0 && offset ≤ 8184 && 1 ≤ count && count ≤ 128 && offset + 8 * count ≤ Config.frameSize

/-- The checks of R139 in their order: the record to append. -/
def mapLoadCheck (s : State) (p : Port) (t : Tag) (ops : List Byte) : Except Reply LoadRec :=
  match operandCtx ops 4, operandFrame ops 6 with
  | some c, some f =>
    if !goodList (operandWord ops 8) (operandByte ops 5) then refuse .badOperand
    else
      match actingFault s p c with
      | some v => refuse v
      | none =>
        if !sourceHeld s p c f then refuse .notHolder
        else if Config.loadQueueSize ≤ s.loadQueue.length then refuse .loadQueueFull
        else .ok ⟨p, t, c, f, operandWord ops 8, operandByte ops 5, operandStamp ops 12, 0, none⟩
  | _, _ => refuse .badOperand

/-- The acceptance of a MAP_LOAD (R140): appended at the tail; in an empty queue it runs at once. -/
def acceptLoad (s : State) (p : Port) (t : Tag) (r : LoadRec) : State :=
  let s1 := { activate s p t with loadQueue := s.loadQueue ++ [r] }
  if s.loadQueue.isEmpty then runLoads s1 else s1

/-- MAP_LOAD (R139, R140). -/
def execMapLoad (p : Port) (t : Tag) (s : State) : Host.Outcome State Fault Refusal :=
  takeRequest s p t .mapLoad fun q => serveChecked s p t (mapLoadCheck s p t q.operands) (acceptLoad s p t)

/-! ## LOAD_CANCEL (R147, R148) -/

/-- The record is the one a LOAD_CANCEL of the port names by this tag. -/
def loadNamed (p : Port) (t : Tag) (r : LoadRec) : Bool := r.port == p && r.tag == t

/-- The checks of R147 in their order: the tag of the named load. -/
def loadCancelCheck (s : State) (p : Port) (ops : List Byte) : Except Reply Tag :=
  match operandTag ops 4 with
  | none => refuse .badOperand
  | some u => if s.loadQueue.any (loadNamed p u) then .ok u else refuse .badOperand

/-- The effect of a LOAD_CANCEL on the named record by its place (R147). -/
def cancelLoad (s : State) (p : Port) (u : Tag) : State :=
  match s.loadQueue with
  | [] => s
  | r :: _ =>
    if loadNamed p u r then placeStop s .cancelled
    else removeQueued s (loadNamed p u) (.cancelled, loadCancelledResults 0)

/-- LOAD_CANCEL (R147): its own response is decided first (entry 10). -/
def execLoadCancel (p : Port) (t : Tag) (s : State) : Host.Outcome State Fault Refusal :=
  takeRequest s p t .loadCancel fun q =>
    serveChecked s p t (loadCancelCheck s p q.operands) fun u =>
      settle (cancelLoad (respond s p t .done []) p u)

/-! ## The ends of a descriptor read (R143, R145) -/

/-- LOAD_READ_COMPLETION (R143, R144): of the outstanding read; any other completion is discarded (R145). -/
def execLoadReadCompletion (gen : Byte) (data : List Byte) (s : State) : Host.Outcome State Fault Refusal :=
  .next (if loadMatching s gen then settle (finishRead s data) else s)

/-- LOAD_READ_ERROR (R145). -/
def execLoadReadError (gen : Byte) (s : State) : Host.Outcome State Fault Refusal :=
  .next (if loadMatching s gen then settle (failRead s) else s)

/-- The outstanding descriptor read has reached the timeout (R145). -/
def loadTimedOut (s : State) : Bool :=
  match s.load with
  | .outstanding age => Config.timeout ≤ age
  | _ => false

/-- LOAD_READ_TIMEOUT (R145): of an outstanding read whose age has reached 200 microseconds. -/
def execLoadReadTimeout (s : State) : Host.Outcome State Fault Refusal :=
  .next (if loadTimedOut s then settle (failRead s) else s)

end Sys2Proof.Machine
end

