-- ==== Sys2Proof/Machine/MapStore.lean ====
section
/-! DEFINITION. The requests of the map store (3): MAP_SET, MAP_CLEAR, PROBE. -/

namespace Sys2Proof.Machine

open Sys2Proof

/-- The checks of R50 in their order. -/
def mapSetCheck (s : State) (p : Port) (ops : List Byte) : Except Reply (Ctx × Page × MapEntry) :=
  match operandCtx ops 4, operandPage ops 5, operandFrame ops 6, operandRights ops 8 with
  | some c, some g, some f, some r =>
    match actingFault s p c with
    | some v => refuse v
    | none =>
      match holdingFault s c f r with
      | some v => refuse v
      | none => .ok (c, g, ⟨f, r⟩)
  | _, _, _, _ => refuse .badOperand

/-- MAP_SET (R50, R51). -/
def execMapSet (p : Port) (t : Tag) (s : State) : Host.Outcome State Fault Refusal :=
  takeRequest s p t .mapSet fun q =>
    serveChecked s p t (mapSetCheck s p q.operands) fun x =>
      respond (makeEntry s x.1 x.2.1 x.2.2) p t .done (previousResults (s.entry x.1 x.2.1))

/-- The checks of R52 and R53 in their order: page, owner, state. -/
def pageCheck (s : State) (p : Port) (ops : List Byte) : Except Reply (Ctx × Page) :=
  match operandCtx ops 4, operandPage ops 5 with
  | some c, some g =>
    match actingFault s p c with
    | some v => refuse v
    | none => .ok (c, g)
  | _, _ => refuse .badOperand

/-- MAP_CLEAR (R52). -/
def execMapClear (p : Port) (t : Tag) (s : State) : Host.Outcome State Fault Refusal :=
  takeRequest s p t .mapClear fun q =>
    serveChecked s p t (pageCheck s p q.operands) fun x =>
      respond (clearEntry s x.1 x.2) p t .done (previousResults (s.entry x.1 x.2))

/-- The code of a context's holder rights on a frame; 0 where it is no holder, which a valid entry rules out (R47). -/
def holderRightsCode (s : State) (c : Ctx) (f : Frame) : Byte :=
  match holderOf (s.frame f).holders c with
  | some h => h.rights.code
  | none => 0

/-- The results of PROBE (R53). -/
def probeReply (s : State) (c : Ctx) (g : Page) : List Byte :=
  match s.entry c g with
  | none => zeros 4
  | some e => probeResults e (s.frame e.frame).state (holderRightsCode s c e.frame)

/-- PROBE (R53). -/
def execProbe (p : Port) (t : Tag) (s : State) : Host.Outcome State Fault Refusal :=
  takeRequest s p t .probe fun q =>
    serveChecked s p t (pageCheck s p q.operands) fun x => respond s p t .done (probeReply s x.1 x.2)

end Sys2Proof.Machine
end

