-- ==== Sys2Proof/Machine/PortReset.lean ====
section
/-! DEFINITION. Port reset: the edges of PRST_N (R154, R163) and the three steps of port teardown (R166, R167). -/

namespace Sys2Proof.Machine

open Sys2Proof

/-- PRST_N_ASSERT (R163, R164): taken by edge in UP; in any other port state only the line's level changes (R154). -/
def execPrstNAssert (p : Port) (s : State) : Host.Outcome State Fault Refusal :=
  let s1 := modPort s p fun x => { x with prst := true }
  .next (if (s.port p).prst then s else if portUp s p then settle (startPortTeardown s1 p) else s1)

/-- PRST_N_DEASSERT (R154): a port in phase ENDED returns to UP; otherwise only the line's level changes. -/
def execPrstNDeassert (p : Port) (s : State) : Host.Outcome State Fault Refusal :=
  .next (modPort s p fun x =>
    { x with
      prst := false
      state := if x.prst ∧ x.state = .teardown .ended then .up else x.state })

/-- PORT_TEARDOWN_LOADS_END (R166): phase LOADS ends where no load of the port is left, and phase CONTEXTS begins. -/
def execPortTeardownLoadsEnd (p : Port) (s : State) : Host.Outcome State Fault Refusal :=
  .next (if (s.port p).state = .teardown .loads ∧ portDue s p then settle (enterContext s p) else s)

/-- PORT_TEARDOWN_NEXT_CONTEXT (R167): the teardown of a pooled context has ended; the next context follows. -/
def execPortTeardownNextContext (p : Port) (s : State) : Host.Outcome State Fault Refusal :=
  match (s.port p).state with
  | .teardown (.contexts c) => .next (if c ≠ homeOf p ∧ portDue s p then settle (enterContext s p) else s)
  | _ => .next s

/-- PORT_TEARDOWN_END (R167): the teardown of the home context has ended. -/
def execPortTeardownEnd (p : Port) (s : State) : Host.Outcome State Fault Refusal :=
  .next (if (s.port p).state = .teardown (.contexts (homeOf p)) ∧ portDue s p then settle (endPortTeardown s p) else s)

end Sys2Proof.Machine
end

