-- ==== Sys2Proof/Machine/Sharing.lean ====
section
/-! DEFINITION. Sharing (4): OFFER, ACCEPT, DECLINE, RETRACT, LEAVE, REVOKE, and OFFER_EXPIRY. -/

namespace Sys2Proof.Machine

open Sys2Proof

/-! ## OFFER (R70, R71) -/

/-- The operands of an OFFER whose ranges are good (R70, check 1). -/
structure OfferOperands where
  offerer : Ctx
  target : Ctx
  frame : Frame
  rights : Rights
  lifetime : Nat
  deriving DecidableEq, Repr

/-- The range checks of OFFER (R70, check 1). -/
def offerOperands (ops : List Byte) : Option OfferOperands :=
  match operandCtx ops 4, operandCtx ops 5, operandFrame ops 6, operandRights ops 8 with
  | some c, some t, some f, some r =>
    if operandWord ops 10 < 1 ∨ 4095 < operandWord ops 10 then none else some ⟨c, t, f, r, operandWord ops 10⟩
  | _, _, _, _ => none

/-- A pending offer names the frame and the target (R70, check 10). -/
def offerPending (s : State) (f : Frame) (t : Ctx) : Bool :=
  s.offers.toArray.toList.any fun x =>
    match x with
    | some o => o.frame == f && o.target == t
    | none => false

/-- The lowest-numbered empty slot of the offer table (R71). -/
def emptyOfferSlot (s : State) : Option OfferId := (List.finRange 16).find? fun i => (s.offer i).isNone

/-- The checks of R70 in their order: the operands and the slot to take. -/
def offerCheck (s : State) (p : Port) (ops : List Byte) : Except Reply (OfferOperands × OfferId) :=
  match offerOperands ops with
  | none => refuse .badOperand
  | some x =>
    if x.target = x.offerer then refuse .badOperand
    else
      match actingFault s p x.offerer with
      | some v => refuse v
      | none =>
        if (s.frame x.frame).state ≠ .held then refuse .notHolder
        else if !holds (s.frame x.frame).holders x.offerer then refuse .notHolder
        else if originOf (s.frame x.frame).holders ≠ some x.offerer then refuse .notOrigin
        else if !live s x.target then refuse .notLive
        else if holds (s.frame x.frame).holders x.target then refuse .alreadyHolder
        else if offerPending s x.frame x.target then refuse .duplicateOffer
        else if Config.holdersMax ≤ (s.frame x.frame).holders.length + (s.frame x.frame).pendingOffers then
          refuse .holdersFull
        else
          match emptyOfferSlot s with
          | none => refuse .offersFull
          | some i => .ok (x, i)

/-- The creation of an offer (R71): the record, the serial, the pending offer count, OFFER_ARRIVED. -/
def createOffer (s : State) (x : OfferOperands) (i : OfferId) : State :=
  let s1 := s.setOffer i (some ⟨s.nextSerial, x.frame, x.offerer, x.target, x.rights, x.lifetime⟩)
  let s2 := modFrame { s1 with nextSerial := s.nextSerial + 1 } x.frame
    fun r => { r with pendingOffers := r.pendingOffers + 1 }
  addressOwner s2 x.target (.offerArrived i s.nextSerial x.frame x.offerer x.target x.rights x.lifetime)

/-- OFFER (R70, R71). -/
def execOffer (p : Port) (t : Tag) (s : State) : Host.Outcome State Fault Refusal :=
  takeRequest s p t .offer fun q =>
    serveChecked s p t (offerCheck s p q.operands) fun x =>
      respond (createOffer s x.1 x.2) p t .done (offerResults x.2 s.nextSerial)

/-! ## ACCEPT, DECLINE, RETRACT (R72 to R75) -/

/-- The record that a request names by offer id and serial (R67). -/
def namedOffer (s : State) (ops : List Byte) : Except Reply (OfferId × OfferRec) :=
  match operandTag ops 4 with
  | none => refuse .badOperand
  | some i =>
    match s.offer i with
    | none => refuse .noSuchOffer
    | some o => if o.serial = operandSerial ops 6 then .ok (i, o) else refuse .noSuchOffer

/-- The checks of R72 and R75: the record, then the owner and state of the context that plays the acting part. -/
def offerAnswerCheck (s : State) (p : Port) (actor : OfferRec → Ctx) (ops : List Byte) :
    Except Reply (OfferId × OfferRec) :=
  match namedOffer s ops with
  | .error r => .error r
  | .ok x =>
    match actingFault s p (actor x.2) with
    | some v => refuse v
    | none => .ok x

/-- ACCEPT (R72, R73). -/
def execAccept (p : Port) (t : Tag) (s : State) : Host.Outcome State Fault Refusal :=
  takeRequest s p t .accept fun q =>
    serveChecked s p t (offerAnswerCheck s p OfferRec.target q.operands) fun x =>
      respond (appendHolder (endOffer s x.1 .accepted x.2.offerer) x.2.frame x.2.target x.2.rights) p t .done
        (acceptResults x.2.frame)

/-- DECLINE (R74). -/
def execDecline (p : Port) (t : Tag) (s : State) : Host.Outcome State Fault Refusal :=
  takeRequest s p t .decline fun q =>
    serveChecked s p t (offerAnswerCheck s p OfferRec.target q.operands) fun x =>
      respond (endOffer s x.1 .declined x.2.offerer) p t .done []

/-- RETRACT (R75). -/
def execRetract (p : Port) (t : Tag) (s : State) : Host.Outcome State Fault Refusal :=
  takeRequest s p t .retract fun q =>
    serveChecked s p t (offerAnswerCheck s p OfferRec.offerer q.operands) fun x =>
      respond (endOffer s x.1 .retracted x.2.target) p t .done (retractResults x.2.frame x.2.remaining)

/-! ## LEAVE and REVOKE (R79, R81) -/

/-- The checks of R79 in their order. -/
def leaveCheck (s : State) (p : Port) (ops : List Byte) : Except Reply (Ctx × Frame) :=
  match operandCtx ops 4, operandFrame ops 6 with
  | some c, some f =>
    match actingFault s p c with
    | some v => refuse v
    | none =>
      if (s.frame f).state ≠ .held then refuse .notHolder
      else
        match holderOf (s.frame f).holders c with
        | none => refuse .notHolder
        | some h =>
          if originOf (s.frame f).holders = some c then refuse .isOrigin
          else if h.withdrawing then refuse .busy
          else .ok (c, f)
  | _, _ => refuse .badOperand

/-- LEAVE (R79, R80): accepted, the withdrawal of the co-holder starts, and ends at once where nothing is in transit. -/
def execLeave (p : Port) (t : Tag) (s : State) : Host.Outcome State Fault Refusal :=
  takeRequest s p t .leave fun q =>
    serveChecked s p t (leaveCheck s p q.operands) fun x =>
      settle (withdrawHolder (activate s p t) x.1 x.2 (.leave p t))

/-- The checks of R81 in their order: the co-holder and the frame. -/
def revokeCheck (s : State) (p : Port) (ops : List Byte) : Except Reply (Ctx × Frame) :=
  match operandCtx ops 4, operandCtx ops 5, operandFrame ops 6 with
  | some c, some t, some f =>
    match actingFault s p c with
    | some v => refuse v
    | none =>
      if (s.frame f).state ≠ .held then refuse .notHolder
      else if !holds (s.frame f).holders c then refuse .notHolder
      else if originOf (s.frame f).holders ≠ some c then refuse .notOrigin
      else
        match holderOf (s.frame f).holders.tail t with
        | none => refuse .notHolder
        | some h => if h.withdrawing then refuse .busy else .ok (t, f)
  | _, _, _ => refuse .badOperand

/-- REVOKE (R81, R82): accepted, the withdrawal of the named co-holder starts, and ends at once where nothing is in
transit. -/
def execRevoke (p : Port) (t : Tag) (s : State) : Host.Outcome State Fault Refusal :=
  takeRequest s p t .revoke fun q =>
    serveChecked s p t (revokeCheck s p q.operands) fun x =>
      settle (withdrawHolder (activate s p t) x.1 x.2 (.revoke p t))

/-! ## OFFER_EXPIRY (R69) -/

/-- The offer in slot `i` has no lifetime left. -/
def offerDue (s : State) (i : OfferId) : Bool :=
  match s.offer i with
  | some o => o.remaining == 0
  | none => false

/-- OFFER_EXPIRY (R69): of an offer whose remaining lifetime is 0. -/
def execOfferExpiry (i : OfferId) (s : State) : Host.Outcome State Fault Refusal :=
  .next (if offerDue s i then expireOffer s i else s)

end Sys2Proof.Machine
end

