-- ==== Sys2Proof/Machine/Timebase.lean ====
section
/-! DEFINITION. The timebase: MICROSECOND_TICK (R127, R132, R113, R145) and MILLISECOND_TICK (R68, R69). Both count from the
release of RST_N (R137, R68). -/

namespace Sys2Proof.Machine

open Sys2Proof

/-! ## Microseconds -/

/-- A transit slot one microsecond later: the age of an ISSUED entry rises (R127). -/
def olderSlot (x : TransitSlot) : TransitSlot :=
  { x with entry := x.entry.map fun e =>
      match e.phase with
      | .waiting => e
      | .issued age => { e with phase := .issued (age + 1) } }

/-- The ages of every ISSUED entry, the outstanding scrub write and the outstanding descriptor read rise by 1. -/
def raiseAges (s : State) : State :=
  { s with
    ports := mapVec (fun r => { r with transit := mapVec olderSlot r.transit }) s.ports
    scrub := match s.scrub with
      | .outstanding f k age => .outstanding f k (age + 1)
      | x => x
    load := match s.load with
      | .outstanding age => .outstanding (age + 1)
      | x => x }

/-- A request to memory that has reached the timeout. -/
inductive Late where
  | access (p : Port) (i : Slot)
  | scrub
  | load
  deriving DecidableEq, Repr

/-- Every request that has reached the timeout. -/
def lateRequests (s : State) : List Late :=
  ((List.finRange 4).flatMap fun p =>
      ((List.finRange 16).filter fun i => (timedOut s p i).isSome).map (Late.access p))
    ++ (if (scrubTimedOut s).isSome then [.scrub] else [])
    ++ (if loadTimedOut s then [.load] else [])

/-- One timeout, a whole event of its own (R132, R113, R145). -/
def takeLate (s : State) : Late → State
  | .access p i =>
    match timedOut s p i with
    | none => s
    | some e => failEntry s p i e .timeout
  | .scrub =>
    match scrubTimedOut s with
    | none => s
    | some f => scrubFail s f
  | .load => if loadTimedOut s then settle (failRead s) else s

/-- The timeouts of one tick, one after the other; of several the free choice takes one (entry 6). -/
def takeLateFor : Nat → State → State
  | 0, s => s
  | n + 1, s =>
    match choose s (lateRequests s) with
    | none => s
    | some (s1, x) => takeLateFor n (takeLate s1 x)

/-- MICROSECOND_TICK: while RST_N is asserted no tick is counted (R137). The 64 transit entries, the scrub write and the
descriptor read are 66 requests that can time out at one tick. -/
def execMicrosecondTick (s : State) : Host.Outcome State Fault Refusal :=
  .next (if s.rstAsserted then s else takeLateFor 66 (raiseAges { s with usTicks := s.usTicks + 1 }))

/-! ## Milliseconds -/

/-- The remaining lifetime of every pending offer falls by 1 (R68). -/
def lowerLifetimes (s : State) : State :=
  { s with offers := mapVec (fun x => x.map fun o => { o with remaining := o.remaining - 1 }) s.offers }

/-- Every offer whose remaining lifetime has reached 0 expires, in ascending offer id (R68, R180). -/
def expireDue (s : State) : State :=
  (List.finRange 16).foldl (fun s i => if offerDue s i then expireOffer s i else s) s

/-- MILLISECOND_TICK (R68, R69): while RST_N is asserted no tick is counted. -/
def execMillisecondTick (s : State) : Host.Outcome State Fault Refusal :=
  .next (if s.rstAsserted then s else expireDue (lowerLifetimes { s with msTicks := s.msTicks + 1 }))

end Sys2Proof.Machine
end

