-- ==== Sys2Proof/Machine/Withdrawals.lean ====
section
/-! DEFINITION. Withdrawals and context teardown (5, 2.8): WITHDRAWAL_END, TEARDOWN_OFFER_CANCEL, TEARDOWN_FRAME_TURN. -/

namespace Sys2Proof.Machine

open Sys2Proof

/-- The record of this context and frame (none for CONTEXT kind) whose drain set is empty (R99). -/
def endedRecord (s : State) (c : Ctx) (f : Option Frame) : Option Withdrawal :=
  s.withdrawals.find? fun w => w.ctx == c && w.frame == f && w.drain.isEmpty

/-- WITHDRAWAL_END (R99): of a record whose drain set is empty. -/
def execWithdrawalEnd (c : Ctx) (f : Option Frame) (s : State) : Host.Outcome State Fault Refusal :=
  match endedRecord s c f with
  | none => .next s
  | some w => .next (settle (endWithdrawal s w))

/-- TEARDOWN_OFFER_CANCEL (R36, R38): step 2 of a pooled context's teardown, and what follows it at the same event: each later
step that finds nothing to wait for, up to the teardown's end. -/
def execTeardownOfferCancel (c : Ctx) (s : State) : Host.Outcome State Fault Refusal :=
  match s.teardown c with
  | some ⟨starter, .offers⟩ => .next (settle (cancelThenEndLoads s c starter))
  | _ => .next s

/-- TEARDOWN_FRAME_TURN (R41, R42): one turn of step 5, where one can be taken, and what follows it at the same event
(entry 9). -/
def execTeardownFrameTurn (c : Ctx) (s : State) : Host.Outcome State Fault Refusal :=
  .next (if turnDue s c then settle (takeTurn s c) else s)

end Sys2Proof.Machine
end

