-- ==== Sys2Proof/Machine/Dispatch.lean ====
section
/-! DEFINITION. The dispatch: one arm per command, each one direct call of the command's meaning. -/

namespace Sys2Proof.Machine

open Sys2Proof

def exec (i : Instr) (s : State) : Host.Outcome State Fault Refusal :=
  match i with
  | .rstNAssert => Sys2Proof.Machine.execRstNAssert s
  | .rstNRelease part => Sys2Proof.Machine.execRstNRelease part s
  | .prstNAssert p => Sys2Proof.Machine.execPrstNAssert p s
  | .prstNDeassert p => Sys2Proof.Machine.execPrstNDeassert p s
  | .portTeardownLoadsEnd p => Sys2Proof.Machine.execPortTeardownLoadsEnd p s
  | .portTeardownNextContext p => Sys2Proof.Machine.execPortTeardownNextContext p s
  | .portTeardownEnd p => Sys2Proof.Machine.execPortTeardownEnd p s
  | .controlRequestArrival p m => Sys2Proof.Machine.execControlRequestArrival p m s
  | .claim p t => Sys2Proof.Machine.execClaim p t s
  | .release p t => Sys2Proof.Machine.execRelease p t s
  | .frameInfo p t => Sys2Proof.Machine.execFrameInfo p t s
  | .deviceInfo p t => Sys2Proof.Machine.execDeviceInfo p t s
  | .create p t => Sys2Proof.Machine.execCreate p t s
  | .destroy p t => Sys2Proof.Machine.execDestroy p t s
  | .cede p t => Sys2Proof.Machine.execCede p t s
  | .contextInfo p t => Sys2Proof.Machine.execContextInfo p t s
  | .bind p t => Sys2Proof.Machine.execBind p t s
  | .mapSet p t => Sys2Proof.Machine.execMapSet p t s
  | .mapClear p t => Sys2Proof.Machine.execMapClear p t s
  | .probe p t => Sys2Proof.Machine.execProbe p t s
  | .mapLoad p t => Sys2Proof.Machine.execMapLoad p t s
  | .loadCancel p t => Sys2Proof.Machine.execLoadCancel p t s
  | .offer p t => Sys2Proof.Machine.execOffer p t s
  | .accept p t => Sys2Proof.Machine.execAccept p t s
  | .decline p t => Sys2Proof.Machine.execDecline p t s
  | .retract p t => Sys2Proof.Machine.execRetract p t s
  | .leave p t => Sys2Proof.Machine.execLeave p t s
  | .revoke p t => Sys2Proof.Machine.execRevoke p t s
  | .fetchNotices p t => Sys2Proof.Machine.execFetchNotices p t s
  | .withdrawalEnd c f => Sys2Proof.Machine.execWithdrawalEnd c f s
  | .teardownOfferCancel c => Sys2Proof.Machine.execTeardownOfferCancel c s
  | .teardownFrameTurn c => Sys2Proof.Machine.execTeardownFrameTurn c s
  | .accessArrival p a => Sys2Proof.Machine.execAccessArrival p a s
  | .accessTranslation p => Sys2Proof.Machine.execAccessTranslation p s
  | .memoryPortGrant => Sys2Proof.Machine.execMemoryPortGrant s
  | .transitCompletionOk p j gen data => Sys2Proof.Machine.execTransitCompletionOk p j gen data s
  | .transitCompletionError p j gen => Sys2Proof.Machine.execTransitCompletionError p j gen s
  | .staleCompletion requester j gen status data => Sys2Proof.Machine.execStaleCompletion requester j gen status data s
  | .transitTimeout p j => Sys2Proof.Machine.execTransitTimeout p j s
  | .switchCompletion p => Sys2Proof.Machine.execSwitchCompletion p s
  | .scrubCompletionOk gen => Sys2Proof.Machine.execScrubCompletionOk gen s
  | .scrubCompletionError gen => Sys2Proof.Machine.execScrubCompletionError gen s
  | .scrubWriteTimeout => Sys2Proof.Machine.execScrubWriteTimeout s
  | .loadReadCompletion gen data => Sys2Proof.Machine.execLoadReadCompletion gen data s
  | .loadReadError gen => Sys2Proof.Machine.execLoadReadError gen s
  | .loadReadTimeout => Sys2Proof.Machine.execLoadReadTimeout s
  | .microsecondTick => Sys2Proof.Machine.execMicrosecondTick s
  | .millisecondTick => Sys2Proof.Machine.execMillisecondTick s
  | .offerExpiry j => Sys2Proof.Machine.execOfferExpiry j s

end Sys2Proof.Machine
end

