-- ==== Sys2Proof/Safety.lean ====
section
/-! DEFINITION. What the statements speak of: a request that stands waiting and its answer, what of a state a command leaves
alone, and the laws that every step keeps. -/

namespace Sys2Proof.Machine

open Sys2Proof

/-! ## Requests and their answers -/

/-- Port `p` is UP and control slot `q` of it holds, under tag `t`, a WAITING request of kind `k` (R170, R175). -/
def Requested (s : State) (p : Port) (t : Tag) (k : RequestKind) (q : ControlSlot) : Prop :=
  (s.port p).state = .up ∧ slotOf (s.port p) t = some q ∧ q.kind = k ∧ q.standing = .waiting ∧ q.discard = false

/-- The port after the response with these bytes to the request under tag `t`: the slot is FREE, the bytes are sent (R176). -/
def PortRec.answered (r : PortRec) (t : Tag) (bytes : List Byte) : PortRec :=
  { r with
    slots := r.slots.filter fun x => x.tag != t
    controlResponses := r.controlResponses ++ [bytes] }

/-- The state after the response with this outcome and these results to the request of kind `k` under tag `t` of port `p`;
nothing else is changed. -/
def answer (s : State) (p : Port) (t : Tag) (k : RequestKind) (v : Verdict) (results : List Byte) : State :=
  { s with ports := s.ports.set p ((s.port p).answered t (responseBytes k.code t v results)) }

/-- The port with the slot of the request under tag `t` ACTIVE (R170). -/
def PortRec.carriedOn (r : PortRec) (t : Tag) : PortRec :=
  { r with slots := r.slots.map fun q => if q.tag = t then { q with standing := .active } else q }

/-- The request under tag `t` of port `p` is carried on: its slot is ACTIVE and no response is sent (R170); nothing else is
changed. -/
def carriedOn (s : State) (p : Port) (t : Tag) : State := { s with ports := s.ports.set p ((s.port p).carriedOn t) }

/-- Context `c` with its record changed; nothing else is changed. -/
def withCtx (s : State) (c : Ctx) (r : CtxRec) : State := { s with contexts := s.contexts.set c r }

/-- Port `p` with its record changed; nothing else is changed. -/
def withPort (s : State) (p : Port) (r : PortRec) : State := { s with ports := s.ports.set p r }

/-- The state with the frame records of another: `u.framesOf s = v.framesOf s` says that `u` and `v` differ in frame records
at most. -/
def State.framesOf (u s : State) : State := { u with frames := s.frames }

/-- The command at which the owner block takes a request of kind `k` (R175). -/
def commandOf (k : RequestKind) (p : Port) (t : Tag) : Instr :=
  match k with
  | .claim => .claim p t
  | .release => .release p t
  | .frameInfo => .frameInfo p t
  | .deviceInfo => .deviceInfo p t
  | .create => .create p t
  | .destroy => .destroy p t
  | .cede => .cede p t
  | .contextInfo => .contextInfo p t
  | .bind => .bind p t
  | .mapSet => .mapSet p t
  | .mapClear => .mapClear p t
  | .probe => .probe p t
  | .mapLoad => .mapLoad p t
  | .loadCancel => .loadCancel p t
  | .offer => .offer p t
  | .accept => .accept p t
  | .decline => .decline p t
  | .retract => .retract p t
  | .leave => .leave p t
  | .revoke => .revoke p t
  | .fetchNotices => .fetchNotices p t

/-- Some operand of a request is outside the range of its field (11.2, R184), by the bytes at their offsets from the start of
the message: contexts are below 16 (of DESTROY: 4 to 15), frames below 4096, pages below 128, tags and offer ids below 16,
rights 1 or 2, counts and amounts in the range of their request. -/
def operandsOutOfRange (k : RequestKind) (ops : List Byte) : Bool :=
  let b (i : Nat) : Nat := (ops.getD (i - 4) 0).toNat
  let w (i : Nat) : Nat := b i + 256 * b (i + 1)
  let outside (n low high : Nat) : Bool := n < low || high < n
  match k with
  | .claim => 16 ≤ b 4 || outside (b 5) 1 8
  | .release => 16 ≤ b 4 || 4096 ≤ w 6
  | .frameInfo => 4096 ≤ w 6
  | .deviceInfo => false
  | .create => false
  | .destroy => outside (b 4) 4 15
  | .cede => 16 ≤ b 4 || 16 ≤ b 5 || outside (w 6) 1 4096
  | .contextInfo => 16 ≤ b 4
  | .bind => 16 ≤ b 4
  | .mapSet => 16 ≤ b 4 || 128 ≤ b 5 || 4096 ≤ w 6 || outside (b 8) 1 2
  | .mapClear => 16 ≤ b 4 || 128 ≤ b 5
  | .probe => 16 ≤ b 4 || 128 ≤ b 5
  | .mapLoad => 16 ≤ b 4 || outside (b 5) 1 128 || 4096 ≤ w 6 || w 8 % 8 != 0 || 8192 < w 8 + 8 * b 5
  | .loadCancel => 16 ≤ b 4
  | .offer => 16 ≤ b 4 || 16 ≤ b 5 || 4096 ≤ w 6 || outside (b 8) 1 2 || outside (w 10) 1 4095
  | .accept => 16 ≤ b 4
  | .decline => 16 ≤ b 4
  | .retract => 16 ≤ b 4
  | .leave => 16 ≤ b 4 || 4096 ≤ w 6
  | .revoke => 16 ≤ b 4 || 16 ≤ b 5 || 4096 ≤ w 6
  | .fetchNotices => outside (b 4) 1 4

/-- The checks 2 to 7 of a RELEASE of `f` by `c`, in their order (R15): the outcome of the first that fails. -/
def releaseRefusal (s : State) (p : Port) (c : Ctx) (f : Frame) : Option Verdict :=
  if (s.ctx c).owner ≠ some p then some .notOwner
  else if (s.ctx c).state ≠ .live then some .notLive
  else if (s.frame f).state ≠ .held then some .notHolder
  else if c ∉ (s.frame f).holders.map Holder.ctx then some .notHolder
  else if ((s.frame f).holders.map Holder.ctx).head? ≠ some c then some .notOrigin
  else if 1 < (s.frame f).holders.length then some .stillShared
  else none

/-! ## Counting -/

/-- How many of the contexts, frames, ... satisfy a test. -/
def count {n : Nat} (test : Fin n → Bool) : Nat := (List.finRange n).countP test

/-- The valid map entries, in all contexts, that name frame `f`. -/
def entriesNaming (s : State) (f : Frame) : Nat :=
  ((List.finRange 16).map fun c => count fun g => (s.entry c g).map MapEntry.frame == some f).sum

/-- The valid map entries of context `c`. -/
def entriesOf (s : State) (c : Ctx) : Nat := count fun g => (s.entry c g).isSome

/-- The frames of which `c` is origin. -/
def framesOriginated (s : State) (c : Ctx) : Nat := count fun f => originOf (s.frame f).holders == some c

/-- The frames of which `c` is a co-holder. -/
def framesShared (s : State) (c : Ctx) : Nat := count fun f => holds (s.frame f).holders.tail c

/-- The pending offers on frame `f`. -/
def offersOn (s : State) (f : Frame) : Nat := count fun i => (s.offer i).map OfferRec.frame == some f

/-- The quotas of the sixteen contexts, summed. -/
def quotaSum (s : State) : Nat := ((List.finRange 16).map fun c => (s.ctx c).quota).sum

/-! ## The start of a withdrawal -/

/-- `v` is `s1`, which has the tables of `s`, after the withdrawal of co-holder `c` of frame `f` has started for the requester
(R79, R81, R93): the flag is set, the entries of `c` naming `f` are invalid with the counts in step, and the record is last on
the list with the transit entries of `c` on `f` as its drain set; nothing else is changed. -/
def WithdrawsHolder (s s1 v : State) (c : Ctx) (f : Frame) (who : Requester) : Prop :=
  let k := count fun g => (s.entry c g).map MapEntry.frame == some f
  (∀ f', v.frame f' =
    if f' = f then
      { s.frame f with
        holders := (s.frame f).holders.map fun h => if h.ctx = c then { h with withdrawing := true } else h
        mapCount := (s.frame f).mapCount - k }
    else s.frame f') ∧
  (∀ d, v.ctx d = if d = c then { s.ctx c with validCount := (s.ctx c).validCount - k } else s.ctx d) ∧
  (∀ d g, v.entry d g = if d = c ∧ (s.entry c g).map MapEntry.frame = some f then none else s.entry d g) ∧
  { v with frames := s.frames, contexts := s.contexts, maps := s.maps } =
    { s1 with withdrawals := s.withdrawals ++ [⟨c, some f, who, drainSet s c (some f)⟩] }

/-! ## The end of loads -/

/-- `v` is `s` after the load engine is asked to end every load that `ends` is true of (R149, R150): each queued one is removed
and answered LOAD_STOPPED with CONTEXT_GONE, 0 and 0, in queue order (the model's choice, entry 10); the running one takes the
stop request where it carries none: at once in READY, ending with its applied count, while with its read outstanding the
request waits on the record. The other loads keep their places, and nothing else is changed. -/
def EndsLoads (s v : State) (ends : LoadRec → Bool) (stop : StopRequest) : Prop :=
  (s.loadQueue = [] → v = s) ∧
  ∀ r rest, s.loadQueue = r :: rest →
    let kept := rest.filter fun x => !ends x
    let told := (rest.filter ends).foldl (fun u x => respond u x.port x.tag .loadStopped [7, 0, 0, 0]) s
    v =
      if ends r = false ∨ r.stop ≠ none then { told with loadQueue := r :: kept }
      else if s.load = .ready then
        runLoads (respond { told with loadQueue := kept, load := .idle } r.port r.tag .loadStopped
          [7, byteOf r.next, byteOf r.next, 0])
      else { told with loadQueue := { r with stop := some stop } :: kept }

/-! ## Laws of reset and of the frame lists -/

/-- While RST_N is asserted every block stands as device reset leaves it, the ports DOWN and the scrub engine IDLE
(R21, R45, R89, R105, R137, R152, R169). -/
def HeldInReset (s : State) : Prop := s.rstAsserted = true → resetBlocks s true s.part .down .idle = s

/-- The free list holds exactly the FREE frames and the scrub queue exactly the SCRUB frames, each once (R4); outside device
reset the scrub engine is on the queue's head, with progress below 32, and IDLE exactly when the queue is empty (R110). -/
structure FrameLists (s : State) : Prop where
  inReset : HeldInReset s
  freeNodup : s.freeList.Nodup
  free : ∀ f, f ∈ s.freeList ↔ (s.frame f).state = .free
  scrubNodup : s.scrubQueue.Nodup
  scrub : ∀ f, f ∈ s.scrubQueue ↔ (s.frame f).state = .scrub
  engine : s.rstAsserted = false →
    match s.scrub with
    | .idle => s.scrubQueue = []
    | .ready f k => s.scrubQueue.head? = some f ∧ k < Config.scrubWrites
    | .outstanding f k _ => s.scrubQueue.head? = some f ∧ k < Config.scrubWrites

/-! ## Laws of the context table -/

/-- The quotas sum to 4096 and charged never exceeds quota (R26, R11); a context is FREE exactly when it has no owner, and then
has quota 0 (R23, R26); the home contexts are always LIVE and owned by their own ports (R24). -/
structure ContextLaw (s : State) : Prop where
  quotaSum : quotaSum s = 4096
  charged : ∀ c, (s.ctx c).charged ≤ (s.ctx c).quota
  free : ∀ c, (s.ctx c).state = .free ↔ (s.ctx c).owner = none
  freeQuota : ∀ c, (s.ctx c).state = .free → (s.ctx c).quota = 0
  home : ∀ p, (s.ctx (homeOf p)).state = .live ∧ (s.ctx (homeOf p)).owner = some p

/-! ## Laws of a port's tables -/

/-- The tables of one port: at most 4 outstanding control requests with distinct tags (R170, R171); at most 16 notices of 16
bytes and a dropped count of at most 255 (R179), and none of an event past left to place (entry 18); the issue queue holds
exactly the WAITING entries, each once, the plain entry count is that of the plain entries, and outstanding access tags are
distinct (R122, R123); a port that is not UP has no notice, no access at its lanes, its home context bound and SETTLED, and
only control requests that run on with their responses discarded (R164, R165). -/
structure PortLaw (p : Port) (r : PortRec) : Prop where
  slots : r.slots.length ≤ Config.controlSlots
  slotTags : (r.slots.map ControlSlot.tag).Nodup
  notices : r.notices.length ≤ Config.noticeQueueSize
  records : ∀ n ∈ r.notices, n.length = 16
  dropped : r.dropped ≤ Config.droppedMax
  arriving : r.arriving = []
  issueNodup : r.issueQueue.Nodup
  issueQueue : ∀ i, i ∈ r.issueQueue ↔ (r.slot i).entry.map TransitEntry.phase = some .waiting
  plainCount : r.plainCount = count fun i => (r.slot i).entry.map TransitEntry.mode == some .plain
  tags : ∀ i j e e', (r.slot i).entry = some e → (r.slot j).entry = some e' → e.tag = e'.tag → i = j
  notUp : r.state ≠ .up → r.notices = [] ∧ r.dropped = 0 ∧ r.plainLane = [] ∧ r.elevatedLane = [] ∧
    r.bound = homeOf p ∧ r.binding = .settled ∧ ∀ q ∈ r.slots, q.standing = .active ∧ q.discard = true

/-- Port `p` holds under tag `t` a long request of kind `k` that its owner block carries on (R170). -/
def CarriesOn (s : State) (p : Port) (t : Tag) (k : RequestKind) : Prop :=
  ∃ q, slotOf (s.port p) t = some q ∧ q.kind = k ∧ q.standing = .active

/-- The control slot that a withdrawal record counts against, with the kind of its request (R91). -/
def Requester.slot : Requester → Option (Port × Tag × RequestKind)
  | .release p t => some (p, t, .release)
  | .leave p t => some (p, t, .leave)
  | .revoke p t => some (p, t, .revoke)
  | .departure _ => none
  | .teardown => none

/-- Each load (R138), each withdrawal that a request started (R91, R92), each DESTROY's teardown (R34) and each switch (R153)
belongs to an ACTIVE control slot of its kind (R170), and no two of them to one slot. -/
structure Carried (s : State) : Prop where
  loads : ∀ r ∈ s.loadQueue, CarriesOn s r.port r.tag .mapLoad
  loadTags : (s.loadQueue.map fun r => (r.port, r.tag)).Nodup
  withdrawals : ∀ w ∈ s.withdrawals, ∀ p t k, w.requester.slot = some (p, t, k) → CarriesOn s p t k
  withdrawalTags : (s.withdrawals.filterMap fun w => w.requester.slot).Nodup
  teardowns : ∀ c td p t, s.teardown c = some td → td.starter = .destroy p t → CarriesOn s p t .destroy
  teardownTags : ∀ c d tc td p t, s.teardown c = some tc → s.teardown d = some td →
    tc.starter = .destroy p t → td.starter = .destroy p t → c = d
  binds : ∀ p c t, (s.port p).binding = .switching c t → CarriesOn s p t .bind

/-- The laws of all four ports' tables, and of the requests that their control slots carry on. -/
structure PortTables (s : State) : Prop where
  port : ∀ p, PortLaw p (s.port p)
  carried : Carried s

/-! ## Nothing due -/

/-- Nothing that an event makes happen at once is left over: no withdrawal with an empty drain set (R99), no turn or departure
whose wait is over (R41, R87), no teardown step with nothing to wait for (R39, R41), no port teardown whose wait has ended
(R166, R167). -/
structure Settled (s : State) : Prop where
  drains : ∀ w ∈ s.withdrawals, w.drain ≠ []
  turns : ∀ c, turnDue s c = false
  steps : ∀ c, stepDue s c = false
  ports : ∀ p, portDue s p = false

/-! ## The law of holdings -/

/-- The step of a teardown has passed step 4's start: entries invalidated, loads ended. -/
def pastLoads : TeardownStep → Bool
  | .offers => false
  | .loads => false
  | _ => true

/-- The withdrawal is of a co-holder: a LEAVE, a REVOKE or an origin departure asked for it (R91). -/
def ofCoHolder : Requester → Bool
  | .leave _ _ => true
  | .revoke _ _ => true
  | .departure _ => true
  | _ => false

/-- The load queue: at most four loads, each with descriptors left to apply; the queued ones have applied none and carry no
stop request (R138, R147); the engine is IDLE exactly where the queue is empty (R141), and a stop request on the running load
waits for an outstanding read only (R148). -/
structure LoadLaw (s : State) : Prop where
  length : s.loadQueue.length ≤ Config.loadQueueSize
  counts : ∀ r ∈ s.loadQueue, r.next < r.count ∧ r.count ≤ 128
  queued : ∀ r ∈ s.loadQueue.tail, r.next = 0 ∧ r.stop = none
  idle : s.load = .idle ↔ s.loadQueue = []
  ready : s.load = .ready → ∀ r, s.loadQueue.head? = some r → r.stop = none

/-- The step 5 of a teardown has begun: step 4 has drained the context's accesses (R40, R41). -/
def pastDrain : TeardownStep → Bool
  | .frames => true
  | .turn _ => true
  | .departure _ => true
  | _ => false

/-- The withdrawal is that of a RELEASE. -/
def ofRelease : Requester → Bool
  | .release _ _ => true
  | _ => false

/-- Port `p` holds in slot `i` a transit entry of context `c` that names frame `f`. -/
def InTransit (s : State) (p : Port) (i : Slot) (c : Ctx) (f : Frame) : Prop :=
  ∃ e, ((s.port p).slot i).entry = some e ∧ e.ctx = c ∧ e.frame = f

/-- The holdings, and the map entries, the accesses in transit and the withdrawals that rest on them. -/
structure Holding (s : State) : Prop where
  /-- Holders stand on HELD frames only, and each HELD frame has some, none repeated (R2). -/
  holders : ∀ f, ((s.frame f).state = .held ↔ (s.frame f).holders ≠ []) ∧ ((s.frame f).holders.map Holder.ctx).Nodup
  /-- The origin of a frame holds READ_WRITE (R2). -/
  origins : ∀ f h, (s.frame f).holders.head? = some h → h.rights = .readWrite
  /-- A valid entry rests on a holding without withdrawing flag, with rights not exceeding its rights (R47). -/
  entries : ∀ c g e, s.entry c g = some e →
    (s.frame e.frame).state = .held ∧
      ∃ h ∈ (s.frame e.frame).holders, h.ctx = c ∧ h.withdrawing = false ∧ exceeds e.rights h.rights = false
  /-- A pending offer is of the frame's origin to a context that is no holder, and no two are alike (R66). -/
  offers : ∀ i o, s.offer i = some o →
    originOf (s.frame o.frame).holders = some o.offerer ∧ holds (s.frame o.frame).holders o.target = false ∧
      ∀ j o', s.offer j = some o' → o'.frame = o.frame → o'.target = o.target → j = i
  /-- A teardown is of a pooled context in TEARDOWN, or of the home context in its port's teardown (R37, R44). -/
  teardowns : ∀ c, (s.teardown c).isSome = true →
    match homePort c with
    | none => (s.ctx c).state = .teardown
    | some p => (s.port p).state = .teardown (.contexts c)
  /-- A teardown that a DESTROY started is of a pooled context of its port, and a port's teardown tears down contexts of the
  port (R33, R44). -/
  starters : ∀ c td, s.teardown c = some td →
    match td.starter with
    | .destroy p _ => homePort c = none ∧ (s.ctx c).owner = some p
    | .portReset p => (s.ctx c).owner = some p
  /-- From the end of step 2 no offer is from the context (R38). -/
  noOffers : ∀ c td, s.teardown c = some td → td.step ≠ .offers → ∀ i o, s.offer i = some o → o.offerer ≠ c
  /-- From step 4 on the context has no valid entry and no load (R39, R40). -/
  noEntries : ∀ c td, s.teardown c = some td → pastLoads td.step = true →
    (∀ g, s.entry c g = none) ∧ loadTargets s c = false
  /-- While step 3 waits, the one load that targets the context is the running one, and it carries a stop request (R39,
  R149). -/
  stopping : ∀ c st, s.teardown c = some ⟨st, .loads⟩ → ∀ r rest, s.loadQueue = r :: rest →
    (∀ x ∈ rest, x.target ≠ c) ∧ (r.target = c → r.stop ≠ none)
  /-- From step 5 on the context has no access in transit (R40). -/
  drained : ∀ c td, s.teardown c = some td → pastDrain td.step = true → ∀ p i f, ¬ InTransit s p i c f
  /-- In an origin departure without candidate the departing origin's record is the flagged first one (R87). -/
  departures : ∀ c st f, s.teardown c = some ⟨st, .departure f⟩ →
    ∃ h, (s.frame f).holders.head? = some h ∧ h.ctx = c ∧ h.withdrawing = true
  /-- A co-holder under withdrawal is a co-holder with its flag set (R91, R99). -/
  flagged : ∀ w ∈ s.withdrawals, ofCoHolder w.requester = true → ∀ f, w.frame = some f →
    ∃ h ∈ (s.frame f).holders.tail, h.ctx = w.ctx ∧ h.withdrawing = true
  /-- The withdrawal of a context teardown is step 4's (R40). -/
  drains : ∀ w ∈ s.withdrawals, w.requester = .teardown →
    w.frame = none ∧ ∃ st, s.teardown w.ctx = some ⟨st, .drain⟩
  /-- Every other withdrawal is of FRAME kind, and no two records have the same context and frame (R90, R91). -/
  records : (∀ w ∈ s.withdrawals, w.requester ≠ .teardown → w.frame.isSome = true) ∧
    (s.withdrawals.map fun w => (w.ctx, w.frame)).Nodup
  /-- The withdrawal of a RELEASE is of a frame in RECLAIM, and is the frame's only one (R15, R16). -/
  releases : ∀ w ∈ s.withdrawals, ofRelease w.requester = true → ∀ f, w.frame = some f →
    (s.frame f).state = .reclaim ∧ ∀ w' ∈ s.withdrawals, w'.frame = some f → w' = w
  /-- A drain set holds exactly the accesses in transit that its withdrawal is of (R94, R96). -/
  drainSets : ∀ w ∈ s.withdrawals, ∀ p i,
    (p, i) ∈ w.drain ↔ ∃ f, InTransit s p i w.ctx f ∧ (w.frame = none ∨ w.frame = some f)
  /-- An access in transit names a frame that its context holds, withdrawing or not, or a frame in RECLAIM under the RELEASE by
  its context, whose drain set holds it (R122). -/
  transit : ∀ p i c f, InTransit s p i c f →
    ((s.frame f).state = .held ∧ ∃ h ∈ (s.frame f).holders, h.ctx = c) ∨
      ((s.frame f).state = .reclaim ∧ ∃ w ∈ s.withdrawals,
        ofRelease w.requester = true ∧ w.ctx = c ∧ w.frame = some f ∧ (p, i) ∈ w.drain)
  /-- The bound context of a port, and the target of its switch, are LIVE and owned by the port (R157). -/
  bindings : ∀ p, ((s.ctx (s.port p).bound).state = .live ∧ (s.ctx (s.port p).bound).owner = some p) ∧
    ∀ c t, (s.port p).binding = .switching c t → (s.ctx c).state = .live ∧ (s.ctx c).owner = some p
  /-- The load queue. -/
  loads : LoadLaw s

/-! ## The law of counts -/

/-- The counts that the blocks keep in step: map counts (R7), valid entry counts (R48), charged counts (R11), share counts
(R22) and pending offer counts (R9); with its pending offers a frame never has more than four places taken (R66); a FREE
context has no entries and stands in no holder list (R43). -/
structure CountLaw (s : State) : Prop where
  mapCount : ∀ f, (s.frame f).mapCount = entriesNaming s f
  validCount : ∀ c, (s.ctx c).validCount = entriesOf s c
  charged : ∀ c, (s.ctx c).charged = framesOriginated s c
  shareCount : ∀ c, (s.ctx c).shareCount = framesShared s c
  pendingOffers : ∀ f, (s.frame f).pendingOffers = offersOn s f
  places : ∀ f, (s.frame f).holders.length + (s.frame f).pendingOffers ≤ Config.holdersMax
  freeCtx : ∀ c, (s.ctx c).state = .free → entriesOf s c = 0 ∧ ∀ f, holds (s.frame f).holders c = false

/-- All the laws together. -/
structure Lawful (s : State) : Prop where
  lists : FrameLists s
  contexts : ContextLaw s
  ports : PortTables s
  holding : Holding s
  counts : CountLaw s
  settled : Settled s

end Sys2Proof.Machine
end

