-- ==== Sys2Proof/Certificates/Slice0/Obligations.lean ====
section
/-! DEFINITION. The statements for the provers, in the order of OBLIGATIONS.json. Where a statement applies `settle`, that is
what else falls due at the same event, with the event's notices placed at its end; how far one event reaches is the model's
reading (entries 4, 9 and 18). -/

open Sys2Proof Sys2Proof.Machine

/-! ## The machine -/

/-- One step runs the command at the front of the queue on the state with the queue's rest; on an empty queue the block idles
(the model's choice, entry 1). -/
def Obligations.StepRunsFrontCommand : Prop :=
  (∀ (c : Instr) (rest : List Instr) (s : State),
    step { s with pending := c :: rest } = exec c { s with pending := rest }) ∧
  ∀ s : State, s.pending = [] → step s = .next s

/-- What the part has sent is never taken back: each step only appends to the response streams and the memory requests. That
what was sent is kept in lists that grow is the model's own recording (entry 5). -/
def Obligations.OutputsOnlyGrow : Prop :=
  ∀ s t : State, step s = .next t →
    s.memoryRequests <+: t.memoryRequests ∧
    ∀ p, (s.port p).accessResponses <+: (t.port p).accessResponses ∧
      (s.port p).controlResponses <+: (t.port p).controlResponses

/-- Every command completes in every state: the part has no fault that stops it (entry 21), and a command whose event does not
arise has no effect (entry 2). -/
def Obligations.EveryCommandCompletes : Prop :=
  ∀ (c : Instr) (s : State), ∃ t, exec c s = .next t

/-! ## Device reset -/

/-- RST_N_ASSERT: the accesses waiting at the lanes are answered OFFLINE, and every block takes its reset contents, the ports
DOWN and the engines idle; the two engines' generations and what was delivered before stay. The quotas keep the straps' row
sampled last (the model's choice, entry 8). -/
def Obligations.RstNAssertResets : Prop :=
  ∀ s : State, s.rstAsserted = false → ∃ t, exec .rstNAssert s = .next t ∧
    t.rstAsserted = true ∧ HeldInReset t ∧ t.part = s.part ∧ t.writeGen = s.writeGen ∧ t.readGen = s.readGen ∧
    t.memoryRequests = s.memoryRequests ∧
    (∀ f, t.frame f = ⟨.scrub, [], 0, false, 0⟩) ∧ t.freeList = [] ∧ t.scrubQueue = List.finRange 4096 ∧
    (∀ c, t.teardown c = none ∧ ∀ g, t.entry c g = none) ∧ (∀ i, t.offer i = none) ∧ t.nextSerial = 0 ∧
    t.withdrawals = [] ∧ t.loadQueue = [] ∧
    ∀ p, (t.port p).state = .down ∧ (t.port p).slots = [] ∧ (t.port p).notices = [] ∧
      (t.port p).prst = (s.port p).prst ∧ (t.port p).controlResponses = (s.port p).controlResponses ∧
      ∃ l, (t.port p).accessResponses = (s.port p).accessResponses ++ l ∧
        l.Perm (((s.port p).plainLane ++ (s.port p).elevatedLane).map fun a => ⟨a.tag, .offline⟩)

/-- RST_N_RELEASE: the straps are sampled and set the home quotas by the table of the straps; the tables hold their reset
contents, the scrub engine is READY on frame 0, a port is UP, or in phase ENDED of its teardown where its PRST_N stands
asserted. -/
def Obligations.RstNReleaseStarts : Prop :=
  ∀ (part : BitVec 2) (s : State), s.rstAsserted = true →
    let quota (c : Ctx) : Nat :=
      if part = 0 then 1024
      else if part = 1 then (if c = 0 then 2048 else if c = 1 then 1024 else 512)
      else if part = 2 then (if c = 0 then 3072 else if c = 1 then 512 else 256)
      else (if c = 0 then 4096 else 0)
    ∃ t, exec (.rstNRelease part) s = .next t ∧
    t.rstAsserted = false ∧ t.part = part ∧ t.usTicks = 0 ∧ t.msTicks = 0 ∧
    (∀ f, t.frame f = ⟨.scrub, [], 0, false, 0⟩) ∧ t.freeList = [] ∧ t.scrubQueue = List.finRange 4096 ∧
    (∀ c, t.ctx c = if h : c.val < 4 then ⟨.live, some ⟨c.val, h⟩, 15, quota c, 0, 0, 0⟩
      else ⟨.free, none, 0, 0, 0, 0, 0⟩) ∧
    (∀ c, t.teardown c = none ∧ ∀ g, t.entry c g = none) ∧ (∀ i, t.offer i = none) ∧ t.nextSerial = 0 ∧
    t.withdrawals = [] ∧ t.loadQueue = [] ∧ t.load = .idle ∧ t.scrub = .ready 0 0 ∧ t.pointer = .port 0 ∧
    t.writeGen = s.writeGen ∧ t.readGen = s.readGen ∧ t.memoryRequests = s.memoryRequests ∧
    ∀ p, t.port p = { PortRec.reset .up p (s.port p).prst (s.port p).accessResponses (s.port p).controlResponses with
      state := if (s.port p).prst then .teardown .ended else .up }

/-! ## Port reset -/

/-- PRST_N_ASSERT in every state. Of a line that stands asserted: nothing (the model's reading, entry 2). In DOWN and TEARDOWN
only the line's level changes. In UP the notices are dropped, the home context is bound and SETTLED, the accesses waiting at the
lanes are answered OFFLINE and the last lane is plain, WAITING requests and a waiting BIND end with no response, every other
request is marked discarding, the loads of the port are ended, and what is due at the event follows; no control response is
sent and the port's transit entries stay as they are. In a lawful state every ACTIVE request but a BIND or a MAP_LOAD stands
after it with the mark; a load of the port is gone and its slot FREE, but for a running one whose read is outstanding, which
carries a stop request; and the phase is LOADS while such a one runs, else CONTEXTS at the lowest pooled context of the port,
else CONTEXTS at the home context or, where its teardown ended at the event, ENDED. -/
def Obligations.PrstNAssertStartsTeardown : Prop :=
  ∀ (p : Port) (s : State),
    ((s.port p).prst = true → exec (.prstNAssert p) s = .next s) ∧
    ((s.port p).prst = false → (s.port p).state ≠ .up →
      exec (.prstNAssert p) s = .next (withPort s p { s.port p with prst := true })) ∧
    EndsLoads s (endLoadsOfPort s p) (fun r => r.port == p) .portReset ∧
    ((s.port p).prst = false → (s.port p).state = .up → ∃ l k t,
      exec (.prstNAssert p) s = .next t ∧
      l.Perm (((s.port p).plainLane ++ (s.port p).elevatedLane).map fun a => (⟨a.tag, .offline⟩ : AccessResponse)) ∧
      t = settle (endLoadsOfPort
        { withPort s p { s.port p with
            prst := true
            state := .teardown .loads
            notices := []
            dropped := 0
            arriving := []
            bound := homeOf p
            binding := .settled
            lastLane := .plain
            plainLane := []
            elevatedLane := []
            accessResponses := (s.port p).accessResponses ++ l
            slots := ((s.port p).slots.filter fun q => q.standing == .active && q.kind != .bind).map fun q =>
              { q with discard := true } } with
          choices := k } p) ∧
      (t.port p).prst = true ∧
      (t.port p).notices = [] ∧ (t.port p).dropped = 0 ∧
      (t.port p).bound = homeOf p ∧ (t.port p).binding = .settled ∧ (t.port p).lastLane = .plain ∧
      (t.port p).plainLane = [] ∧ (t.port p).elevatedLane = [] ∧
      (t.port p).accessResponses = (s.port p).accessResponses ++ l ∧
      (t.port p).controlResponses = (s.port p).controlResponses ∧
      (∀ q ∈ (t.port p).slots, q.discard = true ∧ q.standing = .active ∧ q.kind ≠ .bind ∧
        ∃ q0 ∈ (s.port p).slots, q = { q0 with discard := true }) ∧
      (t.port p).transit = (s.port p).transit ∧ (t.port p).issueQueue = (s.port p).issueQueue ∧
      (t.port p).plainCount = (s.port p).plainCount ∧ t.memoryRequests = s.memoryRequests ∧
      (Lawful s →
        let reading (r : LoadRec) : Bool := s.loadQueue.head? == some r && s.load != .ready
        let pooledLeft := (List.finRange 16).find? fun c =>
          4 ≤ c.val && (s.ctx c).owner == some p && ((s.ctx c).state == .live || (s.teardown c).isSome)
        (∀ q ∈ (s.port p).slots, q.standing = .active → q.kind ≠ .bind → q.kind ≠ .mapLoad →
          { q with discard := true } ∈ (t.port p).slots) ∧
        (∀ r ∈ s.loadQueue, r.port = p →
          if reading r = true then
            t.loadQueue.head? = some { r with stop := some (r.stop.getD .portReset) } ∧
              (slotOf (t.port p) r.tag).map ControlSlot.kind = some .mapLoad
          else (∀ x ∈ t.loadQueue, ¬ (x.port = p ∧ x.tag = r.tag)) ∧ slotOf (t.port p) r.tag = none) ∧
        (t.port p).state = .teardown (
          if s.loadQueue.any (fun r => r.port == p && reading r) = true then .loads
          else
            match pooledLeft with
            | some c => .contexts c
            | none => if t.teardown (homeOf p) = none then .ended else .contexts (homeOf p))))

/-- PRST_N_DEASSERT: a port in phase ENDED returns to UP; otherwise only the line's level changes. -/
def Obligations.PrstNDeassertEnds : Prop :=
  ∀ (p : Port) (s : State), (s.port p).prst = true →
    exec (.prstNDeassert p) s = .next (withPort s p { s.port p with
      prst := false
      state := if (s.port p).state = .teardown .ended then .up else (s.port p).state })

/-- The three rows of port teardown, at a port whose wait is over while nothing else is due: phase LOADS ends with the last
load, and the next pooled context of the port, LIVE, enters TEARDOWN, or, already in teardown, is waited for, or, with no
pooled context left, the home context is emptied from step 2 on; the teardown of a pooled context ends likewise; that of the
home context ends the port teardown, in UP or, while PRST_N is asserted, in phase ENDED. The event's notices are placed at its
end: there are none in a state that keeps the ports' law (entry 18). -/
def Obligations.PortTeardownGoesOn : Prop :=
  ∀ (p : Port) (s : State),
    (∀ w ∈ s.withdrawals, w.drain ≠ []) → (∀ c, turnDue s c = false ∧ stepDue s c = false) →
    (∀ q, q ≠ p → portDue s q = false) →
    let enters (c : Ctx) : State :=
      if (s.ctx c).state = .live then
        { withCtx (withPort s p { s.port p with state := .teardown (.contexts c) }) c
            { s.ctx c with state := .teardown } with
          teardowns := s.teardowns.set c (some ⟨.portReset p, .offers⟩) }
      else withPort s p { s.port p with state := .teardown (.contexts c) }
    let entersHome : State :=
      settle (cancelThenEndLoads (withPort s p { s.port p with state := .teardown (.contexts (homeOf p)) }) (homeOf p)
        (.portReset p))
    ((s.port p).state = .teardown .loads → (∀ r ∈ s.loadQueue, r.port ≠ p) →
      exec (.portTeardownLoadsEnd p) s =
        .next (match nextPooled s p with | some c => placeNotices (enters c) | none => entersHome)) ∧
    (∀ d, (s.port p).state = .teardown (.contexts d) → d ≠ homeOf p → s.teardown d = none →
      exec (.portTeardownNextContext p) s =
        .next (match nextPooled s p with | some c => placeNotices (enters c) | none => entersHome)) ∧
    ((s.port p).state = .teardown (.contexts (homeOf p)) → s.teardown (homeOf p) = none →
      exec (.portTeardownEnd p) s = .next (placeNotices (withPort s p { s.port p with
        state := if (s.port p).prst then .teardown .ended else .up })))

/-! ## The control channel and the notices -/

/-- CONTROL_REQUEST_ARRIVAL: OFFLINE at a port that is not UP, else the checks of admission in their order; an admitted
request takes a slot, WAITING, with its acting classes; nothing else is changed. -/
def Obligations.ControlRequestAdmission : Prop :=
  ∀ (p : Port) (m : ControlMessage) (s : State),
    let r := s.port p
    let tag := messageTag m
    let classes : Classes := if m.tagMode.getLsbD 4 then 15 else (s.ctx r.bound).classes
    let say (v : Verdict) : State :=
      withPort s p { r with controlResponses := r.controlResponses ++ [[m.kind, byteOf tag.val, v.code, 4]] }
    let admitted (k : RequestKind) : State :=
      withPort s p { r with slots := r.slots ++ [⟨tag, k, m.operands, classes, .waiting, false⟩] }
    exec (.controlRequestArrival p m) s = .next (
      if r.state ≠ .up then say .offline
      else
        match kindOfCode m.kind with
        | none => say .malformed
        | some k =>
          if m.length.toNat ≠ requestLength k then say .malformed
          else if reservedClear k m = false then say .malformed
          else if 4 ≤ r.slots.length then say .backlog
          else if r.slots.any (fun q => q.tag == tag) then say .tagInUse
          else
            match requestClass k with
            | none => admitted k
            | some cl => if cl &&& classes = cl then admitted k else say .noRight)

/-- The request codes of 11.2 name the 21 kinds, each one, with the message length and the class of each; and operand fields
at their offsets, little-endian: contexts at bytes 4 and 5, a tag or an offer id, a set of classes or a number at byte 4, a page
or a number at byte 5, a frame, a serial or a number at bytes 6-7, rights at byte 8, numbers at bytes 8-9 and 10-11, a stamp at
bytes 12-15. -/
def Obligations.RequestFormsOfTheTable : Prop :=
  (∀ (b : Byte) (k : RequestKind), kindOfCode b = some k ↔ b = k.code) ∧
  (∀ k : RequestKind, (k.code.toNat, requestLength k, requestClass k) ∈
    [(0x01, 8, some 1), (0x02, 8, some 1), (0x03, 8, none), (0x04, 4, none), (0x10, 8, some 8), (0x11, 8, some 8),
      (0x12, 8, some 8), (0x13, 8, none), (0x14, 8, some 8), (0x20, 12, some 4), (0x21, 8, some 4), (0x22, 8, none),
      (0x23, 16, some 4), (0x24, 8, some 4), (0x30, 12, some 2), (0x31, 8, some 2), (0x32, 8, some 2),
      (0x33, 8, some 2), (0x34, 8, some 2), (0x35, 8, some 2), ((0x40 : Nat), (8 : Nat), (none : Option Classes))]) ∧
  (∀ (c d : Ctx) (f : Frame) (g : Page) (r : Rights) (n : BitVec 16) (tail : List Byte),
    operandCtx ([ctxCode c, ctxCode d] ++ le16 f.val ++ tail) 4 = some c ∧
    operandCtx ([ctxCode c, ctxCode d] ++ le16 f.val ++ tail) 5 = some d ∧
    operandPage ([ctxCode c, byteOf g.val] ++ le16 f.val ++ tail) 5 = some g ∧
    operandFrame ([ctxCode c, ctxCode d] ++ le16 f.val ++ tail) 6 = some f ∧
    operandRights ([ctxCode c, ctxCode d] ++ le16 f.val ++ [r.code] ++ tail) 8 = some r ∧
    operandWord ([ctxCode c, ctxCode d] ++ le16 n.toNat ++ tail) 6 = n.toNat ∧
    operandSerial ([byteOf c.val, 0] ++ le16 n.toNat ++ tail) 6 = n) ∧
  (∀ (b4 b5 b6 b7 b8 b9 b10 b11 b12 b13 b14 b15 : Byte) (i : Tag) (classes : Classes) (n : BitVec 16) (tail : List Byte),
    operandTag (byteOf i.val :: tail) 4 = some i ∧
    operandClasses (classes.setWidth 8 :: tail) 4 = classes ∧
    operandByte (b4 :: b5 :: tail) 4 = b4.toNat ∧ operandByte (b4 :: b5 :: tail) 5 = b5.toNat ∧
    operandWord ([b4, b5, b6, b7] ++ le16 n.toNat ++ tail) 8 = n.toNat ∧
    operandWord ([b4, b5, b6, b7, b8, b9] ++ le16 n.toNat ++ tail) 10 = n.toNat ∧
    operandStamp ([b4, b5, b6, b7, b8, b9, b10, b11, b12, b13, b14, b15] ++ tail) 12 = b15 ++ b14 ++ b13 ++ b12)

/-- A request whose operands are out of the ranges of their fields is refused BAD_OPERAND with no results, whatever its kind,
and nothing else is changed. -/
def Obligations.OperandsOutOfRangeRefused : Prop :=
  ∀ (k : RequestKind) (s : State) (p : Port) (t : Tag) (q : ControlSlot),
    Requested s p t k q → operandsOutOfRange k q.operands = true →
      exec (commandOf k p t) s = .next (answer s p t k .badOperand [])

/-- The response to an outstanding request frees its slot; it is sent, unless the slot carries the discard mark or the port is
not UP; nothing else is changed. -/
def Obligations.ResponseFreesSlot : Prop :=
  ∀ (s : State) (p : Port) (t : Tag) (q : ControlSlot) (v : Verdict) (results : List Byte),
    slotOf (s.port p) t = some q →
      respond s p t v results =
        if q.discard = true ∨ (s.port p).state ≠ .up then
          withPort s p { s.port p with slots := (s.port p).slots.filter fun x => x.tag != t }
        else answer s p t q.kind v results

/-- A notice addressed to a port is placed at the tail of its queue; with 16 records there it is counted as dropped, up to
255; at a port that is not UP it is discarded uncounted; nothing else is changed, and every record has 16 bytes. Where one event
addresses several to a port that is UP they are kept as addressed, and at the event's end placed in order: faults of accesses,
then the notices of end steps as they were taken (those of a teardown's turns among them, the model's choice, entry 18), then
the offer table's in ascending offer id; a queue that becomes full keeps the earlier ones and the later are counted as
dropped. -/
def Obligations.NoticePlacedAtTail : Prop :=
  (∀ (s : State) (p : Port),
    let r := s.port p
    let rank (n : Notice) : Nat :=
      match n with
      | .accessFault _ _ _ _ => 0
      | .memoryFault _ _ _ _ => 0
      | .offerArrived i _ _ _ _ _ _ => 2 + i.val
      | .offerEnded i _ _ _ => 2 + i.val
      | .shareLost _ _ _ => 1
      | .shareLeft _ _ => 1
      | .originInherited _ _ => 1
      | .quotaReceived _ _ _ => 1
    let inOrder := (List.range 18).flatMap fun k => r.arriving.filter fun n => rank n == k
    let room := 16 - r.notices.length
    { placeNotices s with ports := s.ports } = s ∧
    (placeNotices s).port p =
      if r.state ≠ .up then { r with arriving := [] }
      else
        { r with
          arriving := []
          notices := r.notices ++ (inOrder.take room).map Notice.record
          dropped := if inOrder.length ≤ room then r.dropped else min 255 (r.dropped + (inOrder.length - room)) }) ∧
  ∀ (s : State) (p : Port) (n : Notice),
    notify s p n =
      (if (s.port p).state = .up then withPort s p { s.port p with arriving := (s.port p).arriving ++ [n] } else s) ∧
    n.record.length = 16 ∧
    address s p n =
      if (s.port p).state ≠ .up then s
      else if (s.port p).notices.length < 16 then
        withPort s p { s.port p with notices := (s.port p).notices ++ [n.record] }
      else withPort s p { s.port p with dropped := min 255 ((s.port p).dropped + 1) }

/-- FETCH_NOTICES with n from 1 to 4: the min(n, length) oldest records leave the queue and are the results with the number
left and the dropped count, which becomes 0. -/
def Obligations.FetchNoticesTakesOldest : Prop :=
  ∀ (s : State) (p : Port) (t : Tag) (q : ControlSlot),
    Requested s p t .fetchNotices q →
      let n := operandByte q.operands 4
      let r := s.port p
      exec (.fetchNotices p t) s = .next (
        if n < 1 ∨ 4 < n then answer s p t .fetchNotices .badOperand []
        else
          answer (withPort s p { r with notices := r.notices.drop n, dropped := 0 }) p t .fetchNotices .done
            ([byteOf (min n r.notices.length), byteOf (r.notices.length - n), byteOf r.dropped, 0]
              ++ (r.notices.take n).flatten))

/-! ## The frame table -/

/-- CLAIM by its checks in their order: a refusal changes nothing else; else the first n frames of the free list become HELD
by the context alone, which is charged n, and their numbers are the results. -/
def Obligations.ClaimTakesFreeListHead : Prop :=
  ∀ (s : State) (p : Port) (t : Tag) (q : ControlSlot) (c : Ctx),
    Requested s p t .claim q → operandCtx q.operands 4 = some c →
      let n := operandByte q.operands 5
      ∃ u, exec (.claim p t) s = .next u ∧
        if n < 1 ∨ 8 < n then u = answer s p t .claim .badOperand []
        else if (s.ctx c).owner ≠ some p then u = answer s p t .claim .notOwner []
        else if (s.ctx c).state ≠ .live then u = answer s p t .claim .notLive []
        else if (s.ctx c).quota - (s.ctx c).charged < n then
          u = answer s p t .claim .overQuota (le16 ((s.ctx c).quota - (s.ctx c).charged) ++ [0, 0])
        else if s.freeList.length < n then
          u = answer s p t .claim .noFrames (le16 s.freeList.length ++ le16 s.scrubQueue.length)
        else
          (∀ f, u.frame f =
            if f ∈ s.freeList.take n then
              { s.frame f with state := .held, holders := [⟨c, .readWrite, false⟩], mapCount := 0, pendingOffers := 0 }
            else s.frame f) ∧
          u.framesOf s =
            answer { withCtx s c { s.ctx c with charged := (s.ctx c).charged + n } with freeList := s.freeList.drop n }
              p t .claim .done
              ([byteOf n, 0, 0, 0] ++ (s.freeList.take n).flatMap fun f => [byteOf f.val, byteOf (f.val / 256)])

/-- RELEASE by its checks in their order: each refusal changes nothing else. -/
def Obligations.ReleaseRefused : Prop :=
  ∀ (s : State) (p : Port) (t : Tag) (q : ControlSlot) (c : Ctx) (f : Frame),
    Requested s p t .release q → operandCtx q.operands 4 = some c → operandFrame q.operands 6 = some f →
      (releaseRefusal s p c f).elim True fun v => exec (.release p t) s = .next (answer s p t .release v [])

/-- RELEASE accepted: before what is due at the event is taken, the frame is in RECLAIM with no holder and no pending offer,
the context's charged count is lower by 1, its entries naming the frame are invalid, the frame's offers are gone and the
target's owner port is told of each, the withdrawal is on the list with the context's transit entries on the frame as its
drain set, and the slot is ACTIVE. -/
def Obligations.ReleaseAccepted : Prop :=
  ∀ (s : State) (p : Port) (t : Tag) (q : ControlSlot) (c : Ctx) (f : Frame),
    Requested s p t .release q → operandCtx q.operands 4 = some c → operandFrame q.operands 6 = some f →
    releaseRefusal s p c f = none →
      let k := count fun g => (s.entry c g).map MapEntry.frame == some f
      ∃ v, exec (.release p t) s = .next (settle v) ∧
        v.frame f = ⟨.reclaim, [], (s.frame f).mapCount - k, (s.frame f).errorMark, 0⟩ ∧
        (∀ f', f' ≠ f → v.frame f' = s.frame f') ∧
        v.ctx c = { s.ctx c with charged := (s.ctx c).charged - 1, validCount := (s.ctx c).validCount - k } ∧
        (∀ d, d ≠ c → v.ctx d = s.ctx d) ∧
        (∀ d g, v.entry d g = if d = c ∧ (s.entry c g).map MapEntry.frame = some f then none else s.entry d g) ∧
        (∀ i, v.offer i = if (s.offer i).map OfferRec.frame = some f then none else s.offer i) ∧
        v.ports = ((List.finRange 16).foldl (fun u i =>
          match s.offer i with
          | some o => if o.frame = f then notifyOwner u o.target (.offerEnded i o.serial f .cancelled) else u
          | none => u) (carriedOn s p t)).ports ∧
        v.withdrawals = s.withdrawals ++ [⟨c, some f, .release p t, drainSet s c (some f)⟩] ∧
        { v with
          frames := s.frames
          contexts := s.contexts
          maps := s.maps
          offers := s.offers
          ports := s.ports
          withdrawals := s.withdrawals } = s

/-- FRAME_INFO: the whole record to a port that owns a holder of a HELD frame, the state alone to any other; and DEVICE_INFO:
the figures of the tables. Neither changes anything else. That the figures of every block are read at the one event is the
model's choice (entry 14). -/
def Obligations.FrameAndDeviceInfoReport : Prop :=
  (∀ (s : State) (p : Port) (t : Tag) (q : ControlSlot) (f : Frame),
    Requested s p t .frameInfo q → operandFrame q.operands 6 = some f →
      exec (.frameInfo p t) s = .next (
        if (s.frame f).state = .held ∧ ∃ h ∈ (s.frame f).holders, (s.ctx h.ctx).owner = some p then
          answer s p t .frameInfo .done
            ([1, byteOf (s.frame f).holders.length] ++ le16 (s.frame f).mapCount ++
              [flagByte (s.frame f).errorMark, byteOf (s.frame f).pendingOffers, 0, 0] ++
              (s.frame f).holders.flatMap fun h => [ctxCode h.ctx, h.rights.code, flagByte h.withdrawing, 0])
        else answer s p t .frameInfo .notHolder [(s.frame f).state.code, 0, 0, 0])) ∧
  (∀ (s : State) (p : Port) (t : Tag) (q : ControlSlot),
    Requested s p t .deviceInfo q →
      let in' (st : FrameState) : List Byte := le16 (count fun f => (s.frame f).state == st)
      exec (.deviceInfo p t) s = .next (answer s p t .deviceInfo .done
        (in' .free ++ in' .held ++ in' .reclaim ++ in' .scrub ++ in' .retired ++ le16 s.freeList.length
          ++ le16 s.scrubQueue.length ++ [byteOf (count fun i => (s.offer i).isSome), byteOf s.loadQueue.length]
          ++ le16 s.nextSerial.toNat ++ [0, 0])))

/-! ## The context table -/

/-- CREATE by its checks in their order; else the lowest-numbered FREE pooled context becomes LIVE, owned by the port, with
the operand's classes and every count 0, and its id is the result. -/
def Obligations.CreateTakesLowestFreeContext : Prop :=
  ∀ (s : State) (p : Port) (t : Tag) (q : ControlSlot),
    Requested s p t .create q →
      let classes := operandClasses q.operands 4
      exec (.create p t) s = .next (
        if classes &&& q.classes ≠ classes then answer s p t .create .noRight []
        else
          match (List.finRange 16).find? fun c => 4 ≤ c.val && (s.ctx c).state == .free with
          | none => answer s p t .create .noContext []
          | some c =>
            answer (withCtx s c ⟨.live, some p, classes, 0, 0, 0, 0⟩) p t .create .done [byteOf c.val, 0, 0, 0])

/-- DESTROY by its checks in their order; else the context enters TEARDOWN, its teardown stands before step 2, and the slot is
ACTIVE with no response. -/
def Obligations.DestroyStartsTeardown : Prop :=
  ∀ (s : State) (p : Port) (t : Tag) (q : ControlSlot) (c : Ctx),
    Requested s p t .destroy q → operandCtx q.operands 4 = some c →
      exec (.destroy p t) s = .next (
        if c.val < 4 then answer s p t .destroy .badOperand []
        else if (s.ctx c).owner ≠ some p then answer s p t .destroy .notOwner []
        else if (s.ctx c).state ≠ .live then answer s p t .destroy .notLive []
        else if (s.port p).bound = c ∨ ∃ u, (s.port p).binding = .switching c u then answer s p t .destroy .inUse []
        else
          { withCtx (carriedOn s p t) c { s.ctx c with state := .teardown } with
            teardowns := s.teardowns.set c (some ⟨.destroy p t, .offers⟩) })

/-- CEDE by its checks in their order; else n moves from the one quota to the other, QUOTA_RECEIVED is addressed to the
target's owner port where that is another port, and both quotas are the results. -/
def Obligations.CedeMovesQuota : Prop :=
  ∀ (s : State) (p : Port) (t : Tag) (q : ControlSlot) (a b : Ctx),
    Requested s p t .cede q → operandCtx q.operands 4 = some a → operandCtx q.operands 5 = some b →
      let n := operandWord q.operands 6
      exec (.cede p t) s = .next (
        if n < 1 ∨ 4096 < n then answer s p t .cede .badOperand []
        else if b = a then answer s p t .cede .badOperand []
        else if (s.ctx a).owner ≠ some p then answer s p t .cede .notOwner []
        else if (s.ctx a).state ≠ .live then answer s p t .cede .notLive []
        else if (s.ctx b).state ≠ .live then answer s p t .cede .notLive []
        else if (s.ctx a).quota - (s.ctx a).charged < n then
          answer s p t .cede .overQuota (le16 ((s.ctx a).quota - (s.ctx a).charged) ++ [0, 0])
        else
          let moved := withCtx (withCtx s a { s.ctx a with quota := (s.ctx a).quota - n }) b
            { s.ctx b with quota := (s.ctx b).quota + n }
          answer (if (s.ctx b).owner = some p then moved else addressOwner moved b (.quotaReceived a b n)) p t .cede .done
            (le16 ((s.ctx a).quota - n) ++ le16 ((s.ctx b).quota + n)))

/-- CONTEXT_INFO: the context's record and its binding at its owner port; nothing is changed. That the binding is read at the
one event is the model's choice (entry 14). -/
def Obligations.ContextInfoReportsRecord : Prop :=
  ∀ (s : State) (p : Port) (t : Tag) (q : ControlSlot) (c : Ctx),
    Requested s p t .contextInfo q → operandCtx q.operands 4 = some c →
      let x := s.ctx c
      let binding : Byte :=
        match x.owner with
        | none => 0
        | some o =>
          if (s.port o).bound = c then (if (s.port o).binding = .settled then 1 else 2)
          else if ∃ u, (s.port o).binding = .switching c u then 3 else 0
      exec (.contextInfo p t) s = .next (answer s p t .contextInfo .done
        ([x.state.code, ownerCode x.owner, x.classes.setWidth 8, binding] ++ le16 x.quota ++ le16 x.charged
          ++ le16 x.shareCount ++ [byteOf x.validCount, 0]))

/-- BIND by its checks in their order; else the three ways: bound already, bound at once where no plain entry is in transit,
or SWITCHING with the slot ACTIVE and no response. -/
def Obligations.BindInThreeWays : Prop :=
  ∀ (s : State) (p : Port) (t : Tag) (q : ControlSlot) (c : Ctx),
    Requested s p t .bind q → operandCtx q.operands 4 = some c →
      let r := s.port p
      exec (.bind p t) s = .next (
        if (s.ctx c).owner ≠ some p then answer s p t .bind .notOwner []
        else if (s.ctx c).state ≠ .live then answer s p t .bind .notLive []
        else if r.binding ≠ .settled then answer s p t .bind .busy []
        else if r.bound = c then answer s p t .bind .done [byteOf c.val, 0, 0, 0]
        else if r.plainCount = 0 then
          answer (withPort s p { r with bound := c }) p t .bind .done [byteOf r.bound.val, 0, 0, 0]
        else withPort s p { r.carriedOn t with binding := .switching c t })

/-! ## The map store -/

/-- MAP_SET by its checks in their order, the holding checks last; else the entry names the frame with the rights, the counts
of R7 and of the context follow, and the results are the entry before. -/
def Obligations.MapSetWritesEntry : Prop :=
  ∀ (s : State) (p : Port) (t : Tag) (q : ControlSlot) (c : Ctx) (g : Page) (f : Frame) (r : Rights),
    Requested s p t .mapSet q → operandCtx q.operands 4 = some c → operandPage q.operands 5 = some g →
    operandFrame q.operands 6 = some f → operandRights q.operands 8 = some r →
      let holder := (s.frame f).holders.find? fun h => h.ctx == c
      ∃ u, exec (.mapSet p t) s = .next u ∧
        if (s.ctx c).owner ≠ some p then u = answer s p t .mapSet .notOwner []
        else if (s.ctx c).state ≠ .live then u = answer s p t .mapSet .notLive []
        else if (s.frame f).state ≠ .held ∨ holder = none ∨ holder.map Holder.withdrawing = some true then
          u = answer s p t .mapSet .notHolder []
        else if r = .readWrite ∧ holder.map Holder.rights = some .read then
          u = answer s p t .mapSet .rightsExceeded []
        else
          let old := s.entry c g
          (∀ d h, u.entry d h = if d = c ∧ h = g then some ⟨f, r⟩ else s.entry d h) ∧
          (∀ k, u.frame k = { s.frame k with mapCount :=
            (s.frame k).mapCount - (if old.map MapEntry.frame = some k ∧ k ≠ f then 1 else 0)
              + (if k = f ∧ old.map MapEntry.frame ≠ some f then 1 else 0) }) ∧
          { u with frames := s.frames, maps := s.maps } =
            answer (if old = none then withCtx s c { s.ctx c with validCount := (s.ctx c).validCount + 1 } else s)
              p t .mapSet .done
              (match old with
                | some e => [1, 0] ++ le16 e.frame.val
                | none => [0, 0, 0, 0])

/-- MAP_CLEAR by its checks in their order; else the entry is invalid, the counts follow where it was valid, and the results
are the entry before. -/
def Obligations.MapClearInvalidatesEntry : Prop :=
  ∀ (s : State) (p : Port) (t : Tag) (q : ControlSlot) (c : Ctx) (g : Page),
    Requested s p t .mapClear q → operandCtx q.operands 4 = some c → operandPage q.operands 5 = some g →
      ∃ u, exec (.mapClear p t) s = .next u ∧
        if (s.ctx c).owner ≠ some p then u = answer s p t .mapClear .notOwner []
        else if (s.ctx c).state ≠ .live then u = answer s p t .mapClear .notLive []
        else
          let old := s.entry c g
          (∀ d h, u.entry d h = if d = c ∧ h = g then none else s.entry d h) ∧
          (∀ k, u.frame k = { s.frame k with mapCount :=
            (s.frame k).mapCount - (if old.map MapEntry.frame = some k then 1 else 0) }) ∧
          { u with frames := s.frames, maps := s.maps } =
            answer (if old = none then s else withCtx s c { s.ctx c with validCount := (s.ctx c).validCount - 1 })
              p t .mapClear .done
              (match old with
                | some e => [1, 0] ++ le16 e.frame.val
                | none => [0, 0, 0, 0])

/-- PROBE by its checks in their order; else the entry, with its frame's state and the context's holder rights; nothing else
is changed. -/
def Obligations.ProbeReadsEntry : Prop :=
  ∀ (s : State) (p : Port) (t : Tag) (q : ControlSlot) (c : Ctx) (g : Page),
    Requested s p t .probe q → operandCtx q.operands 4 = some c → operandPage q.operands 5 = some g →
      exec (.probe p t) s = .next (
        if (s.ctx c).owner ≠ some p then answer s p t .probe .notOwner []
        else if (s.ctx c).state ≠ .live then answer s p t .probe .notLive []
        else
          answer s p t .probe .done
            (match s.entry c g with
              | none => [0, 0, 0, 0]
              | some e =>
                [1, e.rights.code] ++ le16 e.frame.val ++ [(s.frame e.frame).state.code,
                  match (s.frame e.frame).holders.find? fun h => h.ctx == c with
                  | some h => h.rights.code
                  | none => 0, 0, 0]))

/-! ## The map loads -/

/-- MAP_LOAD by its checks in their order; else the load stands at the tail of the queue, READY at once where the queue was
empty, and the slot is ACTIVE with no response. -/
def Obligations.MapLoadJoinsQueue : Prop :=
  ∀ (s : State) (p : Port) (t : Tag) (q : ControlSlot) (c : Ctx) (f : Frame),
    Requested s p t .mapLoad q → operandCtx q.operands 4 = some c → operandFrame q.operands 6 = some f →
      let n := operandByte q.operands 5
      let at' := operandWord q.operands 8
      let held := (s.frame f).state = .held ∧ ∃ h ∈ (s.frame f).holders, h.ctx = c ∨ h.ctx = homeOf p
      exec (.mapLoad p t) s = .next (
        if at' % 8 ≠ 0 ∨ 8184 < at' ∨ n < 1 ∨ 128 < n ∨ 8192 < at' + 8 * n then answer s p t .mapLoad .badOperand []
        else if (s.ctx c).owner ≠ some p then answer s p t .mapLoad .notOwner []
        else if (s.ctx c).state ≠ .live then answer s p t .mapLoad .notLive []
        else if ¬ held then answer s p t .mapLoad .notHolder []
        else if 4 ≤ s.loadQueue.length then answer s p t .mapLoad .loadQueueFull []
        else
          { carriedOn s p t with
            loadQueue := s.loadQueue ++ [⟨p, t, c, f, at', n, operandStamp q.operands 12, 0, none⟩]
            load := if s.loadQueue = [] then .ready else s.load })

/-- LOAD_CANCEL of a tag that names no load of the port is refused; else it is answered DONE, and then a queued load is
removed and answered CANCELLED, a running one in READY ends CANCELLED with its count and the next begins, one whose read is
outstanding gets the stop request, and one with a stop request keeps that. That its own answer comes first is the model's
choice (entry 10). -/
def Obligations.LoadCancelEndsNamedLoad : Prop :=
  ∀ (s : State) (p : Port) (t : Tag) (q : ControlSlot) (u : Tag),
    Requested s p t .loadCancel q → operandTag q.operands 4 = some u →
      let named (r : LoadRec) : Prop := r.port = p ∧ r.tag = u
      let s1 := answer s p t .loadCancel .done []
      ((¬ ∃ r ∈ s.loadQueue, named r) →
        exec (.loadCancel p t) s = .next (answer s p t .loadCancel .badOperand [])) ∧
      ∀ r rest, s.loadQueue = r :: rest →
        (named r → exec (.loadCancel p t) s = .next (settle (
          if r.stop ≠ none then s1
          else if s.load ≠ .ready then { s1 with loadQueue := { r with stop := some .cancelled } :: rest }
          else runLoads (respond { s1 with loadQueue := rest, load := .idle } p u .cancelled
            [0, byteOf r.next, byteOf r.next, 0])))) ∧
        (¬ named r → (∃ x ∈ rest, named x) → exec (.loadCancel p t) s = .next (settle (
          respond { s1 with loadQueue := r :: rest.filter fun x => !(x.port == p && x.tag == u) } p u .cancelled
            [0, 0, 0, 0])))

/-- The end of a descriptor read, OK: the descriptor's tests in their order stop the load with their reason; else the
descriptor is applied, and the load ends DONE after its last one or goes on to the next start check; what falls due then is the
rest of the event (entry 4). A descriptor's bytes: a SET and a CLEAR of every page are read back, and one whose page byte is 128
or more, whose zero byte is not 0, whose action is 0 or 3, or that is a SET with rights 0 or 3, is none. -/
def Obligations.DescriptorReadIsJudged : Prop :=
  (∀ (b0 b1 b2 b3 : Byte) (g : Page) (f : Frame) (r : Rights) (low : Nat), low < 16384 →
    let setBits := 16384 + 4096 * r.code.toNat + f.val
    descriptorAction ([b0, b1, b2, b3, byteOf g.val, 0] ++ le16 setBits) = some (.set g ⟨f, r⟩) ∧
    descriptorAction ([b0, b1, b2, b3, byteOf g.val, 0] ++ le16 (32768 + low)) = some (.clear g)) ∧
  (∀ b0 b1 b2 b3 page zero b6 b7 : Byte,
    let action := b7.toNat / 64
    let rights := b7.toNat / 16 % 4
    (128 ≤ page.toNat ∨ zero ≠ 0 ∨ action = 0 ∨ action = 3 ∨ (action = 1 ∧ (rights = 0 ∨ rights = 3))) →
      descriptorAction [b0, b1, b2, b3, page, zero, b6, b7] = none) ∧
  ∀ (s : State) (gen : Byte) (d : List Byte) (age : Nat) (r : LoadRec) (rest : List LoadRec),
    s.load = .outstanding age → s.readGen = gen → s.loadQueue = r :: rest →
      let n := byteOf r.next
      let stops (reason : StopReason) : State :=
        settle (runLoads (respond { s with loadQueue := rest, load := .idle } r.port r.tag .loadStopped
          [reason.code, n, n, 0]))
      let goesOn (u : State) : State :=
        if r.next + 1 = r.count then
          settle (runLoads (respond { u with loadQueue := rest, load := .idle } r.port r.tag .done
            [0, byteOf (r.next + 1), 0, 0]))
        else settle (runLoads u)
      let s1 := { s with loadQueue := { r with next := r.next + 1 } :: rest }
      let source := (s.frame r.source).state = .held ∧
        ∃ h ∈ (s.frame r.source).holders, h.ctx = r.target ∨ h.ctx = homeOf r.port
      exec (.loadReadCompletion gen d) s = .next (
        if ¬ source then stops .sourceLost
        else if BitVec.ofNat 32 (longAt d 0) ≠ r.stamp then stops .stampMismatch
        else
          match descriptorAction d with
          | none => stops .badDescriptor
          | some a =>
            if (s.ctx r.target).state ≠ .live then stops .contextGone
            else
              match a with
              | .clear g => goesOn (clearEntry s1 r.target g)
              | .set g e =>
                let holder := (s.frame e.frame).holders.find? fun h => h.ctx == r.target
                if (s.frame e.frame).state ≠ .held ∨ holder = none ∨ holder.map Holder.withdrawing = some true then
                  stops .notHolder
                else if e.rights = .readWrite ∧ holder.map Holder.rights = some .read then stops .rightsExceeded
                else goesOn (makeEntry s1 r.target g e))

/-- The end of a descriptor read by ERROR or by timeout at 200 microseconds: the source frame's mark is set and the load stops
MEMORY_FAULT. -/
def Obligations.LoadReadFails : Prop :=
  ∀ (s : State) (age : Nat) (r : LoadRec) (rest : List LoadRec),
    s.load = .outstanding age → s.loadQueue = r :: rest →
      let u := settle (runLoads (respond
        { s with
          frames := s.frames.set r.source { s.frame r.source with errorMark := true }
          loadQueue := rest
          load := .idle } r.port r.tag .loadStopped [6, byteOf r.next, byteOf r.next, 0]))
      exec (.loadReadError s.readGen) s = .next u ∧ (200 ≤ age → exec .loadReadTimeout s = .next u)

/-! ## Sharing -/

/-- OFFER by its checks in their order; else the lowest-numbered empty slot takes the record with the next serial, the frame's
pending offer count rises, and OFFER_ARRIVED is addressed to the target's owner port. -/
def Obligations.OfferTakesLowestSlot : Prop :=
  ∀ (s : State) (p : Port) (t : Tag) (q : ControlSlot) (c d : Ctx) (f : Frame) (r : Rights),
    Requested s p t .offer q → operandCtx q.operands 4 = some c → operandCtx q.operands 5 = some d →
    operandFrame q.operands 6 = some f → operandRights q.operands 8 = some r →
      let life := operandWord q.operands 10
      let holders := (s.frame f).holders.map Holder.ctx
      exec (.offer p t) s = .next (
        if life < 1 ∨ 4095 < life then answer s p t .offer .badOperand []
        else if d = c then answer s p t .offer .badOperand []
        else if (s.ctx c).owner ≠ some p then answer s p t .offer .notOwner []
        else if (s.ctx c).state ≠ .live then answer s p t .offer .notLive []
        else if (s.frame f).state ≠ .held then answer s p t .offer .notHolder []
        else if c ∉ holders then answer s p t .offer .notHolder []
        else if holders.head? ≠ some c then answer s p t .offer .notOrigin []
        else if (s.ctx d).state ≠ .live then answer s p t .offer .notLive []
        else if d ∈ holders then answer s p t .offer .alreadyHolder []
        else if ∃ i, (s.offer i).map (fun o => (o.frame, o.target)) = some (f, d) then
          answer s p t .offer .duplicateOffer []
        else if 4 ≤ holders.length + (s.frame f).pendingOffers then answer s p t .offer .holdersFull []
        else
          match (List.finRange 16).find? fun i => (s.offer i).isNone with
          | none => answer s p t .offer .offersFull []
          | some i =>
            answer (addressOwner
              { s with
                offers := s.offers.set i (some ⟨s.nextSerial, f, c, d, r, life⟩)
                nextSerial := s.nextSerial + 1
                frames := s.frames.set f { s.frame f with pendingOffers := (s.frame f).pendingOffers + 1 } }
              d (.offerArrived i s.nextSerial f c d r life)) p t .offer .done
              ([byteOf i.val, 0] ++ le16 s.nextSerial.toNat))

/-- ACCEPT by its checks in their order; else the offer is gone, the target stands at the end of the holder list with the
offered rights, its share count is higher by 1, and OFFER_ENDED ACCEPTED is addressed to the offerer's owner port. -/
def Obligations.AcceptAppendsHolder : Prop :=
  ∀ (s : State) (p : Port) (t : Tag) (q : ControlSlot) (i : OfferId),
    Requested s p t .accept q → operandTag q.operands 4 = some i →
      exec (.accept p t) s = .next (
        match s.offer i with
        | none => answer s p t .accept .noSuchOffer []
        | some o =>
          if o.serial ≠ operandSerial q.operands 6 then answer s p t .accept .noSuchOffer []
          else if (s.ctx o.target).owner ≠ some p then answer s p t .accept .notOwner []
          else if (s.ctx o.target).state ≠ .live then answer s p t .accept .notLive []
          else
            answer (addressOwner
              { withCtx s o.target { s.ctx o.target with shareCount := (s.ctx o.target).shareCount + 1 } with
                offers := s.offers.set i none
                frames := s.frames.set o.frame
                  { s.frame o.frame with
                    holders := (s.frame o.frame).holders ++ [⟨o.target, o.rights, false⟩]
                    pendingOffers := (s.frame o.frame).pendingOffers - 1 } }
              o.offerer (.offerEnded i o.serial o.frame .accepted)) p t .accept .done (le16 o.frame.val ++ [0, 0]))

/-- DECLINE, by the target's port, and RETRACT, by the offerer's: by their checks in their order; else the offer is gone and
OFFER_ENDED is addressed to the other party's owner port; the frame's holders stay. -/
def Obligations.DeclineAndRetractRemoveOffer : Prop :=
  ∀ (s : State) (p : Port) (t : Tag) (q : ControlSlot) (i : OfferId), operandTag q.operands 4 = some i →
    let removed (o : OfferRec) : State :=
      { s with
        offers := s.offers.set i none
        frames := s.frames.set o.frame
          { s.frame o.frame with pendingOffers := (s.frame o.frame).pendingOffers - 1 } }
    (Requested s p t .decline q → exec (.decline p t) s = .next (
      match s.offer i with
      | none => answer s p t .decline .noSuchOffer []
      | some o =>
        if o.serial ≠ operandSerial q.operands 6 then answer s p t .decline .noSuchOffer []
        else if (s.ctx o.target).owner ≠ some p then answer s p t .decline .notOwner []
        else if (s.ctx o.target).state ≠ .live then answer s p t .decline .notLive []
        else answer (addressOwner (removed o) o.offerer (.offerEnded i o.serial o.frame .declined)) p t .decline .done
          [])) ∧
    (Requested s p t .retract q → exec (.retract p t) s = .next (
      match s.offer i with
      | none => answer s p t .retract .noSuchOffer []
      | some o =>
        if o.serial ≠ operandSerial q.operands 6 then answer s p t .retract .noSuchOffer []
        else if (s.ctx o.offerer).owner ≠ some p then answer s p t .retract .notOwner []
        else if (s.ctx o.offerer).state ≠ .live then answer s p t .retract .notLive []
        else answer (addressOwner (removed o) o.target (.offerEnded i o.serial o.frame .retracted)) p t .retract .done
          (le16 o.frame.val ++ le16 o.remaining)))

/-- LEAVE by its checks in their order; else, before what is due at the event is taken, the co-holder's flag is set, its
entries naming the frame are invalid, the withdrawal is on the list, and the slot is ACTIVE with no response. -/
def Obligations.LeaveStartsWithdrawal : Prop :=
  ∀ (s : State) (p : Port) (t : Tag) (q : ControlSlot) (c : Ctx) (f : Frame),
    Requested s p t .leave q → operandCtx q.operands 4 = some c → operandFrame q.operands 6 = some f →
      let holder := (s.frame f).holders.find? fun h => h.ctx == c
      ∃ u, exec (.leave p t) s = .next u ∧
        if (s.ctx c).owner ≠ some p then u = answer s p t .leave .notOwner []
        else if (s.ctx c).state ≠ .live then u = answer s p t .leave .notLive []
        else if (s.frame f).state ≠ .held then u = answer s p t .leave .notHolder []
        else if holder = none then u = answer s p t .leave .notHolder []
        else if ((s.frame f).holders.map Holder.ctx).head? = some c then u = answer s p t .leave .isOrigin []
        else if holder.map Holder.withdrawing = some true then u = answer s p t .leave .busy []
        else ∃ v, u = settle v ∧ WithdrawsHolder s (carriedOn s p t) v c f (.leave p t)

/-- REVOKE by its checks in their order; else the named co-holder's withdrawal starts as a LEAVE's does. -/
def Obligations.RevokeStartsWithdrawal : Prop :=
  ∀ (s : State) (p : Port) (t : Tag) (q : ControlSlot) (c d : Ctx) (f : Frame),
    Requested s p t .revoke q → operandCtx q.operands 4 = some c → operandCtx q.operands 5 = some d →
    operandFrame q.operands 6 = some f →
      let holders := (s.frame f).holders.map Holder.ctx
      let coHolder := (s.frame f).holders.tail.find? fun h => h.ctx == d
      ∃ u, exec (.revoke p t) s = .next u ∧
        if (s.ctx c).owner ≠ some p then u = answer s p t .revoke .notOwner []
        else if (s.ctx c).state ≠ .live then u = answer s p t .revoke .notLive []
        else if (s.frame f).state ≠ .held then u = answer s p t .revoke .notHolder []
        else if c ∉ holders then u = answer s p t .revoke .notHolder []
        else if holders.head? ≠ some c then u = answer s p t .revoke .notOrigin []
        else if coHolder = none then u = answer s p t .revoke .notHolder []
        else if coHolder.map Holder.withdrawing = some true then u = answer s p t .revoke .busy []
        else ∃ v, u = settle v ∧ WithdrawsHolder s (carriedOn s p t) v d f (.revoke p t)

/-! ## Withdrawals and teardowns -/

/-- The invalidation of a withdrawal: every valid entry of the context, or those naming the one frame, is invalid; each
frame's map count and the context's valid entry count fall by the entries lost; nothing else is changed. The start of a
withdrawal: the invalidation, and the record with its drain set, which holds, each once, exactly the accesses in transit of the
context, or those of them that name the one frame. Step 4 of a teardown starts such a withdrawal of the whole context at the
event at which step 3 has nothing left to wait for (where nothing else is due then; what falls due after it is the rest of the
event, entry 4). -/
def Obligations.InvalidationDropsEntriesAndCounts : Prop :=
  (∀ (s : State) (c : Ctx) (only : Option Frame) (q : Requester),
    startWithdrawal s c only q =
      { invalidate s c only with withdrawals := s.withdrawals ++ [⟨c, only, q, drainSet s c only⟩] } ∧
    (drainSet s c only).Nodup ∧
    ∀ p i, (p, i) ∈ drainSet s c only ↔
      ∃ e, ((s.port p).slot i).entry = some e ∧ e.ctx = c ∧ (only = none ∨ only = some e.frame)) ∧
  (∀ (s : State) (c : Ctx) (st : Starter), s.teardown c = some ⟨st, .loads⟩ → (∀ r ∈ s.loadQueue, r.target ≠ c) →
    (∀ w ∈ s.withdrawals, w.drain ≠ []) → (∀ d, d ≠ c → turnDue s d = false ∧ stepDue s d = false) →
    (∀ p, portDue s p = false) →
      settle s = settle { invalidate s c none with
        teardowns := s.teardowns.set c (some ⟨st, .drain⟩)
        withdrawals := s.withdrawals ++ [⟨c, none, .teardown, drainSet s c none⟩] }) ∧
  ∀ (s : State) (c : Ctx) (only : Option Frame),
    let lost (g : Page) (f : Frame) : Bool :=
      (s.entry c g).map MapEntry.frame == some f && (only == none || only == some f)
    let lostOf (g : Page) : Bool := (s.entry c g).any fun e => lost g e.frame
    let u := invalidate s c only
    (∀ d g, u.entry d g = if d = c ∧ ∃ f, lost g f = true then none else s.entry d g) ∧
    (∀ f, u.frame f = { s.frame f with mapCount := (s.frame f).mapCount - count fun g => lost g f }) ∧
    (∀ d, u.ctx d =
      if d = c then { s.ctx c with validCount := (s.ctx c).validCount - count lostOf } else s.ctx d) ∧
    { u with frames := s.frames, contexts := s.contexts, maps := s.maps } = s

/-- The reclaim exit: a frame in RECLAIM goes to SCRUB and to the tail of the scrub queue where its mark is clear, and an IDLE
scrub engine starts on the queue's head; it goes to RETIRED and joins no list where the mark is set. And the promotion of an
origin departure: the departing origin's record is gone, the candidate's is the first, READ_WRITE with its flag clear, the
other co-holders keep their order, and the charge moves. -/
def Obligations.ReclaimExitAndPromotion : Prop :=
  (∀ (s : State) (f : Frame),
    reclaimExit s f =
      if (s.frame f).state ≠ .reclaim then s
      else if (s.frame f).errorMark = true then { s with frames := s.frames.set f { s.frame f with state := .retired } }
      else
        { s with
          frames := s.frames.set f { s.frame f with state := .scrub }
          scrubQueue := s.scrubQueue ++ [f]
          scrub := if s.scrub = .idle then .ready ((s.scrubQueue ++ [f]).headD f) 0 else s.scrub }) ∧
  (∀ (s : State) (f : Frame) (c d : Ctx), c ≠ d →
    promote s f c d =
      { withCtx (withCtx s d
            { s.ctx d with charged := (s.ctx d).charged + 1, shareCount := (s.ctx d).shareCount - 1 }) c
          { s.ctx c with charged := (s.ctx c).charged - 1 } with
        frames := s.frames.set f
          { s.frame f with
            holders := ⟨d, .readWrite, false⟩ :: (s.frame f).holders.filter fun h => h.ctx ≠ c ∧ h.ctx ≠ d } })

/-- WITHDRAWAL_END of a record with an empty drain set: the record is gone and the requesting operation takes its end step,
before what then is due at the event. -/
def Obligations.WithdrawalEnds : Prop :=
  ∀ (s : State) (w : Withdrawal),
    (s.withdrawals.find? fun x => x.ctx == w.ctx && x.frame == w.frame && x.drain.isEmpty) = some w →
      let c := w.ctx
      let gone : State := { s with withdrawals := s.withdrawals.filter fun x => !(x.ctx == c && x.frame == w.frame) }
      let left (f : Frame) : State :=
        { withCtx gone c { s.ctx c with shareCount := (s.ctx c).shareCount - 1 } with
          frames := s.frames.set f
            { s.frame f with holders := (s.frame f).holders.filter fun h => h.ctx != c } }
      (∀ f p t, w.frame = some f → w.requester = .release p t →
        exec (.withdrawalEnd c (some f)) s =
          .next (settle (respond (reclaimExit gone f) p t .done [flagByte (s.frame f).errorMark, 0, 0, 0]))) ∧
      (∀ f p t, w.frame = some f → w.requester = .leave p t →
        exec (.withdrawalEnd c (some f)) s =
          .next (settle (respond (notifyOrigin (left f) f (.shareLeft f c)) p t .done []))) ∧
      (∀ f p t, w.frame = some f → w.requester = .revoke p t →
        exec (.withdrawalEnd c (some f)) s =
          .next (settle (respond (notifyOwner (left f) c (.shareLost f c .revoked)) p t .done []))) ∧
      (∀ f o, w.frame = some f → w.requester = .departure o →
        exec (.withdrawalEnd c (some f)) s = .next (settle (notifyOwner (left f) c (.shareLost f c .originGone)))) ∧
      (∀ st, w.frame = none → w.requester = .teardown → s.teardown c = some ⟨st, .drain⟩ →
        exec (.withdrawalEnd c none) s =
          .next (settle { gone with teardowns := s.teardowns.set c (some ⟨st, .frames⟩) }))

/-- TEARDOWN_OFFER_CANCEL at step 2: every offer from or to the context is removed and its other party's owner port told, in
ascending offer id; then the context's loads are ended: the queued ones are removed and answered LOAD_STOPPED CONTEXT_GONE (in
queue order: the model's choice, entry 10) and the running one takes a stop request; and what is due at the event is taken, in
a teardown with nothing to wait for up to its end (entries 4 and 9). -/
def Obligations.TeardownCancelsOffers : Prop :=
  ∀ (s : State) (c : Ctx) (st : Starter), s.teardown c = some ⟨st, .offers⟩ →
    let hit (i : OfferId) : Bool := (s.offer i).any fun o => o.offerer == c || o.target == c
    let fallen (f : Frame) : Nat := count fun i => hit i && (s.offer i).map OfferRec.frame == some f
    ∃ v, exec (.teardownOfferCancel c) s = .next (settle (endLoadsOfCtx v c)) ∧
      v.teardown c = some ⟨st, .loads⟩ ∧ (∀ d, d ≠ c → v.teardown d = s.teardown d) ∧
      (∀ i, v.offer i = if hit i then none else s.offer i) ∧
      (∀ f, v.frame f = { s.frame f with pendingOffers := (s.frame f).pendingOffers - fallen f }) ∧
      v.ports = ((List.finRange 16).foldl (fun u i =>
        match s.offer i with
        | some o =>
          if o.offerer = c then notifyOwner u o.target (.offerEnded i o.serial o.frame .cancelled)
          else if o.target = c then notifyOwner u o.offerer (.offerEnded i o.serial o.frame .cancelled)
          else u
        | none => u) s).ports ∧
      { v with frames := s.frames, teardowns := s.teardowns, offers := s.offers, ports := s.ports } = s ∧
      EndsLoads v (endLoadsOfCtx v c) (fun r => r.target == c) .contextGone ∧
      ((∀ r ∈ s.loadQueue, r.target ≠ c) → endLoadsOfCtx v c = v)

/-- TEARDOWN_FRAME_TURN. A turn of step 5, of the lowest-numbered frame the context stands in: it waits for a holder under
withdrawal; a co-holder is removed; a sole holder gives the frame up; an origin hands it to the first co-holder with headroom,
or, with none, is flagged while its departure runs. A turn that waited examines its frame again, and ends where the context no
longer stands on it. A departure takes its next co-holder, always the first: it waits for one that leaves, starts the withdrawal
of one that does not, and with none left gives the frame up. With no frame left a pooled context's quota goes home and it is
FREE, while a home context keeps its record. Before step 5 nothing. That the further turns follow at the same event is read from
R36 (entry 9). -/
def Obligations.TeardownTurnDealsWithFrame : Prop :=
  (∀ (s : State) (c : Ctx) (st : Starter) (now : TeardownStep) (f : Frame), s.teardown c = some ⟨st, now⟩ →
    let hs := (s.frame f).holders
    let flagged := hs.map fun (h : Holder) => if h.ctx = c then { h with withdrawing := true } else h
    let goes (x : TeardownStep) (u : State) : State := { u with teardowns := s.teardowns.set c (some ⟨st, x⟩) }
    let givesUp : State := goes .frames (reclaimExit
      { withCtx s c { s.ctx c with charged := (s.ctx c).charged - 1 } with
        frames := s.frames.set f { s.frame f with state := .reclaim, holders := [], pendingOffers := 0 } } f)
    let deals : State :=
      if (hs.map Holder.ctx).head? ≠ some c then
        goes .frames (notifyOrigin
          { withCtx s c { s.ctx c with shareCount := (s.ctx c).shareCount - 1 } with
            frames := s.frames.set f { s.frame f with holders := hs.filter fun h => h.ctx != c } }
          f (.shareLeft f c))
      else if hs.length = 1 then givesUp
      else
        match hs.tail.find? fun h => 1 ≤ (s.ctx h.ctx).quota - (s.ctx h.ctx).charged with
        | some h => goes .frames (notifyOwner (promote s f c h.ctx) h.ctx (.originInherited f h.ctx))
        | none => goes (.departure f) { s with frames := s.frames.set f { s.frame f with holders := flagged } }
    (now = .offers ∨ now = .loads ∨ now = .drain → exec (.teardownFrameTurn c) s = .next s) ∧
    (now = .frames → (s.frame f).state = .held →
      ((List.finRange 4096).find? fun f => (s.frame f).holders.any fun h => h.ctx == c) = some f →
      exec (.teardownFrameTurn c) s = .next (settle (if hs.any Holder.withdrawing then goes (.turn f) s else deals))) ∧
    (now = .turn f →
      exec (.teardownFrameTurn c) s = .next (
        if (s.frame f).state ≠ .held then settle (goes .frames s)
        else if hs.any Holder.withdrawing then s
        else if c ∉ hs.map Holder.ctx then settle (goes .frames s)
        else settle deals)) ∧
    (now = .departure f →
      ∃ t, exec (.teardownFrameTurn c) s = .next t ∧
        if (s.frame f).state ≠ .held then t = settle (goes .frames s)
        else
          match hs.tail with
          | [] => t = settle givesUp
          | h :: _ =>
            if h.withdrawing = true then t = s
            else ∃ v, t = settle v ∧ WithdrawsHolder s s v h.ctx f (.departure c))) ∧
  ∀ (s : State) (c : Ctx) (st : Starter), s.teardown c = some ⟨st, .frames⟩ →
    ((∀ f, ∀ h ∈ (s.frame f).holders, h.ctx ≠ c) →
      ∀ p, 4 ≤ c.val → (s.ctx c).owner = some p →
        exec (.teardownFrameTurn c) s = .next (settle (
          let moved := withCtx
            (withCtx { s with teardowns := s.teardowns.set c none } (homeOf p)
              { s.ctx (homeOf p) with quota := (s.ctx (homeOf p)).quota + (s.ctx c).quota }) c
            ⟨.free, none, 0, 0, 0, 0, 0⟩
          match st with
          | .destroy p' t => respond moved p' t .done (le16 (s.ctx c).quota ++ [0, 0])
          | .portReset _ => moved))) ∧
    ((∀ f, ∀ h ∈ (s.frame f).holders, h.ctx ≠ c) → c.val < 4 →
      exec (.teardownFrameTurn c) s = .next (settle { s with teardowns := s.teardowns.set c none }))

/-! ## The access path -/

/-- ACCESS_ARRIVAL: OFFLINE with the access's tag, and nothing else, at a port that is not UP; else the access stands last at
its lane, and one access of the port that can be accepted is. -/
def Obligations.AccessArrivalStandsAtLane : Prop :=
  ∀ (p : Port) (a : AccessRequest) (s : State),
    let r := s.port p
    let stands : State :=
      match a.mode with
      | .plain => withPort s p { r with plainLane := r.plainLane ++ [a] }
      | .elevated => withPort s p { r with elevatedLane := r.elevatedLane ++ [a] }
    (r.state ≠ .up → exec (.accessArrival p a) s =
      .next (withPort s p { r with accessResponses := r.accessResponses ++ [⟨a.tag, .offline⟩] })) ∧
    (r.state = .up → ∃ t, exec (.accessArrival p a) s = .next t ∧ exec (.accessTranslation p) stands = .next t)

/-- ACCESS_TRANSLATION: an access at the front of a lane is accepted and translated where the port is UP with a free transit
slot, the plain lane only while the port is SETTLED; of two the one of the lane not taken last time; else nothing. -/
def Obligations.OneAccessIsAccepted : Prop :=
  ∀ (p : Port) (s : State),
    let r := s.port p
    let plain := if r.binding = .settled then r.plainLane else []
    exec (.accessTranslation p) s = .next (
      if r.state ≠ .up ∨ ∀ i, (r.slot i).entry ≠ none then s
      else
        match plain, r.elevatedLane with
        | [], [] => s
        | a :: rest, [] => translate (withPort s p { r with plainLane := rest }) p a
        | [], b :: rest => translate (withPort s p { r with elevatedLane := rest }) p b
        | a :: restA, b :: restB =>
          if r.lastLane = .plain then
            translate (withPort s p { r with elevatedLane := restB, lastLane := .elevated }) p b
          else translate (withPort s p { r with plainLane := restA, lastLane := .plain }) p a)

/-- The translation of an accepted access at a port that is UP: the four checks in their order, each failing one answered
FAULT with its cause and an ACCESS_FAULT notice; else the lowest-numbered FREE slot takes the entry, WAITING, under an
advanced generation, joins the issue queue, and a plain one is counted. -/
def Obligations.TranslationChecksInOrder : Prop :=
  ∀ (s : State) (p : Port) (a : AccessRequest), (s.port p).state = .up →
    let r := s.port p
    let c := match a.mode with | .elevated => homeOf p | .plain => r.bound
    let page : Page := ⟨a.addr.toNat / 8192, by have := a.addr.isLt; omega⟩
    let offset : Fin 8192 := ⟨a.addr.toNat % 8192, Nat.mod_lt _ (by decide)⟩
    let length := a.lengthCode.toNat + 1
    let fault (cause : FaultCause) : State :=
      address (withPort s p { r with accessResponses := r.accessResponses ++ [⟨a.tag, .fault cause⟩] }) p
        (.accessFault cause a.mode a.addr.toNat c)
    translate s p a =
      if ∃ i, (r.slot i).entry.map TransitEntry.tag = some a.tag then fault .badTag
      else if 8192 < offset.val + length then fault .span
      else
        match s.entry c page with
        | none => fault .notMapped
        | some e =>
          if a.dir = .write ∧ e.rights = .read then fault .noWrite
          else
            match (List.finRange 16).find? fun i => (r.slot i).entry.isNone with
            | none => s
            | some i =>
              withPort s p
                { r with
                  transit := r.transit.set i ⟨(r.slot i).gen + 1,
                    some ⟨a.tag, a.mode, c, page, e.frame, a.dir, offset, length, a.data, .waiting⟩⟩
                  issueQueue := r.issueQueue ++ [i]
                  plainCount := if a.mode = .plain then r.plainCount + 1 else r.plainCount }

/-- Round robin: each grant to another requester brings a requester that is requesting nearer to the pointer, in a ring of
six, and the one at the pointer is granted. -/
def Obligations.GrantsAreFair : Prop :=
  ∀ (s t : State) (r : MemoryRequester), requesting s r = true → exec .memoryPortGrant s = .next t →
    (ringFrom s.pointer).idxOf r < 6 ∧
    ∃ g, granted s = some g ∧
      (g = r ∨ (ringFrom t.pointer).idxOf r < (ringFrom s.pointer).idxOf r) ∧
      ((ringFrom s.pointer).idxOf r = 0 → g = r)

/-- A grant issues one request of the granted requester and moves the pointer past it: the head of a port's issue queue with
its physical address, length, data and identifier, ISSUED at age 0; the scrub engine's next 256 zeros; the load engine's next
8 bytes, or, where the source is no longer held, nothing, and the load stops SOURCE_LOST. -/
def Obligations.GrantIssues : Prop :=
  ∀ s : State,
    (granted s = none → exec .memoryPortGrant s = .next s) ∧
    (∀ p i rest e, granted s = some (.port p) → (s.port p).issueQueue = i :: rest →
      ((s.port p).slot i).entry = some e →
      exec .memoryPortGrant s = .next
        { withPort s p
            { s.port p with
              issueQueue := rest
              transit := (s.port p).transit.set i
                ⟨((s.port p).slot i).gen, some { e with phase := .issued 0, data := [] }⟩ } with
          pointer := ringAfter (.port p)
          memoryRequests := s.memoryRequests ++
            [⟨BitVec.ofNat 3 p.val, i, ((s.port p).slot i).gen, e.dir,
              BitVec.ofNat 25 (e.frame.val * 8192 + e.offset.val), e.length, if e.dir = .write then e.data else []⟩] }) ∧
    (∀ f k, granted s = some .scrub → s.scrub = .ready f k →
      exec .memoryPortGrant s = .next
        { s with
          pointer := .load
          writeGen := s.writeGen + 1
          scrub := .outstanding f k 0
          memoryRequests := s.memoryRequests ++
            [⟨4, 0, s.writeGen + 1, .write, BitVec.ofNat 25 (f.val * 8192 + 256 * k), 256, List.replicate 256 0⟩] }) ∧
    (∀ r rest, granted s = some .load → s.loadQueue = r :: rest →
      exec .memoryPortGrant s = .next (
        if (s.frame r.source).state = .held ∧
            ∃ h ∈ (s.frame r.source).holders, h.ctx = r.target ∨ h.ctx = homeOf r.port then
          { s with
            pointer := .port 0
            readGen := s.readGen + 1
            load := .outstanding 0
            memoryRequests := s.memoryRequests ++
              [⟨5, 0, s.readGen + 1, .read, BitVec.ofNat 25 (r.source.val * 8192 + (r.offset + 8 * r.next)), 8, []⟩] }
        else
          settle (runLoads (respond { s with pointer := .port 0, loadQueue := rest, load := .idle } r.port r.tag
            .loadStopped [1, byteOf r.next, byteOf r.next, 0]))))

/-- The end of an access in transit, by a matching completion or, at 200 microseconds, by timeout: its response where the port
is UP; for ERROR and timeout the frame's mark and a MEMORY_FAULT notice; then the entry is freed, leaves every drain set, and
completes a switch that waited for it; then one acceptance, and what is due at the event. The order of these parts within the
event is the model's choice (entry 11). -/
def Obligations.AccessEnds : Prop :=
  ∀ (s : State) (p : Port) (i : Slot) (e : TransitEntry) (age : Nat) (d : List Byte),
    ((s.port p).slot i).entry = some e → e.phase = .issued age →
      let gen := ((s.port p).slot i).gen
      let answers (x : AccessResult) : State :=
        if (s.port p).state = .up then
          withPort s p { s.port p with accessResponses := (s.port p).accessResponses ++ [⟨e.tag, x⟩] }
        else s
      let fails (x : AccessResult) (kind : MemoryFaultKind) : State :=
        address { answers x with frames := s.frames.set e.frame { s.frame e.frame with errorMark := true } } p
          (.memoryFault kind e.mode (e.page.val * 8192 + e.offset.val) e.frame)
      let plainLeft := if e.mode = .plain then (s.port p).plainCount - 1 else (s.port p).plainCount
      let freed (u : State) : State :=
        { withPort u p
            { u.port p with
              transit := (s.port p).transit.set i ⟨gen, none⟩
              plainCount := plainLeft } with
          withdrawals := s.withdrawals.map fun w => { w with drain := w.drain.filter fun x => x != (p, i) } }
      let switched (u : State) : State :=
        match (s.port p).binding with
        | .settled => u
        | .switching target t =>
          if e.mode = .plain ∧ plainLeft = 0 then
            respond (withPort u p { u.port p with bound := target, binding := .settled }) p t .done
              [byteOf (s.port p).bound.val, 0, 0, 0]
          else u
      let ends (u : State) : State := settle (acceptOne (switched (freed u)) p)
      exec (.transitCompletionOk p i gen d) s = .next (ends (answers (.ok (if e.dir = .read then d else [])))) ∧
      exec (.transitCompletionError p i gen) s = .next (ends (fails .memoryError .error)) ∧
      (200 ≤ age → exec (.transitTimeout p i) s = .next (ends (fails .memoryTimeout .timeout)))

/-- A completion that matches nothing is discarded with no effect: at the transit table one for a FREE slot, a WAITING entry
or another generation, at the engines one for another generation or with nothing outstanding, and any with a requester field
of 6 or 7. -/
def Obligations.StaleCompletionsDiscarded : Prop :=
  ∀ (s : State) (i : Slot) (gen : Byte) (status : Status) (d : List Byte),
    (∀ p : Port,
      (((s.port p).slot i).entry = none ∨ ((s.port p).slot i).entry.map TransitEntry.phase = some .waiting ∨
        ((s.port p).slot i).gen ≠ gen) →
      exec (.transitCompletionOk p i gen d) s = .next s ∧ exec (.transitCompletionError p i gen) s = .next s ∧
      exec (.staleCompletion (BitVec.ofNat 3 p.val) i gen status d) s = .next s) ∧
    ((∀ f k age, s.scrub = .outstanding f k age → s.writeGen ≠ gen) →
      exec (.scrubCompletionOk gen) s = .next s ∧ exec (.scrubCompletionError gen) s = .next s ∧
      exec (.staleCompletion 4 i gen status d) s = .next s) ∧
    ((∀ age, s.load = .outstanding age → s.readGen ≠ gen) →
      exec (.loadReadCompletion gen d) s = .next s ∧ exec (.loadReadError gen) s = .next s ∧
      exec (.staleCompletion 5 i gen status d) s = .next s) ∧
    exec (.staleCompletion 6 i gen status d) s = .next s ∧ exec (.staleCompletion 7 i gen status d) s = .next s

/-- SWITCH_COMPLETION of a SWITCHING port with no plain entry in transit: the target is bound, the waiting BIND is answered
with the context bound before, and one access may be accepted. -/
def Obligations.SwitchCompletes : Prop :=
  ∀ (s : State) (p : Port) (target : Ctx) (t : Tag),
    (s.port p).binding = .switching target t → (s.port p).plainCount = 0 →
      exec (.switchCompletion p) s = .next (acceptOne (respond
        (withPort s p { s.port p with bound := target, binding := .settled }) p t .done
          [byteOf (s.port p).bound.val, 0, 0, 0]) p)

/-! ## The scrub engine -/

/-- The end of the outstanding scrub write (the frame leaves the scrub queue by its number, the model's choice, entry 20: it
is the queue's head in every state that keeps the frame lists' law): OK raises the progress, and the 32nd makes the frame FREE
at the tail of the free list with its mark clear; ERROR, or 200 microseconds without a completion, retires it with its mark
set; the engine goes on with the new head of the scrub queue, or is IDLE. -/
def Obligations.ScrubWriteEnds : Prop :=
  ∀ (s : State) (f : Frame) (k age : Nat), s.scrub = .outstanding f k age →
    let rest := s.scrubQueue.erase f
    let next : ScrubState := match rest with | [] => .idle | g :: _ => .ready g 0
    let retires : State :=
      { s with
        scrubQueue := rest
        scrub := next
        frames := s.frames.set f { s.frame f with state := .retired, errorMark := true } }
    exec (.scrubCompletionOk s.writeGen) s = .next (
      if k + 1 < 32 then { s with scrub := .ready f (k + 1) }
      else
        { s with
          scrubQueue := rest
          scrub := next
          freeList := s.freeList ++ [f]
          frames := s.frames.set f { s.frame f with state := .free, errorMark := false } }) ∧
    exec (.scrubCompletionError s.writeGen) s = .next retires ∧
    (200 ≤ age → exec .scrubWriteTimeout s = .next retires)

/-! ## The timebase -/

/-- MICROSECOND_TICK: every age in the part rises by 1, and each request whose age reaches 200 times out at the tick, each once
in some order (a free choice, entry 6); with none that does nothing else is changed, and after the tick none is left. While
RST_N is asserted no tick is counted (the model's reading, entry 13). -/
def Obligations.MicrosecondTickRaisesAges : Prop :=
  ∀ s : State,
    (s.rstAsserted = true → exec .microsecondTick s = .next s) ∧
    (s.rstAsserted = false → ∃ u t, exec .microsecondTick s = .next t ∧
      (∀ p i, ((u.port p).slot i).gen = ((s.port p).slot i).gen ∧
        ((u.port p).slot i).entry = ((s.port p).slot i).entry.map fun e =>
          match e.phase with
          | .waiting => e
          | .issued age => { e with phase := .issued (age + 1) }) ∧
      (∀ p, { u.port p with transit := (s.port p).transit } = s.port p) ∧
      u.scrub = (match s.scrub with | .outstanding f k age => .outstanding f k (age + 1) | x => x) ∧
      u.load = (match s.load with | .outstanding age => .outstanding (age + 1) | x => x) ∧
      { u with ports := s.ports, scrub := s.scrub, load := s.load } = { s with usTicks := s.usTicks + 1 } ∧
      (lateRequests u = [] → t = u) ∧
      (∀ x, lateRequests u = [x] → t = takeLate u x) ∧
      (∃ order : List Late, order.Perm (lateRequests u) ∧
        t = order.foldl (fun v x =>
          takeLate (if 1 < (lateRequests v).length then { v with choices := v.choices + 1 } else v) x) u) ∧
      lateRequests t = [])

/-- MILLISECOND_TICK: the remaining lifetime of every pending offer falls by 1, and those that reach 0 expire at the tick, in
ascending offer id; while RST_N is asserted no tick is counted (the model's choice, entry 13). OFFER_EXPIRY of an offer with
no lifetime left. At its expiry an offer is removed, and OFFER_ENDED EXPIRED is addressed to the owner ports of both parties,
once where they are one port. -/
def Obligations.OfferLifetimesFallAndExpire : Prop :=
  (∀ s : State,
    (s.rstAsserted = true → exec .millisecondTick s = .next s) ∧
    (s.rstAsserted = false →
      let ends (i : OfferId) : Bool := (s.offer i).any fun o => o.remaining ≤ 1
      ∃ t, exec .millisecondTick s = .next t ∧
        (∀ i, t.offer i =
          if ends i then none else (s.offer i).map fun o => { o with remaining := o.remaining - 1 }) ∧
        (∀ f, t.frame f = { s.frame f with pendingOffers := (s.frame f).pendingOffers -
          (count fun i => ends i && (s.offer i).map OfferRec.frame == some f) }) ∧
        t.ports = ((List.finRange 16).foldl (fun u i =>
          match s.offer i with
          | some o =>
            if ends i then
              let told := addressOwner u o.offerer (.offerEnded i o.serial o.frame .expired)
              if (s.ctx o.offerer).owner = (s.ctx o.target).owner then told
              else addressOwner told o.target (.offerEnded i o.serial o.frame .expired)
            else u
          | none => u) s).ports ∧
        { t with frames := s.frames, offers := s.offers, ports := s.ports } = { s with msTicks := s.msTicks + 1 })) ∧
  (∀ (s : State) (i : OfferId) (o : OfferRec), s.offer i = some o → o.remaining = 0 →
    let removed : State :=
      { s with
        offers := s.offers.set i none
        frames := s.frames.set o.frame
          { s.frame o.frame with pendingOffers := (s.frame o.frame).pendingOffers - 1 } }
    let told := addressOwner removed o.offerer (.offerEnded i o.serial o.frame .expired)
    exec (.offerExpiry i) s = .next (
      if (s.ctx o.offerer).owner = (s.ctx o.target).owner then told
      else addressOwner told o.target (.offerEnded i o.serial o.frame .expired)))

/-! ## Laws that every step keeps -/

/-- The state after reset meets every law. -/
def Obligations.ResetIsLawful : Prop := Lawful State.reset

/-- Every step keeps the law of the frame lists. -/
def Obligations.FrameListsKept : Prop :=
  ∀ s t : State, FrameLists s → step s = .next t → FrameLists t

/-- Every step keeps the law of the context table: the quotas sum to 4096, and charged never exceeds quota. -/
def Obligations.ContextLawKept : Prop :=
  ∀ s t : State, ContextLaw s → step s = .next t → ContextLaw t

/-- Every step keeps the laws of the ports' tables, and each long request under way in its own ACTIVE control slot. -/
def Obligations.PortTablesKept : Prop :=
  ∀ s t : State, PortTables s → step s = .next t → PortTables t

/-- Every step keeps the law of holdings: a valid map entry always rests on a holding, the origin of a frame holds READ_WRITE,
an access in transit names a frame that its context holds or releases, a drain set holds exactly the accesses its withdrawal
waits for, and a bound context and a switch target are LIVE and owned by their port. -/
def Obligations.HoldingKept : Prop :=
  ∀ s t : State, FrameLists s → ContextLaw s → PortTables s → Holding s → step s = .next t → Holding t

/-- Every step keeps the law of counts. -/
def Obligations.CountLawKept : Prop :=
  ∀ s t : State, FrameLists s → ContextLaw s → PortTables s → Holding s → CountLaw s → step s = .next t → CountLaw t

/-- Every step leaves nothing that is due at its event (how far one event reaches is the model's reading, entries 4 and 9). -/
def Obligations.SettledKept : Prop :=
  ∀ s t : State, FrameLists s → Settled s → step s = .next t → Settled t

/-- A RETIRED frame stays RETIRED at every step but device reset, which makes it SCRUB with its mark clear. -/
def Obligations.RetiredStays : Prop :=
  ∀ (c : Instr) (s t : State) (f : Frame), FrameLists s → (s.frame f).state = .retired → exec c s = .next t →
    ((t.frame f).state = .retired ∧ ((s.frame f).errorMark = true → (t.frame f).errorMark = true)) ∨
      (c = .rstNAssert ∧ t.frame f = ⟨.scrub, [], 0, false, 0⟩)

/-- A set error mark is cleared by the frame's own scrub success or by device reset alone. -/
def Obligations.ErrorMarkCleared : Prop :=
  ∀ (c : Instr) (s t : State) (f : Frame),
    (s.frame f).errorMark = true → (t.frame f).errorMark = false → exec c s = .next t →
      c = .rstNAssert ∨ (∃ part, c = .rstNRelease part) ∨
        ((∃ k age, 31 ≤ k ∧ s.scrub = .outstanding f k age) ∧
          (t.frame f).state = .free ∧
          (c = .scrubCompletionOk s.writeGen ∨ ∃ i d, c = .staleCompletion 4 i s.writeGen .ok d))
end

