-- ==== Sys2Proof/Laws/State.lean ====
section
/-! SUPPORT. The small lemmas of the state: what each accessor reads after each update. -/

namespace Sys2Proof.Machine

open Sys2Proof

/-- Reading a vector after one element is written. -/
theorem vector_get_set {α : Type} {n : Nat} (v : Vector α n) (i j : Fin n) (x : α) :
    (v.set i x).get j = if j = i then x else v.get j := by
  rw [Vector.get_eq_getElem, Vector.get_eq_getElem, Vector.getElem_set]
  by_cases h : j = i
  · subst h; simp
  · have h' : ¬ (i.val = j.val) := fun e => h (Fin.ext e.symm)
    simp [h, h']

/-- Reading a mapped vector. -/
theorem mapVec_get {α β : Type} {n : Nat} (g : α → β) (v : Vector α n) (i : Fin n) :
    (mapVec g v).get i = g (v.get i) := by
  simp only [mapVec, Vector.get, Array.getElem_toList, List.getElem_map, List.getElem_toArray]
  rfl

/-- Two vectors that agree at every index are equal. -/
theorem vector_ext_get {α : Type} {n : Nat} {v w : Vector α n} (h : ∀ i, v.get i = w.get i) : v = w := by
  apply Vector.ext
  intro i hi
  simpa [Vector.get_eq_getElem] using h ⟨i, hi⟩

namespace State

/-! ## Each update read through its own accessor -/

@[simp] theorem frame_setFrame (s : State) (f k : Frame) (r : FrameRec) :
    (s.setFrame f r).frame k = if k = f then r else s.frame k := vector_get_set _ _ _ _
@[simp] theorem ctx_setCtx (s : State) (c d : Ctx) (r : CtxRec) :
    (s.setCtx c r).ctx d = if d = c then r else s.ctx d := vector_get_set _ _ _ _
@[simp] theorem teardown_setTeardown (s : State) (c d : Ctx) (t : Option Teardown) :
    (s.setTeardown c t).teardown d = if d = c then t else s.teardown d := vector_get_set _ _ _ _
@[simp] theorem offer_setOffer (s : State) (i j : OfferId) (x : Option OfferRec) :
    (s.setOffer i x).offer j = if j = i then x else s.offer j := vector_get_set _ _ _ _
@[simp] theorem port_setPort (s : State) (p q : Port) (r : PortRec) :
    (s.setPort p r).port q = if q = p then r else s.port q := vector_get_set _ _ _ _
@[simp] theorem entry_setEntry (s : State) (c d : Ctx) (g h : Page) (e : Option MapEntry) :
    (s.setEntry c g e).entry d h = if d = c ∧ h = g then e else s.entry d h := by
  simp only [setEntry, entry]
  rw [vector_get_set]
  by_cases hd : d = c
  · subst hd; simp only [if_true, true_and]; exact vector_get_set _ _ _ _
  · simp [hd]

/-! ## Each update read through the other accessors -/

@[simp] theorem ctx_setFrame (s : State) (f : Frame) (r : FrameRec) (d : Ctx) : (s.setFrame f r).ctx d = s.ctx d := rfl
@[simp] theorem teardown_setFrame (s : State) (f : Frame) (r : FrameRec) (d : Ctx) : (s.setFrame f r).teardown d = s.teardown d := rfl
@[simp] theorem entry_setFrame (s : State) (f : Frame) (r : FrameRec) (d : Ctx) (h : Page) : (s.setFrame f r).entry d h = s.entry d h := rfl
@[simp] theorem offer_setFrame (s : State) (f : Frame) (r : FrameRec) (j : OfferId) : (s.setFrame f r).offer j = s.offer j := rfl
@[simp] theorem port_setFrame (s : State) (f : Frame) (r : FrameRec) (q : Port) : (s.setFrame f r).port q = s.port q := rfl
@[simp] theorem frame_setCtx (s : State) (c : Ctx) (r : CtxRec) (k : Frame) : (s.setCtx c r).frame k = s.frame k := rfl
@[simp] theorem teardown_setCtx (s : State) (c : Ctx) (r : CtxRec) (d : Ctx) : (s.setCtx c r).teardown d = s.teardown d := rfl
@[simp] theorem entry_setCtx (s : State) (c : Ctx) (r : CtxRec) (d : Ctx) (h : Page) : (s.setCtx c r).entry d h = s.entry d h := rfl
@[simp] theorem offer_setCtx (s : State) (c : Ctx) (r : CtxRec) (j : OfferId) : (s.setCtx c r).offer j = s.offer j := rfl
@[simp] theorem port_setCtx (s : State) (c : Ctx) (r : CtxRec) (q : Port) : (s.setCtx c r).port q = s.port q := rfl
@[simp] theorem frame_setTeardown (s : State) (c : Ctx) (t : Option Teardown) (k : Frame) : (s.setTeardown c t).frame k = s.frame k := rfl
@[simp] theorem ctx_setTeardown (s : State) (c : Ctx) (t : Option Teardown) (d : Ctx) : (s.setTeardown c t).ctx d = s.ctx d := rfl
@[simp] theorem entry_setTeardown (s : State) (c : Ctx) (t : Option Teardown) (d : Ctx) (h : Page) : (s.setTeardown c t).entry d h = s.entry d h := rfl
@[simp] theorem offer_setTeardown (s : State) (c : Ctx) (t : Option Teardown) (j : OfferId) : (s.setTeardown c t).offer j = s.offer j := rfl
@[simp] theorem port_setTeardown (s : State) (c : Ctx) (t : Option Teardown) (q : Port) : (s.setTeardown c t).port q = s.port q := rfl
@[simp] theorem frame_setEntry (s : State) (c : Ctx) (g : Page) (e : Option MapEntry) (k : Frame) : (s.setEntry c g e).frame k = s.frame k := rfl
@[simp] theorem ctx_setEntry (s : State) (c : Ctx) (g : Page) (e : Option MapEntry) (d : Ctx) : (s.setEntry c g e).ctx d = s.ctx d := rfl
@[simp] theorem teardown_setEntry (s : State) (c : Ctx) (g : Page) (e : Option MapEntry) (d : Ctx) : (s.setEntry c g e).teardown d = s.teardown d := rfl
@[simp] theorem offer_setEntry (s : State) (c : Ctx) (g : Page) (e : Option MapEntry) (j : OfferId) : (s.setEntry c g e).offer j = s.offer j := rfl
@[simp] theorem port_setEntry (s : State) (c : Ctx) (g : Page) (e : Option MapEntry) (q : Port) : (s.setEntry c g e).port q = s.port q := rfl
@[simp] theorem frame_setOffer (s : State) (i : OfferId) (o : Option OfferRec) (k : Frame) : (s.setOffer i o).frame k = s.frame k := rfl
@[simp] theorem ctx_setOffer (s : State) (i : OfferId) (o : Option OfferRec) (d : Ctx) : (s.setOffer i o).ctx d = s.ctx d := rfl
@[simp] theorem teardown_setOffer (s : State) (i : OfferId) (o : Option OfferRec) (d : Ctx) : (s.setOffer i o).teardown d = s.teardown d := rfl
@[simp] theorem entry_setOffer (s : State) (i : OfferId) (o : Option OfferRec) (d : Ctx) (h : Page) : (s.setOffer i o).entry d h = s.entry d h := rfl
@[simp] theorem port_setOffer (s : State) (i : OfferId) (o : Option OfferRec) (q : Port) : (s.setOffer i o).port q = s.port q := rfl
@[simp] theorem frame_setPort (s : State) (p : Port) (r : PortRec) (k : Frame) : (s.setPort p r).frame k = s.frame k := rfl
@[simp] theorem ctx_setPort (s : State) (p : Port) (r : PortRec) (d : Ctx) : (s.setPort p r).ctx d = s.ctx d := rfl
@[simp] theorem teardown_setPort (s : State) (p : Port) (r : PortRec) (d : Ctx) : (s.setPort p r).teardown d = s.teardown d := rfl
@[simp] theorem entry_setPort (s : State) (p : Port) (r : PortRec) (d : Ctx) (h : Page) : (s.setPort p r).entry d h = s.entry d h := rfl
@[simp] theorem offer_setPort (s : State) (p : Port) (r : PortRec) (j : OfferId) : (s.setPort p r).offer j = s.offer j := rfl

/-! ## The fields that each update leaves alone -/

@[simp] theorem rstAsserted_setFrame (s : State) (f : Frame) (r : FrameRec) : (s.setFrame f r).rstAsserted = s.rstAsserted := rfl
@[simp] theorem part_setFrame (s : State) (f : Frame) (r : FrameRec) : (s.setFrame f r).part = s.part := rfl
@[simp] theorem usTicks_setFrame (s : State) (f : Frame) (r : FrameRec) : (s.setFrame f r).usTicks = s.usTicks := rfl
@[simp] theorem msTicks_setFrame (s : State) (f : Frame) (r : FrameRec) : (s.setFrame f r).msTicks = s.msTicks := rfl
@[simp] theorem freeList_setFrame (s : State) (f : Frame) (r : FrameRec) : (s.setFrame f r).freeList = s.freeList := rfl
@[simp] theorem scrubQueue_setFrame (s : State) (f : Frame) (r : FrameRec) : (s.setFrame f r).scrubQueue = s.scrubQueue := rfl
@[simp] theorem contexts_setFrame (s : State) (f : Frame) (r : FrameRec) : (s.setFrame f r).contexts = s.contexts := rfl
@[simp] theorem teardowns_setFrame (s : State) (f : Frame) (r : FrameRec) : (s.setFrame f r).teardowns = s.teardowns := rfl
@[simp] theorem maps_setFrame (s : State) (f : Frame) (r : FrameRec) : (s.setFrame f r).maps = s.maps := rfl
@[simp] theorem offers_setFrame (s : State) (f : Frame) (r : FrameRec) : (s.setFrame f r).offers = s.offers := rfl
@[simp] theorem nextSerial_setFrame (s : State) (f : Frame) (r : FrameRec) : (s.setFrame f r).nextSerial = s.nextSerial := rfl
@[simp] theorem withdrawals_setFrame (s : State) (f : Frame) (r : FrameRec) : (s.setFrame f r).withdrawals = s.withdrawals := rfl
@[simp] theorem ports_setFrame (s : State) (f : Frame) (r : FrameRec) : (s.setFrame f r).ports = s.ports := rfl
@[simp] theorem pointer_setFrame (s : State) (f : Frame) (r : FrameRec) : (s.setFrame f r).pointer = s.pointer := rfl
@[simp] theorem scrub_setFrame (s : State) (f : Frame) (r : FrameRec) : (s.setFrame f r).scrub = s.scrub := rfl
@[simp] theorem writeGen_setFrame (s : State) (f : Frame) (r : FrameRec) : (s.setFrame f r).writeGen = s.writeGen := rfl
@[simp] theorem loadQueue_setFrame (s : State) (f : Frame) (r : FrameRec) : (s.setFrame f r).loadQueue = s.loadQueue := rfl
@[simp] theorem load_setFrame (s : State) (f : Frame) (r : FrameRec) : (s.setFrame f r).load = s.load := rfl
@[simp] theorem readGen_setFrame (s : State) (f : Frame) (r : FrameRec) : (s.setFrame f r).readGen = s.readGen := rfl
@[simp] theorem memoryRequests_setFrame (s : State) (f : Frame) (r : FrameRec) : (s.setFrame f r).memoryRequests = s.memoryRequests := rfl
@[simp] theorem choices_setFrame (s : State) (f : Frame) (r : FrameRec) : (s.setFrame f r).choices = s.choices := rfl
@[simp] theorem pending_setFrame (s : State) (f : Frame) (r : FrameRec) : (s.setFrame f r).pending = s.pending := rfl
@[simp] theorem rstAsserted_setCtx (s : State) (c : Ctx) (r : CtxRec) : (s.setCtx c r).rstAsserted = s.rstAsserted := rfl
@[simp] theorem part_setCtx (s : State) (c : Ctx) (r : CtxRec) : (s.setCtx c r).part = s.part := rfl
@[simp] theorem usTicks_setCtx (s : State) (c : Ctx) (r : CtxRec) : (s.setCtx c r).usTicks = s.usTicks := rfl
@[simp] theorem msTicks_setCtx (s : State) (c : Ctx) (r : CtxRec) : (s.setCtx c r).msTicks = s.msTicks := rfl
@[simp] theorem frames_setCtx (s : State) (c : Ctx) (r : CtxRec) : (s.setCtx c r).frames = s.frames := rfl
@[simp] theorem freeList_setCtx (s : State) (c : Ctx) (r : CtxRec) : (s.setCtx c r).freeList = s.freeList := rfl
@[simp] theorem scrubQueue_setCtx (s : State) (c : Ctx) (r : CtxRec) : (s.setCtx c r).scrubQueue = s.scrubQueue := rfl
@[simp] theorem teardowns_setCtx (s : State) (c : Ctx) (r : CtxRec) : (s.setCtx c r).teardowns = s.teardowns := rfl
@[simp] theorem maps_setCtx (s : State) (c : Ctx) (r : CtxRec) : (s.setCtx c r).maps = s.maps := rfl
@[simp] theorem offers_setCtx (s : State) (c : Ctx) (r : CtxRec) : (s.setCtx c r).offers = s.offers := rfl
@[simp] theorem nextSerial_setCtx (s : State) (c : Ctx) (r : CtxRec) : (s.setCtx c r).nextSerial = s.nextSerial := rfl
@[simp] theorem withdrawals_setCtx (s : State) (c : Ctx) (r : CtxRec) : (s.setCtx c r).withdrawals = s.withdrawals := rfl
@[simp] theorem ports_setCtx (s : State) (c : Ctx) (r : CtxRec) : (s.setCtx c r).ports = s.ports := rfl
@[simp] theorem pointer_setCtx (s : State) (c : Ctx) (r : CtxRec) : (s.setCtx c r).pointer = s.pointer := rfl
@[simp] theorem scrub_setCtx (s : State) (c : Ctx) (r : CtxRec) : (s.setCtx c r).scrub = s.scrub := rfl
@[simp] theorem writeGen_setCtx (s : State) (c : Ctx) (r : CtxRec) : (s.setCtx c r).writeGen = s.writeGen := rfl
@[simp] theorem loadQueue_setCtx (s : State) (c : Ctx) (r : CtxRec) : (s.setCtx c r).loadQueue = s.loadQueue := rfl
@[simp] theorem load_setCtx (s : State) (c : Ctx) (r : CtxRec) : (s.setCtx c r).load = s.load := rfl
@[simp] theorem readGen_setCtx (s : State) (c : Ctx) (r : CtxRec) : (s.setCtx c r).readGen = s.readGen := rfl
@[simp] theorem memoryRequests_setCtx (s : State) (c : Ctx) (r : CtxRec) : (s.setCtx c r).memoryRequests = s.memoryRequests := rfl
@[simp] theorem choices_setCtx (s : State) (c : Ctx) (r : CtxRec) : (s.setCtx c r).choices = s.choices := rfl
@[simp] theorem pending_setCtx (s : State) (c : Ctx) (r : CtxRec) : (s.setCtx c r).pending = s.pending := rfl
@[simp] theorem rstAsserted_setTeardown (s : State) (c : Ctx) (t : Option Teardown) : (s.setTeardown c t).rstAsserted = s.rstAsserted := rfl
@[simp] theorem part_setTeardown (s : State) (c : Ctx) (t : Option Teardown) : (s.setTeardown c t).part = s.part := rfl
@[simp] theorem usTicks_setTeardown (s : State) (c : Ctx) (t : Option Teardown) : (s.setTeardown c t).usTicks = s.usTicks := rfl
@[simp] theorem msTicks_setTeardown (s : State) (c : Ctx) (t : Option Teardown) : (s.setTeardown c t).msTicks = s.msTicks := rfl
@[simp] theorem frames_setTeardown (s : State) (c : Ctx) (t : Option Teardown) : (s.setTeardown c t).frames = s.frames := rfl
@[simp] theorem freeList_setTeardown (s : State) (c : Ctx) (t : Option Teardown) : (s.setTeardown c t).freeList = s.freeList := rfl
@[simp] theorem scrubQueue_setTeardown (s : State) (c : Ctx) (t : Option Teardown) : (s.setTeardown c t).scrubQueue = s.scrubQueue := rfl
@[simp] theorem contexts_setTeardown (s : State) (c : Ctx) (t : Option Teardown) : (s.setTeardown c t).contexts = s.contexts := rfl
@[simp] theorem maps_setTeardown (s : State) (c : Ctx) (t : Option Teardown) : (s.setTeardown c t).maps = s.maps := rfl
@[simp] theorem offers_setTeardown (s : State) (c : Ctx) (t : Option Teardown) : (s.setTeardown c t).offers = s.offers := rfl
@[simp] theorem nextSerial_setTeardown (s : State) (c : Ctx) (t : Option Teardown) : (s.setTeardown c t).nextSerial = s.nextSerial := rfl
@[simp] theorem withdrawals_setTeardown (s : State) (c : Ctx) (t : Option Teardown) : (s.setTeardown c t).withdrawals = s.withdrawals := rfl
@[simp] theorem ports_setTeardown (s : State) (c : Ctx) (t : Option Teardown) : (s.setTeardown c t).ports = s.ports := rfl
@[simp] theorem pointer_setTeardown (s : State) (c : Ctx) (t : Option Teardown) : (s.setTeardown c t).pointer = s.pointer := rfl
@[simp] theorem scrub_setTeardown (s : State) (c : Ctx) (t : Option Teardown) : (s.setTeardown c t).scrub = s.scrub := rfl
@[simp] theorem writeGen_setTeardown (s : State) (c : Ctx) (t : Option Teardown) : (s.setTeardown c t).writeGen = s.writeGen := rfl
@[simp] theorem loadQueue_setTeardown (s : State) (c : Ctx) (t : Option Teardown) : (s.setTeardown c t).loadQueue = s.loadQueue := rfl
@[simp] theorem load_setTeardown (s : State) (c : Ctx) (t : Option Teardown) : (s.setTeardown c t).load = s.load := rfl
@[simp] theorem readGen_setTeardown (s : State) (c : Ctx) (t : Option Teardown) : (s.setTeardown c t).readGen = s.readGen := rfl
@[simp] theorem memoryRequests_setTeardown (s : State) (c : Ctx) (t : Option Teardown) : (s.setTeardown c t).memoryRequests = s.memoryRequests := rfl
@[simp] theorem choices_setTeardown (s : State) (c : Ctx) (t : Option Teardown) : (s.setTeardown c t).choices = s.choices := rfl
@[simp] theorem pending_setTeardown (s : State) (c : Ctx) (t : Option Teardown) : (s.setTeardown c t).pending = s.pending := rfl
@[simp] theorem rstAsserted_setEntry (s : State) (c : Ctx) (g : Page) (e : Option MapEntry) : (s.setEntry c g e).rstAsserted = s.rstAsserted := rfl
@[simp] theorem part_setEntry (s : State) (c : Ctx) (g : Page) (e : Option MapEntry) : (s.setEntry c g e).part = s.part := rfl
@[simp] theorem usTicks_setEntry (s : State) (c : Ctx) (g : Page) (e : Option MapEntry) : (s.setEntry c g e).usTicks = s.usTicks := rfl
@[simp] theorem msTicks_setEntry (s : State) (c : Ctx) (g : Page) (e : Option MapEntry) : (s.setEntry c g e).msTicks = s.msTicks := rfl
@[simp] theorem frames_setEntry (s : State) (c : Ctx) (g : Page) (e : Option MapEntry) : (s.setEntry c g e).frames = s.frames := rfl
@[simp] theorem freeList_setEntry (s : State) (c : Ctx) (g : Page) (e : Option MapEntry) : (s.setEntry c g e).freeList = s.freeList := rfl
@[simp] theorem scrubQueue_setEntry (s : State) (c : Ctx) (g : Page) (e : Option MapEntry) : (s.setEntry c g e).scrubQueue = s.scrubQueue := rfl
@[simp] theorem contexts_setEntry (s : State) (c : Ctx) (g : Page) (e : Option MapEntry) : (s.setEntry c g e).contexts = s.contexts := rfl
@[simp] theorem teardowns_setEntry (s : State) (c : Ctx) (g : Page) (e : Option MapEntry) : (s.setEntry c g e).teardowns = s.teardowns := rfl
@[simp] theorem offers_setEntry (s : State) (c : Ctx) (g : Page) (e : Option MapEntry) : (s.setEntry c g e).offers = s.offers := rfl
@[simp] theorem nextSerial_setEntry (s : State) (c : Ctx) (g : Page) (e : Option MapEntry) : (s.setEntry c g e).nextSerial = s.nextSerial := rfl
@[simp] theorem withdrawals_setEntry (s : State) (c : Ctx) (g : Page) (e : Option MapEntry) : (s.setEntry c g e).withdrawals = s.withdrawals := rfl
@[simp] theorem ports_setEntry (s : State) (c : Ctx) (g : Page) (e : Option MapEntry) : (s.setEntry c g e).ports = s.ports := rfl
@[simp] theorem pointer_setEntry (s : State) (c : Ctx) (g : Page) (e : Option MapEntry) : (s.setEntry c g e).pointer = s.pointer := rfl
@[simp] theorem scrub_setEntry (s : State) (c : Ctx) (g : Page) (e : Option MapEntry) : (s.setEntry c g e).scrub = s.scrub := rfl
@[simp] theorem writeGen_setEntry (s : State) (c : Ctx) (g : Page) (e : Option MapEntry) : (s.setEntry c g e).writeGen = s.writeGen := rfl
@[simp] theorem loadQueue_setEntry (s : State) (c : Ctx) (g : Page) (e : Option MapEntry) : (s.setEntry c g e).loadQueue = s.loadQueue := rfl
@[simp] theorem load_setEntry (s : State) (c : Ctx) (g : Page) (e : Option MapEntry) : (s.setEntry c g e).load = s.load := rfl
@[simp] theorem readGen_setEntry (s : State) (c : Ctx) (g : Page) (e : Option MapEntry) : (s.setEntry c g e).readGen = s.readGen := rfl
@[simp] theorem memoryRequests_setEntry (s : State) (c : Ctx) (g : Page) (e : Option MapEntry) : (s.setEntry c g e).memoryRequests = s.memoryRequests := rfl
@[simp] theorem choices_setEntry (s : State) (c : Ctx) (g : Page) (e : Option MapEntry) : (s.setEntry c g e).choices = s.choices := rfl
@[simp] theorem pending_setEntry (s : State) (c : Ctx) (g : Page) (e : Option MapEntry) : (s.setEntry c g e).pending = s.pending := rfl
@[simp] theorem rstAsserted_setOffer (s : State) (i : OfferId) (o : Option OfferRec) : (s.setOffer i o).rstAsserted = s.rstAsserted := rfl
@[simp] theorem part_setOffer (s : State) (i : OfferId) (o : Option OfferRec) : (s.setOffer i o).part = s.part := rfl
@[simp] theorem usTicks_setOffer (s : State) (i : OfferId) (o : Option OfferRec) : (s.setOffer i o).usTicks = s.usTicks := rfl
@[simp] theorem msTicks_setOffer (s : State) (i : OfferId) (o : Option OfferRec) : (s.setOffer i o).msTicks = s.msTicks := rfl
@[simp] theorem frames_setOffer (s : State) (i : OfferId) (o : Option OfferRec) : (s.setOffer i o).frames = s.frames := rfl
@[simp] theorem freeList_setOffer (s : State) (i : OfferId) (o : Option OfferRec) : (s.setOffer i o).freeList = s.freeList := rfl
@[simp] theorem scrubQueue_setOffer (s : State) (i : OfferId) (o : Option OfferRec) : (s.setOffer i o).scrubQueue = s.scrubQueue := rfl
@[simp] theorem contexts_setOffer (s : State) (i : OfferId) (o : Option OfferRec) : (s.setOffer i o).contexts = s.contexts := rfl
@[simp] theorem teardowns_setOffer (s : State) (i : OfferId) (o : Option OfferRec) : (s.setOffer i o).teardowns = s.teardowns := rfl
@[simp] theorem maps_setOffer (s : State) (i : OfferId) (o : Option OfferRec) : (s.setOffer i o).maps = s.maps := rfl
@[simp] theorem nextSerial_setOffer (s : State) (i : OfferId) (o : Option OfferRec) : (s.setOffer i o).nextSerial = s.nextSerial := rfl
@[simp] theorem withdrawals_setOffer (s : State) (i : OfferId) (o : Option OfferRec) : (s.setOffer i o).withdrawals = s.withdrawals := rfl
@[simp] theorem ports_setOffer (s : State) (i : OfferId) (o : Option OfferRec) : (s.setOffer i o).ports = s.ports := rfl
@[simp] theorem pointer_setOffer (s : State) (i : OfferId) (o : Option OfferRec) : (s.setOffer i o).pointer = s.pointer := rfl
@[simp] theorem scrub_setOffer (s : State) (i : OfferId) (o : Option OfferRec) : (s.setOffer i o).scrub = s.scrub := rfl
@[simp] theorem writeGen_setOffer (s : State) (i : OfferId) (o : Option OfferRec) : (s.setOffer i o).writeGen = s.writeGen := rfl
@[simp] theorem loadQueue_setOffer (s : State) (i : OfferId) (o : Option OfferRec) : (s.setOffer i o).loadQueue = s.loadQueue := rfl
@[simp] theorem load_setOffer (s : State) (i : OfferId) (o : Option OfferRec) : (s.setOffer i o).load = s.load := rfl
@[simp] theorem readGen_setOffer (s : State) (i : OfferId) (o : Option OfferRec) : (s.setOffer i o).readGen = s.readGen := rfl
@[simp] theorem memoryRequests_setOffer (s : State) (i : OfferId) (o : Option OfferRec) : (s.setOffer i o).memoryRequests = s.memoryRequests := rfl
@[simp] theorem choices_setOffer (s : State) (i : OfferId) (o : Option OfferRec) : (s.setOffer i o).choices = s.choices := rfl
@[simp] theorem pending_setOffer (s : State) (i : OfferId) (o : Option OfferRec) : (s.setOffer i o).pending = s.pending := rfl
@[simp] theorem rstAsserted_setPort (s : State) (p : Port) (r : PortRec) : (s.setPort p r).rstAsserted = s.rstAsserted := rfl
@[simp] theorem part_setPort (s : State) (p : Port) (r : PortRec) : (s.setPort p r).part = s.part := rfl
@[simp] theorem usTicks_setPort (s : State) (p : Port) (r : PortRec) : (s.setPort p r).usTicks = s.usTicks := rfl
@[simp] theorem msTicks_setPort (s : State) (p : Port) (r : PortRec) : (s.setPort p r).msTicks = s.msTicks := rfl
@[simp] theorem frames_setPort (s : State) (p : Port) (r : PortRec) : (s.setPort p r).frames = s.frames := rfl
@[simp] theorem freeList_setPort (s : State) (p : Port) (r : PortRec) : (s.setPort p r).freeList = s.freeList := rfl
@[simp] theorem scrubQueue_setPort (s : State) (p : Port) (r : PortRec) : (s.setPort p r).scrubQueue = s.scrubQueue := rfl
@[simp] theorem contexts_setPort (s : State) (p : Port) (r : PortRec) : (s.setPort p r).contexts = s.contexts := rfl
@[simp] theorem teardowns_setPort (s : State) (p : Port) (r : PortRec) : (s.setPort p r).teardowns = s.teardowns := rfl
@[simp] theorem maps_setPort (s : State) (p : Port) (r : PortRec) : (s.setPort p r).maps = s.maps := rfl
@[simp] theorem offers_setPort (s : State) (p : Port) (r : PortRec) : (s.setPort p r).offers = s.offers := rfl
@[simp] theorem nextSerial_setPort (s : State) (p : Port) (r : PortRec) : (s.setPort p r).nextSerial = s.nextSerial := rfl
@[simp] theorem withdrawals_setPort (s : State) (p : Port) (r : PortRec) : (s.setPort p r).withdrawals = s.withdrawals := rfl
@[simp] theorem pointer_setPort (s : State) (p : Port) (r : PortRec) : (s.setPort p r).pointer = s.pointer := rfl
@[simp] theorem scrub_setPort (s : State) (p : Port) (r : PortRec) : (s.setPort p r).scrub = s.scrub := rfl
@[simp] theorem writeGen_setPort (s : State) (p : Port) (r : PortRec) : (s.setPort p r).writeGen = s.writeGen := rfl
@[simp] theorem loadQueue_setPort (s : State) (p : Port) (r : PortRec) : (s.setPort p r).loadQueue = s.loadQueue := rfl
@[simp] theorem load_setPort (s : State) (p : Port) (r : PortRec) : (s.setPort p r).load = s.load := rfl
@[simp] theorem readGen_setPort (s : State) (p : Port) (r : PortRec) : (s.setPort p r).readGen = s.readGen := rfl
@[simp] theorem memoryRequests_setPort (s : State) (p : Port) (r : PortRec) : (s.setPort p r).memoryRequests = s.memoryRequests := rfl
@[simp] theorem choices_setPort (s : State) (p : Port) (r : PortRec) : (s.setPort p r).choices = s.choices := rfl
@[simp] theorem pending_setPort (s : State) (p : Port) (r : PortRec) : (s.setPort p r).pending = s.pending := rfl

/-! ## Accessors of a state written out by its fields -/

section written

variable (x0 : Bool) (x1 : BitVec 2) (x2 : Nat) (x3 : Nat) (x4 : Vector FrameRec 4096)
  (x5 : List Frame) (x6 : List Frame) (x7 : Vector CtxRec 16) (x8 : Vector (Option Teardown) 16)
  (x9 : Vector MapTable 16) (x10 : Vector (Option OfferRec) 16) (x11 : BitVec 16) (x12 : List Withdrawal) (x13 : Vector PortRec 4)
  (x14 : MemoryRequester) (x15 : ScrubState) (x16 : Byte) (x17 : List LoadRec) (x18 : LoadState)
  (x19 : Byte) (x20 : List MemoryRequest) (x21 : Nat) (x22 : List Instr)

@[simp] theorem frame_mk (k : Frame) :
    (State.mk x0 x1 x2 x3 x4 x5 x6 x7 x8 x9 x10 x11 x12 x13 x14 x15 x16 x17 x18 x19 x20 x21 x22).frame k = x4.get k := rfl
@[simp] theorem ctx_mk (d : Ctx) :
    (State.mk x0 x1 x2 x3 x4 x5 x6 x7 x8 x9 x10 x11 x12 x13 x14 x15 x16 x17 x18 x19 x20 x21 x22).ctx d = x7.get d := rfl
@[simp] theorem teardown_mk (d : Ctx) :
    (State.mk x0 x1 x2 x3 x4 x5 x6 x7 x8 x9 x10 x11 x12 x13 x14 x15 x16 x17 x18 x19 x20 x21 x22).teardown d = x8.get d := rfl
@[simp] theorem entry_mk (d : Ctx) (h : Page) :
    (State.mk x0 x1 x2 x3 x4 x5 x6 x7 x8 x9 x10 x11 x12 x13 x14 x15 x16 x17 x18 x19 x20 x21 x22).entry d h = (x9.get d).get h := rfl
@[simp] theorem offer_mk (j : OfferId) :
    (State.mk x0 x1 x2 x3 x4 x5 x6 x7 x8 x9 x10 x11 x12 x13 x14 x15 x16 x17 x18 x19 x20 x21 x22).offer j = x10.get j := rfl
@[simp] theorem port_mk (q : Port) :
    (State.mk x0 x1 x2 x3 x4 x5 x6 x7 x8 x9 x10 x11 x12 x13 x14 x15 x16 x17 x18 x19 x20 x21 x22).port q = x13.get q := rfl

end written

@[simp] theorem get_frame (s : State) (k : Frame) : s.frames.get k = s.frame k := rfl
@[simp] theorem get_ctx (s : State) (d : Ctx) : s.contexts.get d = s.ctx d := rfl
@[simp] theorem get_teardown (s : State) (d : Ctx) : s.teardowns.get d = s.teardown d := rfl
@[simp] theorem get_entry (s : State) (d : Ctx) (h : Page) : (s.maps.get d).get h = s.entry d h := rfl
@[simp] theorem get_offer (s : State) (j : OfferId) : s.offers.get j = s.offer j := rfl
@[simp] theorem get_port (s : State) (q : Port) : s.ports.get q = s.port q := rfl

/-- Two states with equal fields but for the frames, and equal frame records, are equal. -/
theorem frames_ext {s t : State} (h : ∀ k, s.frame k = t.frame k) : s.frames = t.frames := vector_ext_get h

/-- Equal context records make equal context tables. -/
theorem contexts_ext {s t : State} (h : ∀ d, s.ctx d = t.ctx d) : s.contexts = t.contexts := vector_ext_get h

/-- Equal port records make equal ports. -/
theorem ports_ext {s t : State} (h : ∀ q, s.port q = t.port q) : s.ports = t.ports := vector_ext_get h

/-- Equal offer slots make equal offer tables. -/
theorem offers_ext {s t : State} (h : ∀ j, s.offer j = t.offer j) : s.offers = t.offers := vector_ext_get h

/-- Equal teardowns make equal teardown tables. -/
theorem teardowns_ext {s t : State} (h : ∀ d, s.teardown d = t.teardown d) : s.teardowns = t.teardowns := vector_ext_get h

/-- Equal entries make equal map tables. -/
theorem maps_ext {s t : State} (h : ∀ d g, s.entry d g = t.entry d g) : s.maps = t.maps :=
  vector_ext_get fun d => vector_ext_get fun g => h d g

end State

/-! ## The transit slots of a port -/

namespace PortRec

@[simp] theorem slot_setSlot (r : PortRec) (i j : Slot) (x : TransitSlot) :
    (r.setSlot i x).slot j = if j = i then x else r.slot j := vector_get_set _ _ _ _

@[simp] theorem state_setSlot (r : PortRec) (i : Slot) (x : TransitSlot) : (r.setSlot i x).state = r.state := rfl
@[simp] theorem bound_setSlot (r : PortRec) (i : Slot) (x : TransitSlot) : (r.setSlot i x).bound = r.bound := rfl
@[simp] theorem binding_setSlot (r : PortRec) (i : Slot) (x : TransitSlot) : (r.setSlot i x).binding = r.binding := rfl
@[simp] theorem lastLane_setSlot (r : PortRec) (i : Slot) (x : TransitSlot) : (r.setSlot i x).lastLane = r.lastLane := rfl
@[simp] theorem prst_setSlot (r : PortRec) (i : Slot) (x : TransitSlot) : (r.setSlot i x).prst = r.prst := rfl
@[simp] theorem plainLane_setSlot (r : PortRec) (i : Slot) (x : TransitSlot) : (r.setSlot i x).plainLane = r.plainLane := rfl
@[simp] theorem elevatedLane_setSlot (r : PortRec) (i : Slot) (x : TransitSlot) : (r.setSlot i x).elevatedLane = r.elevatedLane := rfl
@[simp] theorem slots_setSlot (r : PortRec) (i : Slot) (x : TransitSlot) : (r.setSlot i x).slots = r.slots := rfl
@[simp] theorem issueQueue_setSlot (r : PortRec) (i : Slot) (x : TransitSlot) : (r.setSlot i x).issueQueue = r.issueQueue := rfl
@[simp] theorem plainCount_setSlot (r : PortRec) (i : Slot) (x : TransitSlot) : (r.setSlot i x).plainCount = r.plainCount := rfl
@[simp] theorem notices_setSlot (r : PortRec) (i : Slot) (x : TransitSlot) : (r.setSlot i x).notices = r.notices := rfl
@[simp] theorem dropped_setSlot (r : PortRec) (i : Slot) (x : TransitSlot) : (r.setSlot i x).dropped = r.dropped := rfl
@[simp] theorem arriving_setSlot (r : PortRec) (i : Slot) (x : TransitSlot) : (r.setSlot i x).arriving = r.arriving := rfl
@[simp] theorem accessResponses_setSlot (r : PortRec) (i : Slot) (x : TransitSlot) : (r.setSlot i x).accessResponses = r.accessResponses := rfl
@[simp] theorem controlResponses_setSlot (r : PortRec) (i : Slot) (x : TransitSlot) : (r.setSlot i x).controlResponses = r.controlResponses := rfl

end PortRec

/-! ## Updates by a function -/

@[simp] theorem frame_modFrame (s : State) (f k : Frame) (g : FrameRec → FrameRec) :
    (modFrame s f g).frame k = if k = f then g (s.frame f) else s.frame k := State.frame_setFrame _ _ _ _
@[simp] theorem ctx_modCtx (s : State) (c d : Ctx) (g : CtxRec → CtxRec) :
    (modCtx s c g).ctx d = if d = c then g (s.ctx c) else s.ctx d := State.ctx_setCtx _ _ _ _
@[simp] theorem port_modPort (s : State) (p q : Port) (g : PortRec → PortRec) :
    (modPort s p g).port q = if q = p then g (s.port p) else s.port q := State.port_setPort _ _ _ _

@[simp] theorem ctx_modFrame (s : State) (f : Frame) (g : FrameRec → FrameRec) (d : Ctx) : (modFrame s f g).ctx d = s.ctx d := rfl
@[simp] theorem teardown_modFrame (s : State) (f : Frame) (g : FrameRec → FrameRec) (d : Ctx) : (modFrame s f g).teardown d = s.teardown d := rfl
@[simp] theorem entry_modFrame (s : State) (f : Frame) (g : FrameRec → FrameRec) (d : Ctx) (h : Page) : (modFrame s f g).entry d h = s.entry d h := rfl
@[simp] theorem offer_modFrame (s : State) (f : Frame) (g : FrameRec → FrameRec) (j : OfferId) : (modFrame s f g).offer j = s.offer j := rfl
@[simp] theorem port_modFrame (s : State) (f : Frame) (g : FrameRec → FrameRec) (q : Port) : (modFrame s f g).port q = s.port q := rfl
@[simp] theorem rstAsserted_modFrame (s : State) (f : Frame) (g : FrameRec → FrameRec) : (modFrame s f g).rstAsserted = s.rstAsserted := rfl
@[simp] theorem part_modFrame (s : State) (f : Frame) (g : FrameRec → FrameRec) : (modFrame s f g).part = s.part := rfl
@[simp] theorem usTicks_modFrame (s : State) (f : Frame) (g : FrameRec → FrameRec) : (modFrame s f g).usTicks = s.usTicks := rfl
@[simp] theorem msTicks_modFrame (s : State) (f : Frame) (g : FrameRec → FrameRec) : (modFrame s f g).msTicks = s.msTicks := rfl
@[simp] theorem freeList_modFrame (s : State) (f : Frame) (g : FrameRec → FrameRec) : (modFrame s f g).freeList = s.freeList := rfl
@[simp] theorem scrubQueue_modFrame (s : State) (f : Frame) (g : FrameRec → FrameRec) : (modFrame s f g).scrubQueue = s.scrubQueue := rfl
@[simp] theorem contexts_modFrame (s : State) (f : Frame) (g : FrameRec → FrameRec) : (modFrame s f g).contexts = s.contexts := rfl
@[simp] theorem teardowns_modFrame (s : State) (f : Frame) (g : FrameRec → FrameRec) : (modFrame s f g).teardowns = s.teardowns := rfl
@[simp] theorem maps_modFrame (s : State) (f : Frame) (g : FrameRec → FrameRec) : (modFrame s f g).maps = s.maps := rfl
@[simp] theorem offers_modFrame (s : State) (f : Frame) (g : FrameRec → FrameRec) : (modFrame s f g).offers = s.offers := rfl
@[simp] theorem nextSerial_modFrame (s : State) (f : Frame) (g : FrameRec → FrameRec) : (modFrame s f g).nextSerial = s.nextSerial := rfl
@[simp] theorem withdrawals_modFrame (s : State) (f : Frame) (g : FrameRec → FrameRec) : (modFrame s f g).withdrawals = s.withdrawals := rfl
@[simp] theorem ports_modFrame (s : State) (f : Frame) (g : FrameRec → FrameRec) : (modFrame s f g).ports = s.ports := rfl
@[simp] theorem pointer_modFrame (s : State) (f : Frame) (g : FrameRec → FrameRec) : (modFrame s f g).pointer = s.pointer := rfl
@[simp] theorem scrub_modFrame (s : State) (f : Frame) (g : FrameRec → FrameRec) : (modFrame s f g).scrub = s.scrub := rfl
@[simp] theorem writeGen_modFrame (s : State) (f : Frame) (g : FrameRec → FrameRec) : (modFrame s f g).writeGen = s.writeGen := rfl
@[simp] theorem loadQueue_modFrame (s : State) (f : Frame) (g : FrameRec → FrameRec) : (modFrame s f g).loadQueue = s.loadQueue := rfl
@[simp] theorem load_modFrame (s : State) (f : Frame) (g : FrameRec → FrameRec) : (modFrame s f g).load = s.load := rfl
@[simp] theorem readGen_modFrame (s : State) (f : Frame) (g : FrameRec → FrameRec) : (modFrame s f g).readGen = s.readGen := rfl
@[simp] theorem memoryRequests_modFrame (s : State) (f : Frame) (g : FrameRec → FrameRec) : (modFrame s f g).memoryRequests = s.memoryRequests := rfl
@[simp] theorem choices_modFrame (s : State) (f : Frame) (g : FrameRec → FrameRec) : (modFrame s f g).choices = s.choices := rfl
@[simp] theorem pending_modFrame (s : State) (f : Frame) (g : FrameRec → FrameRec) : (modFrame s f g).pending = s.pending := rfl
@[simp] theorem frame_modCtx (s : State) (c : Ctx) (g : CtxRec → CtxRec) (k : Frame) : (modCtx s c g).frame k = s.frame k := rfl
@[simp] theorem teardown_modCtx (s : State) (c : Ctx) (g : CtxRec → CtxRec) (d : Ctx) : (modCtx s c g).teardown d = s.teardown d := rfl
@[simp] theorem entry_modCtx (s : State) (c : Ctx) (g : CtxRec → CtxRec) (d : Ctx) (h : Page) : (modCtx s c g).entry d h = s.entry d h := rfl
@[simp] theorem offer_modCtx (s : State) (c : Ctx) (g : CtxRec → CtxRec) (j : OfferId) : (modCtx s c g).offer j = s.offer j := rfl
@[simp] theorem port_modCtx (s : State) (c : Ctx) (g : CtxRec → CtxRec) (q : Port) : (modCtx s c g).port q = s.port q := rfl
@[simp] theorem rstAsserted_modCtx (s : State) (c : Ctx) (g : CtxRec → CtxRec) : (modCtx s c g).rstAsserted = s.rstAsserted := rfl
@[simp] theorem part_modCtx (s : State) (c : Ctx) (g : CtxRec → CtxRec) : (modCtx s c g).part = s.part := rfl
@[simp] theorem usTicks_modCtx (s : State) (c : Ctx) (g : CtxRec → CtxRec) : (modCtx s c g).usTicks = s.usTicks := rfl
@[simp] theorem msTicks_modCtx (s : State) (c : Ctx) (g : CtxRec → CtxRec) : (modCtx s c g).msTicks = s.msTicks := rfl
@[simp] theorem frames_modCtx (s : State) (c : Ctx) (g : CtxRec → CtxRec) : (modCtx s c g).frames = s.frames := rfl
@[simp] theorem freeList_modCtx (s : State) (c : Ctx) (g : CtxRec → CtxRec) : (modCtx s c g).freeList = s.freeList := rfl
@[simp] theorem scrubQueue_modCtx (s : State) (c : Ctx) (g : CtxRec → CtxRec) : (modCtx s c g).scrubQueue = s.scrubQueue := rfl
@[simp] theorem teardowns_modCtx (s : State) (c : Ctx) (g : CtxRec → CtxRec) : (modCtx s c g).teardowns = s.teardowns := rfl
@[simp] theorem maps_modCtx (s : State) (c : Ctx) (g : CtxRec → CtxRec) : (modCtx s c g).maps = s.maps := rfl
@[simp] theorem offers_modCtx (s : State) (c : Ctx) (g : CtxRec → CtxRec) : (modCtx s c g).offers = s.offers := rfl
@[simp] theorem nextSerial_modCtx (s : State) (c : Ctx) (g : CtxRec → CtxRec) : (modCtx s c g).nextSerial = s.nextSerial := rfl
@[simp] theorem withdrawals_modCtx (s : State) (c : Ctx) (g : CtxRec → CtxRec) : (modCtx s c g).withdrawals = s.withdrawals := rfl
@[simp] theorem ports_modCtx (s : State) (c : Ctx) (g : CtxRec → CtxRec) : (modCtx s c g).ports = s.ports := rfl
@[simp] theorem pointer_modCtx (s : State) (c : Ctx) (g : CtxRec → CtxRec) : (modCtx s c g).pointer = s.pointer := rfl
@[simp] theorem scrub_modCtx (s : State) (c : Ctx) (g : CtxRec → CtxRec) : (modCtx s c g).scrub = s.scrub := rfl
@[simp] theorem writeGen_modCtx (s : State) (c : Ctx) (g : CtxRec → CtxRec) : (modCtx s c g).writeGen = s.writeGen := rfl
@[simp] theorem loadQueue_modCtx (s : State) (c : Ctx) (g : CtxRec → CtxRec) : (modCtx s c g).loadQueue = s.loadQueue := rfl
@[simp] theorem load_modCtx (s : State) (c : Ctx) (g : CtxRec → CtxRec) : (modCtx s c g).load = s.load := rfl
@[simp] theorem readGen_modCtx (s : State) (c : Ctx) (g : CtxRec → CtxRec) : (modCtx s c g).readGen = s.readGen := rfl
@[simp] theorem memoryRequests_modCtx (s : State) (c : Ctx) (g : CtxRec → CtxRec) : (modCtx s c g).memoryRequests = s.memoryRequests := rfl
@[simp] theorem choices_modCtx (s : State) (c : Ctx) (g : CtxRec → CtxRec) : (modCtx s c g).choices = s.choices := rfl
@[simp] theorem pending_modCtx (s : State) (c : Ctx) (g : CtxRec → CtxRec) : (modCtx s c g).pending = s.pending := rfl
@[simp] theorem frame_modPort (s : State) (p : Port) (g : PortRec → PortRec) (k : Frame) : (modPort s p g).frame k = s.frame k := rfl
@[simp] theorem ctx_modPort (s : State) (p : Port) (g : PortRec → PortRec) (d : Ctx) : (modPort s p g).ctx d = s.ctx d := rfl
@[simp] theorem teardown_modPort (s : State) (p : Port) (g : PortRec → PortRec) (d : Ctx) : (modPort s p g).teardown d = s.teardown d := rfl
@[simp] theorem entry_modPort (s : State) (p : Port) (g : PortRec → PortRec) (d : Ctx) (h : Page) : (modPort s p g).entry d h = s.entry d h := rfl
@[simp] theorem offer_modPort (s : State) (p : Port) (g : PortRec → PortRec) (j : OfferId) : (modPort s p g).offer j = s.offer j := rfl
@[simp] theorem rstAsserted_modPort (s : State) (p : Port) (g : PortRec → PortRec) : (modPort s p g).rstAsserted = s.rstAsserted := rfl
@[simp] theorem part_modPort (s : State) (p : Port) (g : PortRec → PortRec) : (modPort s p g).part = s.part := rfl
@[simp] theorem usTicks_modPort (s : State) (p : Port) (g : PortRec → PortRec) : (modPort s p g).usTicks = s.usTicks := rfl
@[simp] theorem msTicks_modPort (s : State) (p : Port) (g : PortRec → PortRec) : (modPort s p g).msTicks = s.msTicks := rfl
@[simp] theorem frames_modPort (s : State) (p : Port) (g : PortRec → PortRec) : (modPort s p g).frames = s.frames := rfl
@[simp] theorem freeList_modPort (s : State) (p : Port) (g : PortRec → PortRec) : (modPort s p g).freeList = s.freeList := rfl
@[simp] theorem scrubQueue_modPort (s : State) (p : Port) (g : PortRec → PortRec) : (modPort s p g).scrubQueue = s.scrubQueue := rfl
@[simp] theorem contexts_modPort (s : State) (p : Port) (g : PortRec → PortRec) : (modPort s p g).contexts = s.contexts := rfl
@[simp] theorem teardowns_modPort (s : State) (p : Port) (g : PortRec → PortRec) : (modPort s p g).teardowns = s.teardowns := rfl
@[simp] theorem maps_modPort (s : State) (p : Port) (g : PortRec → PortRec) : (modPort s p g).maps = s.maps := rfl
@[simp] theorem offers_modPort (s : State) (p : Port) (g : PortRec → PortRec) : (modPort s p g).offers = s.offers := rfl
@[simp] theorem nextSerial_modPort (s : State) (p : Port) (g : PortRec → PortRec) : (modPort s p g).nextSerial = s.nextSerial := rfl
@[simp] theorem withdrawals_modPort (s : State) (p : Port) (g : PortRec → PortRec) : (modPort s p g).withdrawals = s.withdrawals := rfl
@[simp] theorem pointer_modPort (s : State) (p : Port) (g : PortRec → PortRec) : (modPort s p g).pointer = s.pointer := rfl
@[simp] theorem scrub_modPort (s : State) (p : Port) (g : PortRec → PortRec) : (modPort s p g).scrub = s.scrub := rfl
@[simp] theorem writeGen_modPort (s : State) (p : Port) (g : PortRec → PortRec) : (modPort s p g).writeGen = s.writeGen := rfl
@[simp] theorem loadQueue_modPort (s : State) (p : Port) (g : PortRec → PortRec) : (modPort s p g).loadQueue = s.loadQueue := rfl
@[simp] theorem load_modPort (s : State) (p : Port) (g : PortRec → PortRec) : (modPort s p g).load = s.load := rfl
@[simp] theorem readGen_modPort (s : State) (p : Port) (g : PortRec → PortRec) : (modPort s p g).readGen = s.readGen := rfl
@[simp] theorem memoryRequests_modPort (s : State) (p : Port) (g : PortRec → PortRec) : (modPort s p g).memoryRequests = s.memoryRequests := rfl
@[simp] theorem choices_modPort (s : State) (p : Port) (g : PortRec → PortRec) : (modPort s p g).choices = s.choices := rfl
@[simp] theorem pending_modPort (s : State) (p : Port) (g : PortRec → PortRec) : (modPort s p g).pending = s.pending := rfl

end Sys2Proof.Machine
end

