-- ==== Sys2Proof/Laws/Ops.lean ====
section
/-! SUPPORT. One lemma for each shared operation that says once everything it can do: which parts of the state it writes, and
with what. Proofs cite these and do not unfold the operation. -/

namespace Sys2Proof.Machine

open Sys2Proof

/-! ## Updates -/

theorem modFrame_eq (s : State) (f : Frame) (g : FrameRec → FrameRec) :
    modFrame s f g = { s with frames := s.frames.set f (g (s.frame f)) } := rfl

theorem modCtx_eq (s : State) (c : Ctx) (g : CtxRec → CtxRec) :
    modCtx s c g = { s with contexts := s.contexts.set c (g (s.ctx c)) } := rfl

theorem modPort_eq (s : State) (p : Port) (g : PortRec → PortRec) :
    modPort s p g = { s with ports := s.ports.set p (g (s.port p)) } := rfl

/-! ## Choices -/

/-- A free choice: none of no candidate; one of the candidates otherwise, and only the count of choices may change. -/
theorem choose_eq_none {α : Type} (s : State) (l : List α) : choose s l = none ↔ l = [] := by
  match l with
  | [] => simp [choose]
  | [x] => simp [choose]
  | x :: y :: rest => simp [choose]

theorem choose_singleton {α : Type} (s : State) (x : α) : choose s [x] = some (s, x) := rfl

/-! ## Response streams -/

theorem sendAccess_eq (s : State) (p : Port) (r : AccessResponse) :
    sendAccess s p r = s.setPort p
      { (s.port p) with accessResponses := (s.port p).accessResponses ++ [r] } := rfl

theorem sendControl_eq (s : State) (p : Port) (bytes : List Byte) :
    sendControl s p bytes = s.setPort p
      { (s.port p) with controlResponses := (s.port p).controlResponses ++ [bytes] } := rfl

theorem answerAccess_eq (s : State) (p : Port) (r : AccessResponse) :
    answerAccess s p r = s.setPort p
      (if (s.port p).state = .up then { (s.port p) with accessResponses := (s.port p).accessResponses ++ [r] }
        else s.port p) := rfl

theorem activate_eq (s : State) (p : Port) (t : Tag) :
    activate s p t = s.setPort p
      { (s.port p) with slots := (s.port p).slots.map fun q =>
          if q.tag = t then { q with standing := .active } else q } := rfl

/-- A response to a tag with no slot changes nothing. -/
theorem respond_of_none {s : State} {p : Port} {t : Tag} (h : slotOf (s.port p) t = none) (v : Verdict) (rs : List Byte) :
    respond s p t v rs = s := by
  unfold respond PortRec.responded
  rw [modPort_eq, h]
  cases s
  simp only [State.port]
  congr
  exact vector_ext_get fun q => by rw [vector_get_set]; split <;> simp_all

/-- A response writes one port only. -/
theorem respond_eq (s : State) (p : Port) (t : Tag) (v : Verdict) (rs : List Byte) :
    respond s p t v rs = { s with ports := s.ports.set p ((s.port p).responded t v rs) } := rfl

/-- A response leaves everything of its port but the control slots and the control stream. -/
theorem responded_eq (r : PortRec) (t : Tag) (v : Verdict) (rs : List Byte) :
    r.responded t v rs =
      { r with
        slots := (r.responded t v rs).slots
        controlResponses := (r.responded t v rs).controlResponses } := by
  unfold PortRec.responded
  split
  · rfl
  · dsimp only
    split <;> rfl

/-! ## Notices -/

theorem address_eq (s : State) (p : Port) (n : Notice) :
    address s p n = { s with ports := s.ports.set p ((s.port p).noticed n) } := rfl

/-- A notice leaves everything of its port but the notice queue and the dropped count. -/
theorem noticed_eq (r : PortRec) (n : Notice) :
    r.noticed n = { r with notices := (r.noticed n).notices, dropped := (r.noticed n).dropped } := by
  unfold PortRec.noticed
  split
  · split <;> rfl
  · rfl

/-- A notice to a context's owner port writes ports only. -/
theorem addressOwner_eq (s : State) (c : Ctx) (n : Notice) :
    addressOwner s c n = { s with ports := (addressOwner s c n).ports } := by
  unfold addressOwner
  split <;> rfl

/-- A notice to the owner port of a frame's origin writes ports only. -/
theorem addressOrigin_eq (s : State) (f : Frame) (n : Notice) :
    addressOrigin s f n = { s with ports := (addressOrigin s f n).ports } := by
  unfold addressOrigin
  split
  · exact addressOwner_eq _ _ _
  · rfl

theorem addressOwner_some {s : State} {c : Ctx} {p : Port} (h : (s.ctx c).owner = some p) (n : Notice) :
    addressOwner s c n = address s p n := by
  unfold addressOwner
  rw [h]

theorem addressOwner_none {s : State} {c : Ctx} (h : (s.ctx c).owner = none) (n : Notice) : addressOwner s c n = s := by
  unfold addressOwner
  rw [h]

/-- A notice kept for the end of the event leaves everything else of its port. -/
theorem notified_eq (r : PortRec) (n : Notice) : r.notified n = { r with arriving := (r.notified n).arriving } := by
  unfold PortRec.notified
  split <;> rfl

theorem notify_eq (s : State) (p : Port) (n : Notice) :
    notify s p n = { s with ports := s.ports.set p ((s.port p).notified n) } := rfl

/-- A notice kept for a context's owner port writes ports only. -/
theorem notifyOwner_eq (s : State) (c : Ctx) (n : Notice) :
    notifyOwner s c n = { s with ports := (notifyOwner s c n).ports } := by
  unfold notifyOwner
  split <;> rfl

/-- A notice kept for the owner port of a frame's origin writes ports only. -/
theorem notifyOrigin_eq (s : State) (f : Frame) (n : Notice) :
    notifyOrigin s f n = { s with ports := (notifyOrigin s f n).ports } := by
  unfold notifyOrigin
  split
  · exact notifyOwner_eq _ _ _
  · rfl

/-- Placing notices leaves everything of the port but the notice queue and the dropped count; none is left to place. -/
theorem placed_eq (r : PortRec) :
    r.placed = { r with notices := r.placed.notices, dropped := r.placed.dropped, arriving := [] } := by
  unfold PortRec.placed
  generalize inNoticeOrder r.arriving = ns
  suffices h : ∀ (ns : List Notice) (u : PortRec), u.arriving = [] →
      ns.foldl PortRec.noticed u =
        { u with notices := (ns.foldl PortRec.noticed u).notices, dropped := (ns.foldl PortRec.noticed u).dropped } from by
    rw [h ns { r with arriving := [] } rfl]
  intro ns
  induction ns with
  | nil => exact fun _ _ => rfl
  | cons n ns ih =>
    intro u hu
    rw [List.foldl_cons, ih _ (by rw [noticed_eq]; exact hu), noticed_eq]

/-- With no notice kept nothing is placed. -/
theorem placed_of_nil {r : PortRec} (h : r.arriving = []) : r.placed = r := by
  unfold PortRec.placed
  rw [h]
  show { r with arriving := [] } = r
  rw [← h]

theorem port_placeNotices (s : State) (p : Port) : (placeNotices s).port p = (s.port p).placed := mapVec_get _ _ _

/-- Placing notices writes ports only. -/
theorem placeNotices_eq (s : State) : placeNotices s = { s with ports := (placeNotices s).ports } := rfl

theorem placeNotices_of_nil {s : State} (h : ∀ p, (s.port p).arriving = []) : placeNotices s = s := by
  have : mapVec PortRec.placed s.ports = s.ports :=
    vector_ext_get fun p => by rw [mapVec_get]; exact placed_of_nil (h p)
  unfold placeNotices
  rw [this]

/-! ## Operations of the frame table -/

theorem setErrorMark_eq (s : State) (f : Frame) :
    setErrorMark s f = { s with frames := s.frames.set f { (s.frame f) with errorMark := true } } := rfl

theorem appendHolder_eq (s : State) (f : Frame) (c : Ctx) (r : Rights) :
    appendHolder s f c r =
      { s with
        frames := s.frames.set f { (s.frame f) with holders := (s.frame f).holders ++ [⟨c, r, false⟩] }
        contexts := s.contexts.set c { (s.ctx c) with shareCount := (s.ctx c).shareCount + 1 } } := rfl

theorem markWithdrawing_eq (s : State) (f : Frame) (c : Ctx) :
    markWithdrawing s f c =
      { s with
        frames := s.frames.set f
          { (s.frame f) with
            holders := (s.frame f).holders.map fun h => if h.ctx = c then { h with withdrawing := true } else h } } := rfl

theorem removeHolder_eq (s : State) (f : Frame) (c : Ctx) :
    removeHolder s f c =
      { s with
        frames := s.frames.set f { (s.frame f) with holders := (s.frame f).holders.filter fun h => h.ctx != c }
        contexts := s.contexts.set c { (s.ctx c) with shareCount := (s.ctx c).shareCount - 1 } } := rfl

theorem giveUp_eq (s : State) (f : Frame) (c : Ctx) :
    giveUp s f c =
      { s with
        frames := s.frames.set f { (s.frame f) with state := .reclaim, holders := [], pendingOffers := 0 }
        contexts := s.contexts.set c { (s.ctx c) with charged := (s.ctx c).charged - 1 } } := rfl

/-- Promotion writes frame and context records only. -/
theorem promote_frame (s : State) (f : Frame) (c d : Ctx) :
    promote s f c d = { s with frames := (promote s f c d).frames, contexts := (promote s f c d).contexts } := rfl

/-! ## Reclaim exit and scrub queue -/

theorem enqueueScrub_eq (s : State) (f : Frame) :
    enqueueScrub s f =
      { s with scrubQueue := s.scrubQueue ++ [f], scrub := (enqueueScrub s f).scrub } := by
  unfold enqueueScrub scrubNext
  dsimp only
  split <;> rfl

/-- The reclaim exit writes the frame's record, the scrub queue and the scrub engine's state only. -/
theorem reclaimExit_frame (s : State) (f : Frame) :
    reclaimExit s f =
      { s with
        frames := (reclaimExit s f).frames
        scrubQueue := (reclaimExit s f).scrubQueue
        scrub := (reclaimExit s f).scrub } := by
  unfold reclaimExit
  split
  · rfl
  · split
    · rfl
    · rw [enqueueScrub_eq]; rfl

/-! ## Entry changes -/

theorem raiseMapCount_eq (s : State) (f : Frame) :
    raiseMapCount s f = { s with frames := s.frames.set f { (s.frame f) with mapCount := (s.frame f).mapCount + 1 } } := rfl

theorem lowerMapCount_eq (s : State) (f : Frame) :
    lowerMapCount s f = { s with frames := s.frames.set f { (s.frame f) with mapCount := (s.frame f).mapCount - 1 } } := rfl

/-- Making an entry valid: the entry of the page alone is written. -/
theorem entry_makeEntry (s : State) (c d : Ctx) (g h : Page) (e : MapEntry) :
    (makeEntry s c g e).entry d h = if d = c ∧ h = g then some e else s.entry d h := by
  unfold makeEntry
  dsimp only
  split
  · exact State.entry_setEntry _ _ _ _ _ _
  · split <;> exact State.entry_setEntry _ _ _ _ _ _

/-- Making an entry valid writes frame records, the context's record and the map tables only. -/
theorem makeEntry_frame (s : State) (c : Ctx) (g : Page) (e : MapEntry) :
    makeEntry s c g e =
      { s with
        frames := (makeEntry s c g e).frames
        contexts := (makeEntry s c g e).contexts
        maps := (makeEntry s c g e).maps } := by
  unfold makeEntry
  dsimp only
  split
  · rfl
  · split <;> rfl

/-- Clearing an entry: the entry of the page alone is written. -/
theorem entry_clearEntry (s : State) (c d : Ctx) (g h : Page) :
    (clearEntry s c g).entry d h = if d = c ∧ h = g then none else s.entry d h := by
  unfold clearEntry
  split
  · rename_i e
    split
    · rename_i hd; rw [hd.1, hd.2, e]
    · rfl
  · exact State.entry_setEntry _ _ _ _ _ _

/-- Clearing an entry writes frame records, the context's record and the map tables only. -/
theorem clearEntry_frame (s : State) (c : Ctx) (g : Page) :
    clearEntry s c g =
      { s with
        frames := (clearEntry s c g).frames
        contexts := (clearEntry s c g).contexts
        maps := (clearEntry s c g).maps } := by
  unfold clearEntry
  split <;> rfl

/-! ## Folds -/

/-- A fold of operations each of which keeps a property keeps it. -/
theorem foldl_keeps {α : Type} {P : State → Prop} {g : State → α → State} (h : ∀ s a, P s → P (g s a)) (l : List α)
    {s : State} (hs : P s) : P (l.foldl g s) := by
  induction l generalizing s with
  | nil => exact hs
  | cons a l ih => exact ih (h s a hs)

/-- The invalidation of a withdrawal writes frame records, context records and the map tables only. -/
theorem invalidate_frame (s : State) (c : Ctx) (f : Option Frame) :
    invalidate s c f =
      { s with
        frames := (invalidate s c f).frames
        contexts := (invalidate s c f).contexts
        maps := (invalidate s c f).maps } := by
  suffices h : ∃ a b m, invalidate s c f = { s with frames := a, contexts := b, maps := m } by
    obtain ⟨a, b, m, h⟩ := h
    rw [h]
  refine foldl_keeps (P := fun u => ∃ a b m, u = { s with frames := a, contexts := b, maps := m }) ?_ _
    ⟨s.frames, s.contexts, s.maps, rfl⟩
  rintro u g ⟨a, b, m, rfl⟩
  split
  · exact ⟨a, b, m, rfl⟩
  · split
    · exact ⟨_, _, _, clearEntry_frame _ _ _⟩
    · exact ⟨a, b, m, rfl⟩

/-! ## Offers -/

theorem removeOffer_of_some {s : State} {i : OfferId} {o : OfferRec} (h : s.offer i = some o) :
    removeOffer s i =
      { s with
        offers := s.offers.set i none
        frames := s.frames.set o.frame
          { (s.frame o.frame) with pendingOffers := (s.frame o.frame).pendingOffers - 1 } } := by
  unfold removeOffer
  rw [h]
  rfl

theorem removeOffer_of_none {s : State} {i : OfferId} (h : s.offer i = none) : removeOffer s i = s := by
  unfold removeOffer
  rw [h]

theorem endOffer_of_some {s : State} {i : OfferId} {o : OfferRec} (h : s.offer i = some o) (r : OfferEnd) (c : Ctx) :
    endOffer s i r c = addressOwner (removeOffer s i) c (.offerEnded i o.serial o.frame r) := by
  unfold endOffer
  rw [h]

theorem endOffer_of_none {s : State} {i : OfferId} (h : s.offer i = none) (r : OfferEnd) (c : Ctx) :
    endOffer s i r c = s := by
  unfold endOffer
  rw [h]

theorem cancelOffer_of_some {s : State} {i : OfferId} {o : OfferRec} (h : s.offer i = some o) (c : Ctx) :
    cancelOffer s i c = notifyOwner (removeOffer s i) c (.offerEnded i o.serial o.frame .cancelled) := by
  unfold cancelOffer
  rw [h]

/-! ## Withdrawals -/

/-- The start of a withdrawal: the invalidation, and the record at the end of the list. -/
theorem startWithdrawal_eq (s : State) (c : Ctx) (f : Option Frame) (q : Requester) :
    startWithdrawal s c f q =
      { invalidate s c f with
        withdrawals := s.withdrawals ++ [⟨c, f, q, drainSet s c f⟩] } := by
  obtain ⟨a, b, m, h⟩ : ∃ a b m, invalidate s c f = { s with frames := a, contexts := b, maps := m } :=
    ⟨_, _, _, invalidate_frame s c f⟩
  unfold startWithdrawal
  rw [h]
  rfl

theorem withdrawHolder_eq (s : State) (c : Ctx) (f : Frame) (q : Requester) :
    withdrawHolder s c f q = startWithdrawal (markWithdrawing s f c) c (some f) q := rfl

theorem removeRecord_eq (s : State) (w : Withdrawal) :
    removeRecord s w =
      { s with withdrawals := s.withdrawals.filter fun x => !(x.ctx == w.ctx && x.frame == w.frame) } := rfl

/-! ## Loads -/

theorem endRunning_of_cons {s : State} {r : LoadRec} {rest : List LoadRec} (h : s.loadQueue = r :: rest) (e : LoadEnd) :
    endRunning s e = respond { s with loadQueue := rest, load := .idle } r.port r.tag e.1 e.2 := by
  unfold endRunning
  rw [h]

/-- The end of the running load writes the load queue, the load engine's state and one port only. -/
theorem endRunning_frame (s : State) (e : LoadEnd) :
    endRunning s e =
      { s with
        loadQueue := (endRunning s e).loadQueue
        load := (endRunning s e).load
        ports := (endRunning s e).ports } := by
  unfold endRunning
  split <;> rfl

/-- Running the load queue writes the load queue, the load engine's state and the ports only. -/
theorem runLoadsFor_frame (n : Nat) (s : State) :
    runLoadsFor n s =
      { s with
        loadQueue := (runLoadsFor n s).loadQueue
        load := (runLoadsFor n s).load
        ports := (runLoadsFor n s).ports } := by
  induction n generalizing s with
  | zero => rfl
  | succ n ih =>
    unfold runLoadsFor
    split
    · rfl
    · split
      · rfl
      · rw [ih, endRunning_frame]

theorem runLoads_frame (s : State) :
    runLoads s =
      { s with
        loadQueue := (runLoads s).loadQueue
        load := (runLoads s).load
        ports := (runLoads s).ports } := runLoadsFor_frame _ _

theorem endLoad_frame (s : State) (e : LoadEnd) :
    endLoad s e =
      { s with
        loadQueue := (endLoad s e).loadQueue
        load := (endLoad s e).load
        ports := (endLoad s e).ports } := by
  unfold endLoad
  rw [runLoads_frame, endRunning_frame]

/-- An empty load queue leaves the engine IDLE. -/
theorem runLoads_nil {s : State} (h : s.loadQueue = []) : runLoads s = { s with load := .idle } := by
  unfold runLoads
  rw [h]
  simp [runLoadsFor, h]

/-- A head load that may go on is READY for its next descriptor. -/
theorem runLoads_ready {s : State} {r : LoadRec} {rest : List LoadRec} (h : s.loadQueue = r :: rest)
    (hc : startCheck s r = none) : runLoads s = { s with load := .ready } := by
  unfold runLoads
  rw [h]
  simp [runLoadsFor, h, hc]

/-- A head load that its start check ends makes way for the next one. -/
theorem runLoads_ended {s : State} {r : LoadRec} {rest : List LoadRec} {e : LoadEnd} (h : s.loadQueue = r :: rest)
    (hc : startCheck s r = some e) : runLoads s = runLoads (endRunning s e) := by
  have hq : (endRunning s e).loadQueue = rest := by unfold endRunning; rw [h]; rfl
  conv_lhs => unfold runLoads
  rw [h, List.length_cons]
  conv_lhs => unfold runLoadsFor
  rw [h]
  simp only [hc]
  unfold runLoads
  rw [hq]

/-! ## Teardowns -/

theorem setStep_of_some {s : State} {c : Ctx} {q : Starter} {x : TeardownStep} (h : s.teardown c = some ⟨q, x⟩)
    (y : TeardownStep) : setStep s c y = { s with teardowns := s.teardowns.set c (some ⟨q, y⟩) } := by
  unfold setStep
  rw [h]
  rfl

theorem setStep_of_none {s : State} {c : Ctx} (h : s.teardown c = none) (y : TeardownStep) : setStep s c y = s := by
  unfold setStep
  rw [h]

theorem startPooledTeardown_eq (s : State) (c : Ctx) (q : Starter) :
    startPooledTeardown s c q =
      { s with
        contexts := s.contexts.set c { (s.ctx c) with state := .teardown }
        teardowns := s.teardowns.set c (some ⟨q, .offers⟩) } := rfl

theorem endPortTeardown_eq (s : State) (p : Port) :
    endPortTeardown s p = s.setPort p
      { (s.port p) with state := if (s.port p).prst then .teardown .ended else .up } := rfl

/-! ## Requests -/

/-- With no WAITING request of the kind under the tag nothing is taken. -/
theorem takeRequest_of_none {s : State} {p : Port} {t : Tag} {k : RequestKind} (h : waitingRequest s p t k = none)
    (serve : ControlSlot → State) : takeRequest s p t k serve = .next s := by
  unfold takeRequest
  rw [h]

theorem takeRequest_of_some {s : State} {p : Port} {t : Tag} {k : RequestKind} {q : ControlSlot}
    (h : waitingRequest s p t k = some q) (serve : ControlSlot → State) :
    takeRequest s p t k serve = .next (serve q) := by
  unfold takeRequest
  rw [h]

theorem serveChecked_error {α : Type} (s : State) (p : Port) (t : Tag) (r : Reply) (effect : α → State) :
    serveChecked s p t (.error r) effect = respond s p t r.1 r.2 := rfl

theorem serveChecked_ok {α : Type} (s : State) (p : Port) (t : Tag) (a : α) (effect : α → State) :
    serveChecked s p t (.ok a) effect = effect a := rfl

/-- The owner and the state of an acting context, in the order of R24. -/
theorem actingFault_eq (s : State) (p : Port) (c : Ctx) :
    actingFault s p c =
      if (s.ctx c).owner ≠ some p then some .notOwner
      else if (s.ctx c).state ≠ .live then some .notLive else none := by
  unfold actingFault ownedBy live
  simp

/-! ## Transit entries -/

theorem leaveDrains_eq (s : State) (p : Port) (i : Slot) :
    leaveDrains s p i =
      { s with withdrawals := s.withdrawals.map fun w => { w with drain := w.drain.filter fun x => x != (p, i) } } := rfl

theorem dropEntry_eq (s : State) (p : Port) (i : Slot) (e : TransitEntry) :
    dropEntry s p i e = s.setPort p
      { (s.port p).setSlot i ⟨((s.port p).slot i).gen, none⟩ with
        plainCount := if e.mode = .plain then (s.port p).plainCount - 1 else (s.port p).plainCount } := rfl

theorem allocate_eq (s : State) (p : Port) (i : Slot) (e : TransitEntry) :
    allocate s p i e = s.setPort p
      { (s.port p).setSlot i ⟨((s.port p).slot i).gen + 1, some e⟩ with
        issueQueue := (s.port p).issueQueue ++ [i]
        plainCount := if e.mode = .plain then (s.port p).plainCount + 1 else (s.port p).plainCount } := rfl

/-- A translation writes the accepting port only. -/
theorem translate_frame (s : State) (p : Port) (a : AccessRequest) :
    translate s p a = { s with ports := (translate s p a).ports } := by
  unfold translate
  split
  · rfl
  · split <;> rfl

/-- An acceptance writes the port only. -/
theorem acceptOne_frame (s : State) (p : Port) : acceptOne s p = { s with ports := (acceptOne s p).ports } := by
  unfold acceptOne
  split
  · split
    · rfl
    · rw [translate_frame]; rfl
    · rw [translate_frame]; rfl
    · split <;> (rw [translate_frame]; rfl)
  · rfl

/-! ## Reading a slot -/

@[simp] theorem slot_setSlot (r : PortRec) (i j : Slot) (x : TransitSlot) :
    (r.setSlot i x).slot j = if j = i then x else r.slot j := vector_get_set _ _ _ _

end Sys2Proof.Machine
end

