-- ==== Sys2Proof/Laws/Settle.lean ====
section
/-! SUPPORT. What is due within an event ends: every thing that `takeDue` takes lowers `settleBound`, so `settle` leaves nothing
due; where nothing is due it changes nothing. -/

namespace Sys2Proof.Machine

open Sys2Proof

/-! ## Operations that make nothing come due -/

/-- `t` has no more that can come due than `s`: the same teardowns, port states and number of withdrawals, no context newly
LIVE, no more unflagged co-holders on any frame, and no more turns to come on it. -/
structure NoMoreDue (s t : State) : Prop where
  teardown : ∀ c, t.teardown c = s.teardown c
  live : ∀ c, live t c = true → live s c = true
  unflagged : ∀ f, unflagged t f ≤ unflagged s f
  turns : ∀ c f, turnBound c (t.frame f) ≤ turnBound c (s.frame f)
  portState : ∀ p, (t.port p).state = (s.port p).state
  withdrawals : t.withdrawals.length = s.withdrawals.length

namespace NoMoreDue

theorem refl (s : State) : NoMoreDue s s := ⟨fun _ => rfl, fun _ h => h, fun _ => le_rfl, fun _ _ => le_rfl, fun _ => rfl, rfl⟩

theorem trans {s t u : State} (h1 : NoMoreDue s t) (h2 : NoMoreDue t u) : NoMoreDue s u :=
  ⟨fun c => (h2.teardown c).trans (h1.teardown c), fun c h => h1.live c (h2.live c h),
    fun f => (h2.unflagged f).trans (h1.unflagged f), fun c f => (h2.turns c f).trans (h1.turns c f),
    fun p => (h2.portState p).trans (h1.portState p),
    h2.withdrawals.trans h1.withdrawals⟩

/-- A state that agrees on everything that can make something come due. -/
theorem of_eq {s t : State} (ht : t.teardowns = s.teardowns) (hc : t.contexts = s.contexts) (hf : t.frames = s.frames)
    (hp : t.ports = s.ports) (hw : t.withdrawals = s.withdrawals) : NoMoreDue s t :=
  ⟨fun c => by simp only [State.teardown, ht], fun c h => by simpa only [Machine.live, State.ctx, hc] using h,
    fun f => by simp only [Machine.unflagged, State.frame, hf, le_refl],
    fun c f => by simp only [State.frame, hf, le_refl], fun p => by simp only [State.port, hp], by rw [hw]⟩

theorem modPort {s : State} {p : Port} {g : PortRec → PortRec} (h : ∀ r, (g r).state = r.state) :
    NoMoreDue s (modPort s p g) :=
  ⟨fun _ => rfl, fun _ h => h, fun _ => le_rfl, fun _ _ => le_rfl, fun q => by by_cases e : q = p <;> simp [e, h], rfl⟩

theorem modCtx {s : State} {c : Ctx} {g : CtxRec → CtxRec} (h : ∀ r, (g r).state = r.state) :
    NoMoreDue s (modCtx s c g) :=
  ⟨fun _ => rfl, fun d hd => by by_cases e : d = c <;> simp_all [Machine.live], fun _ => le_rfl,
    fun _ _ => le_rfl, fun _ => rfl, rfl⟩

theorem modFrame {s : State} {f : Frame} {g : FrameRec → FrameRec}
    (h : (g (s.frame f)).holders.tail.countP (fun x => !x.withdrawing)
      ≤ (s.frame f).holders.tail.countP fun x => !x.withdrawing)
    (ht : ∀ c, turnBound c (g (s.frame f)) ≤ turnBound c (s.frame f)) :
    NoMoreDue s (modFrame s f g) :=
  ⟨fun _ => rfl, fun _ h => h, fun k => by by_cases e : k = f <;> simp_all [Machine.unflagged],
    fun c k => by by_cases e : k = f <;> simp_all, fun _ => rfl, rfl⟩

/-- A frame record that is not HELD, or whose holders have no new context and no more unflagged co-holders, has no more turns
to come. -/
theorem turnBound_le {r r' : FrameRec} (c : Ctx)
    (h : r'.state = .held → r.state = .held ∧ (holds r'.holders c = true → holds r.holders c = true) ∧
      r'.holders.tail.countP (fun x => !x.withdrawing) ≤ r.holders.tail.countP fun x => !x.withdrawing) :
    turnBound c r' ≤ turnBound c r := by
  unfold turnBound standsOn
  by_cases e : r'.state = .held
  · obtain ⟨h1, h2, h3⟩ := h e
    by_cases e2 : holds r'.holders c = true
    · simp only [e, e2, h1, h2 e2, beq_self_eq_true, Bool.and_self, if_true]
      omega
    · simp [e2]
  · simp [e]

theorem notify (s : State) (p : Port) (n : Notice) : NoMoreDue s (notify s p n) :=
  modPort fun r => by unfold PortRec.notified; split <;> rfl

theorem notifyOwner (s : State) (c : Ctx) (n : Notice) : NoMoreDue s (notifyOwner s c n) := by
  unfold Machine.notifyOwner; split <;> [exact notify _ _ _; exact refl _]

theorem notifyOrigin (s : State) (f : Frame) (n : Notice) : NoMoreDue s (notifyOrigin s f n) := by
  unfold Machine.notifyOrigin; split <;> [exact notifyOwner _ _ _; exact refl _]

theorem respond (s : State) (p : Port) (t : Tag) (v : Verdict) (rs : List Byte) : NoMoreDue s (respond s p t v rs) :=
  modPort fun r => by unfold PortRec.responded; split <;> [rfl; skip]; dsimp only; split <;> rfl

theorem enqueueScrub (s : State) (f : Frame) : NoMoreDue s (enqueueScrub s f) := by
  unfold Machine.enqueueScrub scrubNext; dsimp only; split <;> exact of_eq rfl rfl rfl rfl rfl

theorem reclaimExit (s : State) (f : Frame) : NoMoreDue s (reclaimExit s f) := by
  have goesOn : ∀ st, st ≠ FrameState.held → NoMoreDue s (Machine.modFrame s f fun x => { x with state := st }) :=
    fun st h => modFrame le_rfl fun c => turnBound_le c fun e => absurd e h
  unfold Machine.reclaimExit
  split <;> [exact refl _; skip]
  split <;> [exact goesOn _ (by decide); exact (goesOn _ (by decide)).trans (enqueueScrub _ _)]

theorem giveUp (s : State) (f : Frame) (c : Ctx) : NoMoreDue s (giveUp s f c) :=
  (modFrame (by simp) fun c => turnBound_le c fun e => by cases e).trans (modCtx fun _ => rfl)

/-- Dropping holders leaves no more unflagged co-holders. -/
theorem countP_tail_filter_le (hs : List Holder) (P : Holder → Bool) (Q : Holder → Bool) :
    (hs.filter P).tail.countP Q ≤ hs.tail.countP Q := by
  cases hs with
  | nil => simp
  | cons h t =>
    by_cases e : P h
    · simp only [List.filter_cons, e, if_true, List.tail_cons]
      exact List.Sublist.countP_le List.filter_sublist
    · simp only [List.filter_cons, e, List.tail_cons]
      exact List.Sublist.countP_le ((List.tail_sublist _).trans List.filter_sublist)

theorem removeHolder (s : State) (f : Frame) (c : Ctx) : NoMoreDue s (removeHolder s f c) :=
  (modFrame (countP_tail_filter_le _ _ _) fun d => turnBound_le d fun e =>
    ⟨e, fun h => by
      simp only [holds, List.any_eq_true] at h ⊢
      exact h.imp fun x hx => ⟨(List.mem_filter.1 hx.1).1, hx.2⟩, countP_tail_filter_le _ _ _⟩).trans (modCtx fun _ => rfl)

/-- Flagging a holder leaves every holder in its place. -/
theorem holds_flag (hs : List Holder) (c d : Ctx) :
    holds (hs.map fun h => if h.ctx = c then { h with withdrawing := true } else h) d = holds hs d := by
  unfold holds
  rw [List.any_map]
  congr 1
  funext h
  by_cases e : h.ctx = c <;> simp [e]

/-- Flagging one holder leaves no more unflagged holders. -/
theorem countP_flag_le (hs : List Holder) (c : Ctx) :
    (hs.map fun h => if h.ctx = c then { h with withdrawing := true } else h).countP (fun x => !x.withdrawing)
      ≤ hs.countP fun x => !x.withdrawing := by
  rw [List.countP_map]
  exact List.countP_mono_left fun h _ => by by_cases e : h.ctx = c <;> simp [e]

theorem markWithdrawing (s : State) (f : Frame) (c : Ctx) : NoMoreDue s (markWithdrawing s f c) :=
  have h : ((s.frame f).holders.map fun h => if h.ctx = c then { h with withdrawing := true } else h).tail.countP
      (fun x => !x.withdrawing) ≤ (s.frame f).holders.tail.countP fun x => !x.withdrawing := by
    simpa only [List.map_tail] using countP_flag_le (s.frame f).holders.tail c
  modFrame h fun d => turnBound_le d fun e => ⟨e, fun hd => by simpa only [holds_flag] using hd, h⟩

theorem promote (s : State) (f : Frame) (o c : Ctx) (h : originOf (s.frame f).holders = some o)
    (hc : holds (s.frame f).holders c = true) : NoMoreDue s (promote s f o c) := by
  have hu : (⟨c, .readWrite, false⟩ :: (s.frame f).holders.filter fun h => h.ctx != o && h.ctx != c : List Holder).tail.countP
      (fun x => !x.withdrawing) ≤ (s.frame f).holders.tail.countP fun x => !x.withdrawing := by
    cases e : (s.frame f).holders with
    | nil => simp [originOf, e] at h
    | cons x t =>
      simp only [originOf, e, List.head?_cons, Option.map_some, Option.some.injEq] at h
      simp only [List.tail_cons, List.filter_cons, h, bne_self_eq_false, Bool.false_and]
      exact List.Sublist.countP_le List.filter_sublist
  unfold Machine.promote
  dsimp only
  apply trans (trans (modFrame hu fun d => turnBound_le d fun e => ⟨e, fun hd => ?_, hu⟩) (modCtx ?_)) (modCtx ?_)
  case _ => exact fun _ => rfl
  case _ => exact fun _ => rfl
  simp only [holds, List.any_cons, Bool.or_eq_true, List.any_eq_true, beq_iff_eq] at hd hc ⊢
  rcases hd with rfl | ⟨x, hx, e⟩
  · exact hc
  · exact ⟨x, (List.mem_filter.1 hx).1, e⟩

theorem lowerMapCount (s : State) (f : Frame) : NoMoreDue s (lowerMapCount s f) :=
  modFrame le_rfl fun _ => le_rfl

theorem setEntry (s : State) (c : Ctx) (g : Page) (e : Option MapEntry) : NoMoreDue s (s.setEntry c g e) :=
  of_eq rfl rfl rfl rfl rfl

theorem clearEntry (s : State) (c : Ctx) (g : Page) : NoMoreDue s (clearEntry s c g) := by
  unfold Machine.clearEntry
  split <;> [exact refl _; exact ((setEntry _ _ _ _).trans (lowerMapCount _ _)).trans (modCtx fun _ => rfl)]

/-- A fold of operations that make nothing come due makes nothing come due. -/
theorem foldl {α : Type} {g : State → α → State} (h : ∀ s a, NoMoreDue s (g s a)) (l : List α) (s : State) :
    NoMoreDue s (l.foldl g s) := by
  induction l generalizing s with
  | nil => exact refl _
  | cons a l ih => exact (h s a).trans (ih _)

theorem invalidate (s : State) (c : Ctx) (f : Option Frame) : NoMoreDue s (invalidate s c f) :=
  foldl (fun s g => by split <;> [exact refl _; skip]; split <;> [exact clearEntry _ _ _; exact refl _]) _ _

theorem removeOffer (s : State) (i : OfferId) : NoMoreDue s (removeOffer s i) := by
  unfold Machine.removeOffer
  split <;> [exact refl _; exact (of_eq rfl rfl rfl rfl rfl : NoMoreDue s (s.setOffer i none)).trans
    (modFrame le_rfl fun _ => le_rfl)]

theorem cancelOffer (s : State) (i : OfferId) (c : Ctx) : NoMoreDue s (cancelOffer s i c) := by
  unfold Machine.cancelOffer
  split <;> [exact refl _; exact (removeOffer _ _).trans (notifyOwner _ _ _)]

theorem cancelOffersOf (s : State) (c : Ctx) : NoMoreDue s (cancelOffersOf s c) :=
  foldl (fun s i => by
    split <;> [exact refl _; skip]
    split <;> [exact cancelOffer _ _ _; skip]
    split <;> [exact cancelOffer _ _ _; exact refl _]) _ _

theorem endRunning (s : State) (e : LoadEnd) : NoMoreDue s (endRunning s e) := by
  unfold Machine.endRunning
  split
  · exact refl _
  · refine NoMoreDue.trans ?_ (respond _ _ _ _ _)
    exact of_eq rfl rfl rfl rfl rfl

theorem runLoadsFor (n : Nat) (s : State) : NoMoreDue s (runLoadsFor n s) := by
  induction n generalizing s with
  | zero => exact refl _
  | succ n ih =>
    unfold Machine.runLoadsFor
    split
    · exact of_eq rfl rfl rfl rfl rfl
    · split <;> [exact of_eq rfl rfl rfl rfl rfl; exact (endRunning _ _).trans (ih _)]

theorem runLoads (s : State) : NoMoreDue s (runLoads s) := runLoadsFor _ _

theorem endLoad (s : State) (e : LoadEnd) : NoMoreDue s (endLoad s e) := (endRunning _ _).trans (runLoads _)

theorem removeQueued (s : State) (w : LoadRec → Bool) (e : LoadEnd) : NoMoreDue s (removeQueued s w e) := by
  unfold Machine.removeQueued
  split
  · exact refl _
  · refine NoMoreDue.trans ?_ (foldl (fun _ _ => respond _ _ _ _ _) _ _)
    exact of_eq rfl rfl rfl rfl rfl

theorem placeStop (s : State) (q : StopRequest) : NoMoreDue s (placeStop s q) := by
  unfold Machine.placeStop
  split <;> [exact refl _; skip]
  split <;> [exact refl _; skip]
  dsimp only
  split <;> [refine NoMoreDue.trans ?_ (runLoads _); skip] <;> exact of_eq rfl rfl rfl rfl rfl

theorem endLoadsWhere (s : State) (w : LoadRec → Bool) (q : StopRequest) : NoMoreDue s (endLoadsWhere s w q) := by
  unfold Machine.endLoadsWhere
  dsimp only
  split <;> [exact removeQueued _ _ _; skip]
  split <;> [exact (removeQueued _ _ _).trans (placeStop _ _); exact removeQueued _ _ _]

/-! ## The bound -/

end NoMoreDue

/-- Two sums over all indices, when the terms of all indices but one do not rise. -/
theorem sum_le_of_one {n : Nat} (g h : Fin n → Nat) (c : Fin n) (hd : ∀ d, d ≠ c → g d ≤ h d) :
    ((List.finRange n).map g).sum + h c ≤ ((List.finRange n).map h).sum + g c := by
  simp only [← Fin.sum_univ_def]
  rw [← Finset.add_sum_erase _ g (Finset.mem_univ c), ← Finset.add_sum_erase _ h (Finset.mem_univ c)]
  have : ∑ d ∈ Finset.univ.erase c, g d ≤ ∑ d ∈ Finset.univ.erase c, h d :=
    Finset.sum_le_sum fun d m => hd d (Finset.ne_of_mem_erase m)
  omega

/-- A sum whose terms do not rise does not rise. -/
theorem sum_le_of_all {n : Nat} (g h : Fin n → Nat) (hd : ∀ d, g d ≤ h d) :
    ((List.finRange n).map g).sum ≤ ((List.finRange n).map h).sum := by
  simp only [← Fin.sum_univ_def]
  exact Finset.sum_le_sum fun d _ => hd d

/-- A function over the elements of a vector, by their indices. -/
theorem map_toList_eq {α β : Type} {n : Nat} (v : Vector α n) (g : α → β) :
    v.toArray.toList.map g = (List.finRange n).map fun i => g (v.get i) := by
  apply List.ext_getElem
  · simp
  · intro i h1 h2
    simp [Vector.get_eq_getElem]

/-- The turns to come as a sum over the frames by their numbers. -/
theorem turnsBound_eq (s : State) (c : Ctx) :
    turnsBound s c = ((List.finRange 4096).map fun f => turnBound c (s.frame f)).sum := by
  unfold turnsBound
  rw [map_toList_eq]
  rfl

/-- Where `c` stands on a frame at least 4 stands for the turn on it. -/
theorem turnBound_of_standsOn {c : Ctx} {r : FrameRec} (h : standsOn c r = true) :
    turnBound c r = 4 + 2 * r.holders.tail.countP fun h => !h.withdrawing := by
  unfold turnBound; rw [if_pos h]

theorem turnBound_of_not {c : Ctx} {r : FrameRec} (h : standsOn c r = false) : turnBound c r = 0 := by
  unfold turnBound; rw [h]; rfl

/-- No more turns to come on any frame, but for the turn on one. -/
theorem turnsBound_le_of_one {s t : State} (c : Ctx) (f : Frame)
    (h : ∀ k, k ≠ f → turnBound c (t.frame k) ≤ turnBound c (s.frame k)) :
    turnsBound t c + turnBound c (s.frame f) ≤ turnsBound s c + turnBound c (t.frame f) := by
  rw [turnsBound_eq, turnsBound_eq]
  exact sum_le_of_one _ _ f h

namespace NoMoreDue

theorem turnsBound_le {s t : State} (h : NoMoreDue s t) (c : Ctx) : turnsBound t c ≤ turnsBound s c := by
  rw [turnsBound_eq, turnsBound_eq]
  exact sum_le_of_all _ _ (h.turns c)

/-- A frame on which `c` no longer stands takes at least 4 from the turns to come. -/
theorem turnsBound_lt {s t : State} (h : NoMoreDue s t) {c : Ctx} {f : Frame} (hs : standsOn c (s.frame f) = true)
    (ht : standsOn c (t.frame f) = false) : turnsBound t c + (4 + 2 * Machine.unflagged s f) ≤ turnsBound s c := by
  have := turnsBound_le_of_one (s := s) (t := t) c f fun k _ => h.turns c k
  rw [turnBound_of_standsOn hs, turnBound_of_not ht] at this
  exact this

theorem standsOn_of {s t : State} (h : NoMoreDue s t) {c : Ctx} {f : Frame} (ht : standsOn c (t.frame f) = true) :
    standsOn c (s.frame f) = true := by
  by_contra hs
  have := h.turns c f
  rw [turnBound_of_standsOn ht, turnBound_of_not (by simpa using hs)] at this
  omega

/-- What can come due for a teardown's step falls with what makes it up. -/
theorem stepBound_le {s t : State} (h : NoMoreDue s t) (c : Ctx) (st : TeardownStep) :
    stepBound t c st ≤ stepBound s c st := by
  have hT := h.turnsBound_le c
  cases st with
  | offers => exact le_rfl
  | loads => exact Nat.add_le_add_left hT _
  | drain => exact Nat.add_le_add_left hT _
  | frames => exact Nat.add_le_add_left hT _
  | turn f =>
    simp only [stepBound]
    cases et : standsOn c (t.frame f) with
    | true => rw [h.standsOn_of et]; simpa using hT
    | false =>
      cases es : standsOn c (s.frame f) with
      | true => have := h.turnsBound_lt es et; simp; omega
      | false => simpa using hT
  | departure f =>
    have hu := h.unflagged f
    simp only [stepBound]
    cases et : standsOn c (t.frame f) with
    | true => rw [h.standsOn_of et]; simpa using hT
    | false =>
      cases es : standsOn c (s.frame f) with
      | true => have := h.turnsBound_lt es et; simp; omega
      | false => simp; omega

/-- What can come due for a context falls with what makes it up. -/
theorem ctxBound_le {s t : State} (h : NoMoreDue s t) (c : Ctx) : ctxBound t c ≤ ctxBound s c := by
  have hl := h.live c
  unfold ctxBound
  rw [h.teardown c]
  refine Nat.add_le_add ?_ ?_
  · by_cases e : Machine.live t c = true
    · simp [e, hl e]
    · simp [e]
  · split <;> [exact le_rfl; exact h.stepBound_le _ _]

theorem portBound_le {s t : State} (h : NoMoreDue s t) (p : Port) : portBound t p ≤ portBound s p := by
  have hT := h.turnsBound_le (homeOf p)
  unfold portBound
  rw [h.portState p]
  split
  · omega
  · rw [h.teardown]; split <;> omega
  · exact le_rfl

end NoMoreDue

/-- What can still come due falls with what makes it up. -/
theorem settleBound_le {s t : State} (h : NoMoreDue s t) : settleBound t ≤ settleBound s := by
  unfold settleBound
  have h1 := sum_le_of_all (ctxBound t) (ctxBound s) h.ctxBound_le
  have h2 := sum_le_of_all (portBound t) (portBound s) h.portBound_le
  have h3 := h.withdrawals
  omega

/-- A drop of what can come due for one context is a drop of the bound. -/
theorem settleBound_le_of_ctx {s t : State} (h : NoMoreDue s t) (c : Ctx) :
    settleBound t + ctxBound s c ≤ settleBound s + ctxBound t c := by
  have h1 := sum_le_of_one (ctxBound t) (ctxBound s) c fun d _ => h.ctxBound_le d
  have h2 := sum_le_of_all (portBound t) (portBound s) h.portBound_le
  have h3 := h.withdrawals
  unfold settleBound
  omega

/-- Moving a teardown to another step changes the bound of that context alone. -/
theorem settleBound_setStep (s : State) (c : Ctx) (st : TeardownStep) :
    settleBound (setStep s c st) + ctxBound s c = settleBound s + ctxBound (setStep s c st) c := by
  unfold setStep
  split
  · rename_i t ht
    have hp : ∀ p, portBound (s.setTeardown c (some { t with step := st })) p = portBound s p := fun p => by
      unfold portBound
      simp only [State.port_setTeardown, State.teardown_setTeardown]
      split <;> [rfl; skip; rfl]
      rename_i d _
      by_cases e : d = c <;> simp [e, ht] <;> rfl
    have hc : ∀ d, d ≠ c → ctxBound (s.setTeardown c (some { t with step := st })) d = ctxBound s d := fun d hd => by
      unfold ctxBound live
      simp only [State.ctx_setTeardown, State.teardown_setTeardown, hd, if_false]
      rfl
    have h1 := sum_le_of_one (ctxBound (s.setTeardown c (some { t with step := st }))) (ctxBound s) c fun d hd => (hc d hd).le
    have h2 := sum_le_of_one (ctxBound s) (ctxBound (s.setTeardown c (some { t with step := st }))) c fun d hd => (hc d hd).ge
    have h3 : portBound (s.setTeardown c (some { t with step := st })) = portBound s := funext hp
    unfold settleBound
    rw [h3, State.withdrawals_setTeardown]
    omega
  · rfl

/-- The bound of a context whose teardown stands at a step. -/
theorem ctxBound_eq (s : State) (c : Ctx) {q : Starter} {st : TeardownStep} (h : s.teardown c = some ⟨q, st⟩) :
    ctxBound s c = (if live s c then 10 else 0) + stepBound s c st := by
  unfold ctxBound
  rw [h]

theorem teardown_setStep (s : State) (c : Ctx) {q : Starter} {st st' : TeardownStep}
    (h : s.teardown c = some ⟨q, st⟩) : (setStep s c st').teardown c = some ⟨q, st'⟩ := by
  unfold setStep
  rw [h]
  simp

theorem live_setStep (s : State) (c d : Ctx) (st : TeardownStep) : live (setStep s c st) d = live s d := by
  unfold setStep
  split <;> rfl

theorem stepBound_setStep (s : State) (c d : Ctx) (st x : TeardownStep) :
    stepBound (setStep s c st) d x = stepBound s d x := by
  unfold setStep
  split <;> rfl

/-- Moving a teardown from one step to another changes the bound by the difference of the steps' bounds. -/
theorem settleBound_setStep_of {s : State} {c : Ctx} {q : Starter} {st : TeardownStep} (h : s.teardown c = some ⟨q, st⟩)
    (st' : TeardownStep) :
    settleBound (setStep s c st') + stepBound s c st = settleBound s + stepBound s c st' := by
  have h1 := settleBound_setStep s c st'
  rw [ctxBound_eq s c h, ctxBound_eq _ c (teardown_setStep s c h), live_setStep, stepBound_setStep] at h1
  omega

/-- A turn or a departure under way, or a turn that begins on a frame on which `c` stands, that leaves `c` standing on the
frame no longer lowers the bound. -/
theorem settleBound_to_frames {s m : State} {c : Ctx} {f : Frame} {q : Starter} {st : TeardownStep} (h : NoMoreDue s m)
    (ht : s.teardown c = some ⟨q, st⟩)
    (hst : st = .turn f ∨ st = .departure f ∨ st = .frames ∧ standsOn c (s.frame f) = true)
    (hn : standsOn c (m.frame f) = false) : settleBound (setStep m c .frames) < settleBound s := by
  have ht' := (h.teardown c).trans ht
  have h1 := settleBound_le h
  have h2 := settleBound_setStep_of ht' .frames
  rcases hst with rfl | rfl | ⟨rfl, hs⟩
  · simp only [stepBound, hn] at h2; simp at h2; omega
  · simp only [stepBound, hn] at h2; simp at h2; omega
  · have h3 := settleBound_le_of_ctx h c
    have hl : (if live m c then 10 else 0) ≤ if live s c then 10 else 0 := by
      by_cases e : live m c = true
      · simp [e, h.live c e]
      · simp [e]
    have h4 := h.turnsBound_lt hs hn
    rw [ctxBound_eq s c ht, ctxBound_eq m c ht'] at h3
    simp only [stepBound] at h2 h3
    omega

/-! ## Each thing that is due lowers the bound -/

/-- A free choice makes nothing come due and takes one of the candidates. -/
theorem choose_spec {α : Type} {s s1 : State} {l : List α} {x : α} (h : choose s l = some (s1, x)) :
    x ∈ l ∧ s1 = { s with choices := s1.choices } := by
  match l, h with
  | [y], h =>
    simp only [choose, Option.some.injEq, Prod.mk.injEq] at h
    obtain ⟨rfl, rfl⟩ := h
    exact ⟨List.mem_singleton.2 rfl, rfl⟩
  | y :: z :: rest, h =>
    simp only [choose, Option.some.injEq, Prod.mk.injEq] at h
    obtain ⟨rfl, rfl⟩ := h
    refine ⟨?_, rfl⟩
    have hk : Config.freeChoice s.choices % (rest.length + 2) < (y :: z :: rest).length := by
      simpa using Nat.mod_lt (Config.freeChoice s.choices) (Nat.succ_pos (rest.length + 1))
    rw [List.getD_eq_getElem _ _ hk]
    exact List.getElem_mem hk

/-- The end of step 4 does not raise the bound. -/
theorem settleBound_endDrain (s : State) (c : Ctx) : settleBound (endDrain s c) ≤ settleBound s := by
  unfold endDrain
  split
  · rename_i ht
    have h := settleBound_setStep_of ht .frames
    simp only [stepBound] at h
    omega
  · exact le_rfl

/-- Taking a record from the withdrawal list lowers the bound. -/
theorem settleBound_removeRecord {s : State} {w : Withdrawal} (h : w ∈ s.withdrawals) :
    settleBound (removeRecord s w) < settleBound s := by
  have : (removeRecord s w).withdrawals.length < s.withdrawals.length :=
    List.length_filter_lt_length_iff_exists.2 ⟨w, h, by simp⟩
  have h1 : ((List.finRange 16).map (ctxBound (removeRecord s w))).sum = ((List.finRange 16).map (ctxBound s)).sum := rfl
  have h2 : ((List.finRange 4).map (portBound (removeRecord s w))).sum = ((List.finRange 4).map (portBound s)).sum := rfl
  unfold settleBound
  omega

theorem settleBound_endWithdrawal {s : State} {w : Withdrawal} (h : w ∈ s.withdrawals) :
    settleBound (endWithdrawal s w) < settleBound s := by
  have h1 := settleBound_removeRecord h
  unfold endWithdrawal
  dsimp only
  split
  · exact (settleBound_le ((NoMoreDue.reclaimExit _ _).trans (.respond _ _ _ _ _))).trans_lt h1
  · exact (settleBound_le (((NoMoreDue.removeHolder _ _ _).trans (.notifyOrigin _ _ _)).trans
      (.respond _ _ _ _ _))).trans_lt h1
  · exact (settleBound_le (((NoMoreDue.removeHolder _ _ _).trans (.notifyOwner _ _ _)).trans
      (.respond _ _ _ _ _))).trans_lt h1
  · exact (settleBound_le ((NoMoreDue.removeHolder _ _ _).trans (.notifyOwner _ _ _))).trans_lt h1
  · exact (settleBound_endDrain _ _).trans_lt h1
  · exact h1

theorem mem_of_dueWithdrawal {s : State} {w : Withdrawal} (h : dueWithdrawal s = some w) : w ∈ s.withdrawals := by
  unfold dueWithdrawal at h
  split at h
  · rename_i e; cases h; exact List.mem_of_find?_eq_some e
  · exact List.mem_of_find?_eq_some h

/-- The start of a withdrawal raises the bound by its record and no more. -/
theorem settleBound_startWithdrawal (s : State) (c : Ctx) (f : Option Frame) (q : Requester) :
    settleBound (startWithdrawal s c f q) ≤ settleBound s + 1 := by
  have h := settleBound_le (NoMoreDue.invalidate s c f)
  unfold startWithdrawal
  dsimp only
  have h1 : ∀ (t : State) (w : Withdrawal), settleBound { t with withdrawals := t.withdrawals ++ [w] } = settleBound t + 1 :=
    fun t w => by
      unfold settleBound
      have h1 : ((List.finRange 16).map (ctxBound { t with withdrawals := t.withdrawals ++ [w] })).sum
        = ((List.finRange 16).map (ctxBound t)).sum := rfl
      have h2 : ((List.finRange 4).map (portBound { t with withdrawals := t.withdrawals ++ [w] })).sum
        = ((List.finRange 4).map (portBound t)).sum := rfl
      rw [h1, h2, List.length_append, List.length_singleton]
      omega
  rw [h1]
  omega

/-- Dropping a holder that satisfies a test leaves fewer that do. -/
theorem countP_filter_lt {l : List Holder} {h : Holder} {P Q : Holder → Bool} (hm : h ∈ l) (hP : P h = false)
    (hQ : Q h = true) : (l.filter P).countP Q + 1 ≤ l.countP Q := by
  have : ((l.filter Q).filter P).length < (l.filter Q).length :=
    List.length_filter_lt_length_iff_exists.2 ⟨h, List.mem_filter.2 ⟨hm, hQ⟩, by simp [hP]⟩
  rw [List.countP_eq_length_filter, List.countP_eq_length_filter, List.filter_filter, Nat.add_one_le_iff]
  rw [List.filter_filter] at this
  simpa only [Bool.and_comm] using this

/-- Giving a frame up leaves no context standing on it. -/
theorem standsOn_giveUp (s : State) (f : Frame) (c : Ctx) : standsOn c ((giveUp s f c).frame f) = false := by
  simp [giveUp, standsOn]

/-- A turn lowers the bound: one that begins on a frame on which `c` stands, or one that waited and need not wait on. -/
theorem settleBound_examineTurn {s : State} {c : Ctx} {f : Frame} {q : Starter} {st : TeardownStep}
    (ht : s.teardown c = some ⟨q, st⟩)
    (hst : st = .frames ∧ standsOn c (s.frame f) = true ∨ st = .turn f ∧ turnDue s c = true) :
    settleBound (examineTurn s c f) < settleBound s := by
  have goesOn {m : State} (h : NoMoreDue s m) (hn : standsOn c (m.frame f) = false) :
      settleBound (setStep m c .frames) < settleBound s :=
    settleBound_to_frames h ht (hst.elim (fun h => .inr (.inr h)) fun h => .inl h.1) hn
  unfold examineTurn
  by_cases hs : standsOn c (s.frame f) = true
  swap
  · have h1 : (s.frame f).state ≠ .held ∨ (!holds (s.frame f).holders c) = true := by
      by_contra hn
      simp only [not_or, ne_eq, not_not, Bool.not_eq_true', Bool.not_eq_false] at hn
      exact hs (by simp [standsOn, hn.1, hn.2])
    rw [if_pos h1]
    exact goesOn (.refl _) (by simpa using hs)
  have hs' := hs
  simp only [standsOn, Bool.and_eq_true, beq_iff_eq] at hs'
  rw [if_neg (by simp [hs'.1, hs'.2])]
  have hgone : NoMoreDue s (reclaimExit (giveUp s f c) f) := (NoMoreDue.giveUp _ _ _).trans (.reclaimExit _ _)
  have gone := goesOn hgone (by
    by_contra hn
    have := (NoMoreDue.reclaimExit (giveUp s f c) f).standsOn_of (c := c) (f := f) (by simpa using hn)
    simp [standsOn_giveUp] at this)
  split
  · rename_i hw
    rcases hst with ⟨rfl, -⟩ | ⟨rfl, hd⟩
    · have h := settleBound_setStep_of ht (.turn f)
      simp only [stepBound, hs, if_true] at h
      omega
    · simp [turnDue, ht, hs'.1, hw] at hd
  rename_i hw
  split
  · refine goesOn ((NoMoreDue.removeHolder _ _ _).trans (.notifyOrigin _ _ _)) ?_
    rw [notifyOrigin_eq]
    show standsOn c ((removeHolder s f c).frame f) = false
    simp [removeHolder, standsOn, holds]
  rename_i ho
  split <;> [exact gone; skip]
  unfold examineDeparture
  have hw2 : anyWithdrawing (s.frame f).holders.tail = false := by
    unfold anyWithdrawing at hw ⊢
    simp only [Bool.not_eq_true] at hw
    rw [List.any_eq_false] at hw ⊢
    exact fun x hx => hw x (List.mem_of_mem_tail hx)
  rw [hw2, if_neg (by simp)]
  split <;> [exact gone; skip]
  split
  · rename_i d hd
    unfold heirOf at hd
    obtain ⟨h, hf, rfl⟩ := Option.map_eq_some_iff.1 hd
    have hmem := List.mem_of_find?_eq_some hf
    have hh : holds (s.frame f).holders h.ctx = true := by
      simp only [holds, List.any_eq_true, beq_iff_eq]
      exact ⟨h, List.mem_of_mem_tail hmem, rfl⟩
    have hm : NoMoreDue s (promote s f c h.ctx) := .promote _ _ _ _ (by simpa using ho) hh
    have hu : unflagged (promote s f c h.ctx) f + 1 ≤ unflagged s f := by
      have hp : unflagged (promote s f c h.ctx) f
          = ((s.frame f).holders.filter fun x => x.ctx != c && x.ctx != h.ctx).countP fun x => !x.withdrawing := by
        unfold unflagged promote
        simp
      have ho : originOf (s.frame f).holders = some c := by simpa using ho
      rw [hp]
      unfold unflagged
      cases e : (s.frame f).holders with
      | nil => simp [originOf, e] at ho
      | cons x t =>
        simp only [originOf, e, List.head?_cons, Option.map_some, Option.some.injEq] at ho
        rw [e, List.tail_cons] at hmem
        rw [e, List.tail_cons] at hw2
        simp only [List.tail_cons, List.filter_cons, ho, bne_self_eq_false, Bool.false_and]
        exact countP_filter_lt hmem (by simp) (by
          simp only [anyWithdrawing, List.any_eq_false] at hw2
          simpa using hw2 h hmem)
    have hT := turnsBound_le_of_one (s := s) (t := promote s f c h.ctx) c f fun k _ => hm.turns c k
    have hb : turnBound c ((promote s f c h.ctx).frame f) ≤ 4 + 2 * unflagged (promote s f c h.ctx) f := by
      unfold turnBound unflagged
      split <;> omega
    rw [turnBound_of_standsOn hs] at hT
    have h1 := settleBound_le_of_ctx (hm.trans (.notifyOwner _ h.ctx (.originInherited f h.ctx))) c
    generalize hn : notifyOwner (promote s f c h.ctx) h.ctx (.originInherited f h.ctx) = m at h1 ⊢
    have hmt : m.teardown c = s.teardown c := by rw [← hn, notifyOwner_eq]; rfl
    have hmT : turnsBound m c = turnsBound (promote s f c h.ctx) c := by rw [← hn, notifyOwner_eq]; rfl
    have hml : live m c = live (promote s f c h.ctx) c := by rw [← hn, notifyOwner_eq]; rfl
    have hl : (if live m c then 10 else 0) ≤ if live s c then 10 else 0 := by
      rw [hml]
      by_cases e : live (promote s f c h.ctx) c = true
      · simp [e, hm.live c e]
      · simp [e]
    have ht' := hmt.trans ht
    have h2 := settleBound_setStep_of ht' .frames
    rw [ctxBound_eq s c ht, ctxBound_eq m c ht'] at h1
    simp only [unflagged] at hu hb
    rcases hst with ⟨rfl, -⟩ | ⟨rfl, -⟩ <;> simp only [stepBound, hs, if_true] at h1 h2 <;> omega
  · have hm := NoMoreDue.markWithdrawing s f c
    have ht' := (hm.teardown c).trans ht
    have h1 := settleBound_setStep_of ht' (.departure f)
    have h2 := settleBound_le_of_ctx hm c
    have hT := hm.turnsBound_le c
    have hl : live (markWithdrawing s f c) c = live s c := rfl
    have hsm : standsOn c ((markWithdrawing s f c).frame f) = true := by
      simp only [markWithdrawing, frame_modFrame, if_true, standsOn, NoMoreDue.holds_flag]
      simpa [standsOn] using hs
    rw [ctxBound_eq s c ht, ctxBound_eq _ c ht', hl] at h2
    rcases hst with ⟨rfl, -⟩ | ⟨rfl, -⟩ <;> simp only [stepBound, hsm, hs, if_true] at h1 h2 <;> omega

theorem settleBound_nextCoHolder {s : State} {c : Ctx} {f : Frame} {q : Starter}
    (ht : s.teardown c = some ⟨q, .departure f⟩) (hd : turnDue s c = true) :
    settleBound (nextCoHolder s c f) < settleBound s := by
  have goesOn {m : State} (h : NoMoreDue s m) (hn : standsOn c (m.frame f) = false) :=
    settleBound_to_frames h ht (.inr (.inl rfl)) hn
  unfold turnDue at hd
  simp only [ht, Bool.or_eq_true, bne_iff_ne, ne_eq] at hd
  unfold nextCoHolder
  split
  · rename_i h1; exact goesOn (.refl _) (by simp [standsOn, h1])
  rename_i h1
  have hd := hd.resolve_left fun hn => hn (by simpa using h1)
  split
  · refine goesOn ((NoMoreDue.giveUp _ _ _).trans (.reclaimExit _ _)) ?_
    by_contra hn
    have := (NoMoreDue.reclaimExit (giveUp s f c) f).standsOn_of (c := c) (f := f) (by simpa using hn)
    simp [standsOn_giveUp] at this
  rename_i h rest hr
  simp only [hr, Bool.not_eq_true'] at hd
  have hm := NoMoreDue.markWithdrawing s f h.ctx
  have hlt : unflagged (markWithdrawing s f h.ctx) f + 1 ≤ unflagged s f := by
    unfold unflagged markWithdrawing
    simp only [modFrame, State.frame_setFrame, if_true, ← List.map_tail, hr, List.map_cons, List.countP_cons, hd]
    have := NoMoreDue.countP_flag_le rest h.ctx
    simp
    simpa using this
  have hw := settleBound_startWithdrawal (markWithdrawing s f h.ctx) h.ctx (some f) (.departure c)
  have hst : standsOn c ((markWithdrawing s f h.ctx).frame f) = standsOn c (s.frame f) := by
    simp only [markWithdrawing, frame_modFrame, if_true, standsOn, NoMoreDue.holds_flag]
  have hs : settleBound (markWithdrawing s f h.ctx) + 2 ≤ settleBound s := by
    have h2 := settleBound_le_of_ctx hm c
    have hT := hm.turnsBound_le c
    have hl : live (markWithdrawing s f h.ctx) c = live s c := rfl
    rw [ctxBound_eq s c ht, ctxBound_eq _ c ((hm.teardown c).trans ht), hl] at h2
    simp only [stepBound, hst] at h2
    cases e : standsOn c (s.frame f) with
    | true =>
      have h3 := turnsBound_le_of_one (s := s) (t := markWithdrawing s f h.ctx) c f fun k _ => hm.turns c k
      rw [turnBound_of_standsOn e, turnBound_of_standsOn (hst.trans e)] at h3
      simp only [unflagged] at hlt
      simp only [e, if_true] at h2
      omega
    | false => simp [e] at h2; omega
  unfold withdrawHolder
  omega

theorem settleBound_startContextWithdrawal {s : State} {c : Ctx} {q : Starter}
    (ht : s.teardown c = some ⟨q, .loads⟩) : settleBound (startContextWithdrawal s c) < settleBound s := by
  have h1 := settleBound_startWithdrawal (setStep s c .drain) c none .teardown
  have h2 := settleBound_setStep_of ht .drain
  simp only [stepBound] at h2
  unfold startContextWithdrawal
  omega

/-- Writing the teardown of one context changes the bound of that context, and that of a port that waits on it by 1. -/
theorem settleBound_setTeardown (s : State) (c : Ctx) (x : Option Teardown) :
    settleBound (s.setTeardown c x) + ctxBound s c ≤ settleBound s + ctxBound (s.setTeardown c x) c
      + (if x.isNone then 4 else 0) := by
  have h1 := sum_le_of_one (ctxBound (s.setTeardown c x)) (ctxBound s) c fun d hd => by
    unfold ctxBound live
    simp only [State.ctx_setTeardown, State.teardown_setTeardown, hd, if_false]
    rfl
  have h2 : ∀ p, portBound (s.setTeardown c x) p ≤ portBound s p + if x.isNone then 1 else 0 := fun p => by
    have hT : turnsBound (s.setTeardown c x) (homeOf p) = turnsBound s (homeOf p) := rfl
    unfold portBound
    simp only [State.port_setTeardown, State.teardown_setTeardown, hT]
    split
    · omega
    · rename_i d _
      by_cases e : d = c
      · subst e; cases x <;> simp
      · simp [e]
    · omega
  have h3 := sum_le_of_all (portBound (s.setTeardown c x)) _ h2
  have h4 : ((List.finRange 4).map fun p => portBound s p + if x.isNone then 1 else 0).sum
      = ((List.finRange 4).map (portBound s)).sum + if x.isNone then 4 else 0 := by
    simp only [← Fin.sum_univ_def, Fin.sum_univ_four]
    split <;> omega
  rw [h4] at h3
  unfold settleBound
  rw [State.withdrawals_setTeardown]
  omega

/-- Writing the record of one context changes the bound of that context alone. -/
theorem settleBound_setCtx (s : State) (c : Ctx) (r : CtxRec) :
    settleBound (s.setCtx c r) + ctxBound s c ≤ settleBound s + ctxBound (s.setCtx c r) c := by
  have h1 := sum_le_of_one (ctxBound (s.setCtx c r)) (ctxBound s) c fun d hd => by
    have e1 : live (s.setCtx c r) d = live s d := by unfold live; simp [hd]
    unfold ctxBound
    rw [e1]
    rfl
  have h2 : ((List.finRange 4).map (portBound (s.setCtx c r))).sum = ((List.finRange 4).map (portBound s)).sum := rfl
  unfold settleBound
  rw [State.withdrawals_setCtx]
  omega

/-- A port that moves to another state changes the bound of that port alone. -/
theorem settleBound_modPort (s : State) (p : Port) (g : PortRec → PortRec) :
    settleBound (modPort s p g) + portBound s p ≤ settleBound s + portBound (modPort s p g) p := by
  have h1 := sum_le_of_one (portBound (modPort s p g)) (portBound s) p fun q hq => by
    unfold portBound modPort
    simp only [State.port_setPort, hq, if_false]
    rfl
  have h2 : ((List.finRange 16).map (ctxBound (modPort s p g))).sum = ((List.finRange 16).map (ctxBound s)).sum := rfl
  have h3 : (modPort s p g).withdrawals = s.withdrawals := rfl
  unfold settleBound
  rw [h3]
  omega

theorem settleBound_finishTeardown {s : State} {c : Ctx} {q : Starter} (ht : s.teardown c = some ⟨q, .frames⟩) :
    settleBound (finishTeardown s c) < settleBound s := by
  have h1 := settleBound_setTeardown s c none
  have hc : ctxBound (s.setTeardown c none) c = if live s c then 10 else 0 := by
    unfold ctxBound
    simp [State.teardown_setTeardown]
    rfl
  rw [ctxBound_eq s c ht, hc] at h1
  simp only [stepBound, Option.isNone_none, if_true] at h1
  have h2 : settleBound (s.setTeardown c none) < settleBound s := by omega
  have h3 : ∀ m, NoMoreDue (s.setTeardown c none) m → settleBound (m.setCtx c CtxRec.free) < settleBound s := fun m hm => by
    have e1 := settleBound_setCtx m c CtxRec.free
    have e2 := settleBound_le hm
    have e3 : ctxBound (m.setCtx c CtxRec.free) c ≤ ctxBound m c := by
      unfold ctxBound
      have : live (m.setCtx c CtxRec.free) c = false := by unfold live; simp [CtxRec.free]
      rw [this]
      have : (m.setCtx c CtxRec.free).teardown c = none := by
        rw [State.teardown_setCtx, hm.teardown]; simp
      rw [this]
      simp
    omega
  unfold finishTeardown
  dsimp only
  split <;> [skip; exact h2]
  cases (s.ctx c).owner with
  | none =>
    split
    · exact (settleBound_le (.respond _ _ _ _ _)).trans_lt (h3 _ (.refl _))
    · exact h3 _ (.refl _)
  | some p =>
    split
    · exact (settleBound_le (.respond _ _ _ _ _)).trans_lt (h3 _ (.modCtx fun _ => rfl))
    · exact h3 _ (.modCtx fun _ => rfl)

/-- The frame of a turn is one on which the context stands. -/
theorem standsOn_lowestHeld {s : State} {c : Ctx} {f : Frame} (h : lowestHeld s c = some f) :
    standsOn c (s.frame f) = true := by
  unfold lowestHeld at h
  split at h <;> [skip; cases h]
  rename_i n hn
  split at h <;> [skip; cases h]
  cases h
  obtain ⟨h1, h2, -⟩ := List.findIdx?_eq_some_iff_getElem.1 hn
  simpa [State.frame, Vector.get_eq_getElem] using h2

theorem homeOf_not_pooled (p : Port) : pooled (homeOf p) = false := by revert p; decide

theorem nextPooled_spec {s : State} {p : Port} {c : Ctx} (h : nextPooled s p = some c) :
    pooled c = true ∧ (live s c = true ∨ (s.teardown c).isSome = true) := by
  have := List.find?_some h
  simp only [Bool.and_eq_true, Bool.or_eq_true] at this
  exact ⟨this.1.1, this.2⟩

/-- A port teardown that goes on to its next context lowers the bound, where 16 or more stood for the port beside the turns of
its home context. -/
theorem settleBound_enterContext {s : State} {p : Port} (hp : 16 + turnsBound s (homeOf p) ≤ portBound s p) :
    settleBound (enterContext s p) < settleBound s := by
  unfold enterContext
  split
  · rename_i c hc
    obtain ⟨hpool, hl⟩ := nextPooled_spec hc
    have hne : c ≠ homeOf p := fun e => by simp [e, homeOf_not_pooled] at hpool
    have h1 := settleBound_modPort s p fun x => { x with state := .teardown (.contexts c) }
    have hb : portBound (modPort s p fun x => { x with state := .teardown (.contexts c) }) p
        = 15 + turnsBound s (homeOf p) + if (s.teardown c).isNone then 1 else 0 := by
      unfold portBound modPort
      simp [hne]
      rfl
    rw [hb] at h1
    dsimp only
    split
    · rename_i hlive
      unfold startPooledTeardown
      have h2 := settleBound_setCtx (modPort s p fun x => { x with state := .teardown (.contexts c) }) c
        { (s.ctx c) with state := .teardown }
      have h3 := settleBound_setTeardown ((modPort s p fun x => { x with state := .teardown (.contexts c) }).setCtx c
        { (s.ctx c) with state := .teardown }) c (some ⟨.portReset p, .offers⟩)
      have hc1 : ctxBound (modPort s p fun x => { x with state := .teardown (.contexts c) }) c = ctxBound s c := rfl
      have hc4 : ctxBound (((modPort s p fun x => { x with state := .teardown (.contexts c) }).setCtx c
        { (s.ctx c) with state := .teardown }).setTeardown c (some ⟨.portReset p, .offers⟩)) c = 9 := by
        unfold ctxBound live
        simp [stepBound]
      have hc3 : ctxBound ((modPort s p fun x => { x with state := .teardown (.contexts c) }).setCtx c
        { (s.ctx c) with state := .teardown }) c + 10 = ctxBound s c := by
        unfold ctxBound
        have e1 : live ((modPort s p fun x => { x with state := .teardown (.contexts c) }).setCtx c
          { (s.ctx c) with state := .teardown }) c = false := by unfold live; simp
        have e2 : ((modPort s p fun x => { x with state := .teardown (.contexts c) }).setCtx c
          { (s.ctx c) with state := .teardown }).teardown c = s.teardown c := rfl
        have e3 : ∀ st, stepBound ((modPort s p fun x => { x with state := .teardown (.contexts c) }).setCtx c
          { (s.ctx c) with state := .teardown }) c st = stepBound s c st := fun st => by cases st <;> rfl
        rw [e1, e2, hlive]
        cases s.teardown c with
        | none => rfl
        | some t => simp [e3, Nat.add_comm]
      rw [if_neg (by simp)] at h3
      change settleBound (((modPort s p fun x => { x with state := .teardown (.contexts c) }).setCtx c
        { (s.ctx c) with state := .teardown }).setTeardown c (some ⟨.portReset p, .offers⟩)) < _
      split at h1 <;> omega
    · rename_i hlive
      have : (s.teardown c).isNone = false := by
        have := hl.resolve_left hlive
        cases e : s.teardown c <;> simp_all
      simp only [this] at h1
      simp at h1
      omega
  · have h1 := settleBound_modPort s p fun x => { x with state := .teardown (.contexts (homeOf p)) }
    have hb : portBound (modPort s p fun x => { x with state := .teardown (.contexts (homeOf p)) }) p ≤ 2 := by
      unfold portBound modPort
      simp only [State.port_setPort, if_true]
      split <;> omega
    have e3 : turnsBound (modPort s p fun x => { x with state := .teardown (.contexts (homeOf p)) }) (homeOf p)
      = turnsBound s (homeOf p) := rfl
    unfold cancelThenEndLoads endLoadsOfCtx
    refine (settleBound_le (.endLoadsWhere _ _ _)).trans_lt ?_
    generalize (modPort s p fun x => { x with state := .teardown (.contexts (homeOf p)) }) = u at *
    have h0 := NoMoreDue.cancelOffersOf u (homeOf p)
    have h2 := settleBound_le h0
    have hT := h0.turnsBound_le (homeOf p)
    generalize cancelOffersOf u (homeOf p) = m at *
    have h3 := settleBound_setTeardown m (homeOf p) (some ⟨.portReset p, .loads⟩)
    have hc : ctxBound (m.setTeardown (homeOf p) (some ⟨.portReset p, .loads⟩)) (homeOf p)
        ≤ 8 + turnsBound m (homeOf p) + ctxBound m (homeOf p) := by
      rw [ctxBound_eq (q := .portReset p) (st := .loads) _ _ (by simp)]
      have e1 : live (m.setTeardown (homeOf p) (some ⟨.portReset p, .loads⟩)) (homeOf p) = live m (homeOf p) := rfl
      have e2 : stepBound (m.setTeardown (homeOf p) (some ⟨.portReset p, .loads⟩)) (homeOf p) .loads
        = 8 + turnsBound m (homeOf p) := rfl
      have e4 : (if live m (homeOf p) then 10 else 0) ≤ ctxBound m (homeOf p) := Nat.le_add_right _ _
      rw [e1, e2]
      omega
    simp only [Option.isNone_some] at h3
    simp at h3
    omega

theorem settleBound_portStep {s : State} {p : Port} (hd : portDue s p = true) :
    settleBound (portStep s p) < settleBound s := by
  unfold portDue at hd
  unfold portStep
  split
  · rename_i h; exact settleBound_enterContext (by unfold portBound; simp [h])
  · rename_i c h
    rw [h] at hd
    dsimp only at hd
    split
    · rename_i e
      unfold endPortTeardown
      have h1 := settleBound_modPort s p fun x => { x with state := if x.prst then .teardown .ended else .up }
      have h2 : portBound s p = 2 := by unfold portBound; rw [h]; simp [e] at hd ⊢; simp [hd]
      have h3 : portBound (modPort s p fun x => { x with state := if x.prst then .teardown .ended else .up }) p = 0 := by
        unfold portBound modPort
        simp only [State.port_setPort, if_true]
        cases (s.port p).prst <;> simp
      omega
    · rename_i e
      exact settleBound_enterContext (by unfold portBound; rw [h]; simp [e, hd]; omega)
  · rename_i h1 h2
    revert hd
    split
    · rename_i h; exact absurd h h1
    · rename_i c h; exact absurd h (h2 c)
    · simp

/-- A context teardown that can go on lowers the bound. -/
theorem settleBound_takeStep {s : State} {c : Ctx} (hd : turnDue s c = true ∨ stepDue s c = true) :
    settleBound (takeStep s c) < settleBound s := by
  unfold takeStep
  split
  · rename_i ht; exact settleBound_startContextWithdrawal ht
  · rename_i h0
    have hd : turnDue s c = true := hd.resolve_right fun h => by
      unfold stepDue at h
      split at h
      · rename_i e; exact h0 _ e
      · cases h
    unfold takeTurn
    split
    · rename_i ht
      unfold frameTurn
      split
      · rename_i f hf
        exact settleBound_examineTurn ht (.inl ⟨rfl, standsOn_lowestHeld hf⟩)
      · exact settleBound_finishTeardown ht
    · rename_i ht; exact settleBound_examineTurn ht (.inr ⟨rfl, hd⟩)
    · rename_i ht; exact settleBound_nextCoHolder ht hd
    · rename_i h1 h2 h3
      revert hd
      unfold turnDue
      split
      · rename_i h; exact absurd h (h1 _)
      · rename_i h; exact absurd h (h2 _ _)
      · rename_i h; exact absurd h (h3 _ _)
      · simp

theorem mem_dueTeardowns_context {s : State} {c : Ctx} :
    Due.context c ∈ dueTeardowns s ↔ turnDue s c = true ∨ stepDue s c = true := by
  simp [dueTeardowns]

theorem mem_dueTeardowns_port {s : State} {p : Port} : Due.port p ∈ dueTeardowns s ↔ portDue s p = true := by
  simp [dueTeardowns]

/-- Each thing that is due, once taken, lowers the bound. -/
theorem takeDue_lowers {s t : State} (h : takeDue s = some t) : settleBound t < settleBound s := by
  unfold takeDue at h
  split at h
  · rename_i w hw; cases h; exact settleBound_endWithdrawal (mem_of_dueWithdrawal hw)
  split at h
  · rename_i s1 d hc
    cases h
    obtain ⟨hm, e⟩ := choose_spec hc
    have hb : settleBound s1 = settleBound s := by rw [e]; rfl
    have hm : d ∈ dueTeardowns s1 := by rw [e]; exact hm
    rw [← hb]
    cases d with
    | context c => exact settleBound_takeStep (mem_dueTeardowns_context.1 hm)
    | port p => exact settleBound_portStep (mem_dueTeardowns_port.1 hm)
  · cases h

/-! ## settle -/

/-- `settleFor` with enough fuel leaves nothing due. -/
theorem takeDue_settleFor (n : Nat) (s : State) (h : settleBound s ≤ n) : takeDue (settleFor n s) = none := by
  induction n generalizing s with
  | zero =>
    show takeDue s = none
    cases e : takeDue s with
    | none => rfl
    | some t => have := takeDue_lowers e; omega
  | succ n ih =>
    unfold settleFor
    split
    · assumption
    · rename_i t e; exact ih t (by have := takeDue_lowers e; omega)

/-- After `runDue` nothing is due. -/
theorem takeDue_runDue (s : State) : takeDue (runDue s) = none := takeDue_settleFor _ _ le_rfl

/-- Nothing is due exactly where no withdrawal and no teardown is. -/
theorem takeDue_eq_none {s : State} : takeDue s = none ↔ dueWithdrawal s = none ∧ dueTeardowns s = [] := by
  unfold takeDue
  split
  · rename_i w hw; simp [hw]
  · rename_i hw
    rw [hw, ← choose_eq_none s]
    split <;> simp_all

/-- Placing notices makes nothing come due, and takes nothing that is. -/
theorem dueTeardowns_placeNotices (s : State) : dueTeardowns (placeNotices s) = dueTeardowns s := by
  have h : ∀ p, portDue (placeNotices s) p = portDue s p := fun p => by
    unfold portDue
    rw [port_placeNotices, placed_eq]
    rfl
  unfold dueTeardowns
  rw [funext h]
  rfl

/-- After `settle` nothing is due. -/
theorem takeDue_settle (s : State) : takeDue (settle s) = none := by
  obtain ⟨h1, h2⟩ := takeDue_eq_none.1 (takeDue_runDue s)
  exact takeDue_eq_none.2 ⟨h1, (dueTeardowns_placeNotices _).trans h2⟩

/-- Where nothing is due nothing is taken. -/
theorem runDue_of_none {s : State} (h : takeDue s = none) : runDue s = s := by
  unfold runDue
  generalize settleBound s = n
  cases n with
  | zero => rfl
  | succ n => unfold settleFor; rw [h]

/-- Where nothing is due the event's notices are placed, and `settle` changes nothing else. -/
theorem settle_of_none {s : State} (h : takeDue s = none) : settle s = placeNotices s := by
  unfold settle
  rw [runDue_of_none h]

/-- Where something is due it is taken first and then the rest. -/
theorem runDue_of_some {s t : State} (h : takeDue s = some t) : runDue s = runDue t := by
  have more : ∀ (n k : Nat) (u : State), settleBound u ≤ n → settleBound u ≤ k → settleFor n u = settleFor k u := by
    intro n
    induction n with
    | zero =>
      intro k u h1 _
      have hu : takeDue u = none := by
        cases e : takeDue u with
        | none => rfl
        | some v => have := takeDue_lowers e; omega
      cases k <;> simp [settleFor, hu]
    | succ n ih =>
      intro k u h1 h2
      cases e : takeDue u with
      | none => cases k <;> simp [settleFor, e]
      | some v =>
        have hv := takeDue_lowers e
        cases k with
        | zero => omega
        | succ k => simp only [settleFor, e]; exact ih k v (by omega) (by omega)
  have hl := takeDue_lowers h
  unfold runDue
  obtain ⟨n, hn⟩ := Nat.exists_eq_succ_of_ne_zero (n := settleBound s) (by omega)
  rw [hn]
  simp only [settleFor, h]
  exact more _ _ _ (by omega) le_rfl

theorem settle_of_some {s t : State} (h : takeDue s = some t) : settle s = settle t := by
  unfold settle
  rw [runDue_of_some h]

/-- An induction over what `runDue` does: a property kept by each thing taken holds after. -/
theorem runDue_induct {P : State → Prop} (step : ∀ s t, P s → takeDue s = some t → P t) {s : State} (h : P s) :
    P (runDue s) := by
  have : ∀ n u, P u → P (settleFor n u) := by
    intro n
    induction n with
    | zero => exact fun _ h => h
    | succ n ih =>
      intro u hu
      unfold settleFor
      split
      · exact hu
      · rename_i t e; exact ih t (step u t hu e)
  exact this _ _ h

/-- An induction over what `settle` does: a property kept by each thing taken and by the placing of notices holds after. -/
theorem settle_induct {P : State → Prop} (step : ∀ s t, P s → takeDue s = some t → P t)
    (place : ∀ s, P s → P (placeNotices s)) {s : State} (h : P s) : P (settle s) :=
  place _ (runDue_induct step h)

end Sys2Proof.Machine
end

