-- ==== Sys2Proof/Laws/SettleFrame.lean ====
section
/-! SUPPORT. What `settle` leaves alone: the pins and the tick counts, the free list, the next serial, the memory port and its
generations, the queue of commands, and of each port the binding, the lanes, the transit table and the access stream. -/

namespace Sys2Proof.Machine

open Sys2Proof

/-- A port record with what `settle` may change set to fixed values. -/
def PortRec.apart (r : PortRec) : PortRec :=
  { r with state := .up, slots := [], notices := [], dropped := 0, arriving := [], controlResponses := [] }

/-- A state with what `settle` may change set to fixed values. -/
def State.apart (s : State) : State :=
  { s with
    frames := State.reset.frames
    scrubQueue := []
    contexts := State.reset.contexts
    teardowns := State.reset.teardowns
    maps := State.reset.maps
    offers := State.reset.offers
    withdrawals := []
    ports := mapVec PortRec.apart s.ports
    scrub := .idle
    loadQueue := []
    load := .idle
    choices := 0 }

namespace State

theorem apart_setPort {s : State} {p : Port} {r : PortRec} (h : r.apart = (s.port p).apart) :
    (s.setPort p r).apart = s.apart := by
  unfold apart setPort
  dsimp only
  congr 1
  exact vector_ext_get fun q => by
    rw [mapVec_get, mapVec_get, vector_get_set]
    split
    · rename_i e; subst e; exact h
    · rfl

theorem apart_respond (s : State) (p : Port) (t : Tag) (v : Verdict) (rs : List Byte) :
    (respond s p t v rs).apart = s.apart := by
  refine apart_setPort ?_
  show ((s.port p).responded t v rs).apart = (s.port p).apart
  rw [responded_eq]
  rfl

theorem apart_notify (s : State) (p : Port) (n : Notice) : (notify s p n).apart = s.apart := by
  refine apart_setPort ?_
  show ((s.port p).notified n).apart = (s.port p).apart
  rw [notified_eq]
  rfl

theorem apart_notifyOwner (s : State) (c : Ctx) (n : Notice) : (notifyOwner s c n).apart = s.apart := by
  unfold notifyOwner
  split <;> [exact apart_notify _ _ _; rfl]

theorem apart_notifyOrigin (s : State) (f : Frame) (n : Notice) : (notifyOrigin s f n).apart = s.apart := by
  unfold notifyOrigin
  split <;> [exact apart_notifyOwner _ _ _; rfl]

theorem apart_placeNotices (s : State) : (placeNotices s).apart = s.apart := by
  unfold apart placeNotices
  dsimp only
  congr 1
  exact vector_ext_get fun q => by
    rw [mapVec_get, mapVec_get, mapVec_get, placed_eq]
    rfl

theorem apart_reclaimExit (s : State) (f : Frame) : (reclaimExit s f).apart = s.apart := by
  obtain ⟨a, b, d, h⟩ : ∃ a b d, reclaimExit s f = { s with frames := a, scrubQueue := b, scrub := d } :=
    ⟨_, _, _, reclaimExit_frame s f⟩
  rw [h]
  rfl

theorem apart_invalidate (s : State) (c : Ctx) (f : Option Frame) : (invalidate s c f).apart = s.apart := by
  obtain ⟨a, b, m, h⟩ : ∃ a b m, invalidate s c f = { s with frames := a, contexts := b, maps := m } :=
    ⟨_, _, _, invalidate_frame s c f⟩
  rw [h]
  rfl

theorem apart_startWithdrawal (s : State) (c : Ctx) (f : Option Frame) (q : Requester) :
    (startWithdrawal s c f q).apart = s.apart := by
  rw [startWithdrawal_eq]
  refine Eq.trans ?_ (apart_invalidate s c f)
  generalize invalidate s c f = t
  rfl

theorem apart_setStep (s : State) (c : Ctx) (x : TeardownStep) : (setStep s c x).apart = s.apart := by
  unfold setStep
  split <;> rfl

theorem apart_cancelOffer (s : State) (i : OfferId) (c : Ctx) : (cancelOffer s i c).apart = s.apart := by
  unfold cancelOffer
  split
  · rfl
  · rw [apart_notifyOwner]
    unfold removeOffer
    split <;> rfl

theorem apart_foldl {α : Type} {g : State → α → State} (h : ∀ s a, (g s a).apart = s.apart) (l : List α) (s : State) :
    (l.foldl g s).apart = s.apart := by
  induction l generalizing s with
  | nil => rfl
  | cons a l ih => exact (ih _).trans (h s a)

theorem apart_cancelOffersOf (s : State) (c : Ctx) : (cancelOffersOf s c).apart = s.apart :=
  apart_foldl (fun s i => by
    split <;> [rfl; skip]
    split <;> [exact apart_cancelOffer _ _ _; skip]
    split <;> [exact apart_cancelOffer _ _ _; rfl]) _ _

theorem apart_endRunning (s : State) (e : LoadEnd) : (endRunning s e).apart = s.apart := by
  unfold endRunning
  split <;> [rfl; exact apart_respond _ _ _ _ _]

theorem apart_runLoadsFor (n : Nat) (s : State) : (runLoadsFor n s).apart = s.apart := by
  induction n generalizing s with
  | zero => rfl
  | succ n ih =>
    unfold runLoadsFor
    split <;> [rfl; skip]
    split <;> [rfl; exact (ih _).trans (apart_endRunning _ _)]

theorem apart_runLoads (s : State) : (runLoads s).apart = s.apart := apart_runLoadsFor _ _

theorem apart_removeQueued (s : State) (w : LoadRec → Bool) (e : LoadEnd) : (removeQueued s w e).apart = s.apart := by
  unfold removeQueued
  split
  · rfl
  · exact apart_foldl (fun _ _ => apart_respond _ _ _ _ _) _ _

theorem apart_placeStop (s : State) (q : StopRequest) : (placeStop s q).apart = s.apart := by
  unfold placeStop
  split <;> [rfl; skip]
  split <;> [rfl; skip]
  dsimp only
  split <;> [exact apart_runLoads _; rfl]

theorem apart_endLoadsWhere (s : State) (w : LoadRec → Bool) (q : StopRequest) : (endLoadsWhere s w q).apart = s.apart := by
  unfold endLoadsWhere
  dsimp only
  split <;> [exact apart_removeQueued _ _ _; skip]
  split <;> [exact (apart_placeStop _ _).trans (apart_removeQueued _ _ _); exact apart_removeQueued _ _ _]

theorem apart_cancelThenEndLoads (s : State) (c : Ctx) (q : Starter) : (cancelThenEndLoads s c q).apart = s.apart := by
  unfold cancelThenEndLoads endLoadsOfCtx
  refine (apart_endLoadsWhere _ _ _).trans (Eq.trans ?_ (apart_cancelOffersOf s c))
  generalize cancelOffersOf s c = t
  rfl

theorem apart_endDrain (s : State) (c : Ctx) : (endDrain s c).apart = s.apart := by
  unfold endDrain
  split <;> [exact apart_setStep _ _ _; rfl]

theorem apart_endWithdrawal (s : State) (w : Withdrawal) : (endWithdrawal s w).apart = s.apart := by
  unfold endWithdrawal
  dsimp only
  split
  · exact (apart_respond _ _ _ _ _).trans (apart_reclaimExit _ _)
  · exact (apart_respond _ _ _ _ _).trans (apart_notifyOrigin _ _ _)
  · exact (apart_respond _ _ _ _ _).trans (apart_notifyOwner _ _ _)
  · exact apart_notifyOwner _ _ _
  · exact apart_endDrain _ _
  · rfl

theorem apart_gone (s : State) (c : Ctx) (f : Frame) (x : TeardownStep) :
    (setStep (reclaimExit (giveUp s f c) f) c x).apart = s.apart :=
  (apart_setStep _ _ _).trans (apart_reclaimExit _ _)

theorem apart_examineDeparture (s : State) (c : Ctx) (f : Frame) : (examineDeparture s c f).apart = s.apart := by
  unfold examineDeparture
  split <;> [exact apart_setStep _ _ _; skip]
  split <;> [exact apart_gone _ _ _ _; skip]
  split
  · exact (apart_setStep _ _ _).trans (apart_notifyOwner _ _ _)
  · exact apart_setStep _ _ _

theorem apart_examineTurn (s : State) (c : Ctx) (f : Frame) : (examineTurn s c f).apart = s.apart := by
  unfold examineTurn
  split <;> [exact apart_setStep _ _ _; skip]
  split <;> [exact apart_setStep _ _ _; skip]
  split <;> [exact (apart_setStep _ _ _).trans (apart_notifyOrigin _ _ _); skip]
  split <;> [exact apart_gone _ _ _ _; exact apart_examineDeparture _ _ _]

theorem apart_nextCoHolder (s : State) (c : Ctx) (f : Frame) : (nextCoHolder s c f).apart = s.apart := by
  unfold nextCoHolder
  split <;> [exact apart_setStep _ _ _; skip]
  split <;> [exact apart_gone _ _ _ _; exact apart_startWithdrawal _ _ _ _]

theorem apart_finishTeardown (s : State) (c : Ctx) : (finishTeardown s c).apart = s.apart := by
  unfold finishTeardown
  dsimp only
  split <;> [skip; rfl]
  cases (s.ctx c).owner with
  | none => split <;> [exact apart_respond _ _ _ _ _; rfl]
  | some p => split <;> [exact apart_respond _ _ _ _ _; rfl]

theorem apart_enterContext (s : State) (p : Port) : (enterContext s p).apart = s.apart := by
  unfold enterContext
  split
  · dsimp only
    split
    · exact apart_setPort (s := s) rfl
    · exact apart_setPort (s := s) rfl
  · exact (apart_cancelThenEndLoads _ _ _).trans (apart_setPort (s := s) rfl)

theorem apart_portStep (s : State) (p : Port) : (portStep s p).apart = s.apart := by
  unfold portStep
  split
  · exact apart_enterContext _ _
  · split <;> [exact apart_setPort (s := s) rfl; exact apart_enterContext _ _]
  · rfl

theorem apart_frameTurn (s : State) (c : Ctx) : (frameTurn s c).apart = s.apart := by
  unfold frameTurn
  split <;> [exact apart_examineTurn _ _ _; exact apart_finishTeardown _ _]

theorem apart_takeStep (s : State) (c : Ctx) : (takeStep s c).apart = s.apart := by
  unfold takeStep
  split
  · exact (apart_startWithdrawal _ _ _ _).trans (apart_setStep _ _ _)
  · unfold takeTurn
    split
    · exact apart_frameTurn _ _
    · exact apart_examineTurn _ _ _
    · exact apart_nextCoHolder _ _ _
    · rfl

theorem apart_takeDue {s t : State} (h : takeDue s = some t) : t.apart = s.apart := by
  unfold takeDue at h
  split at h
  · cases h; exact apart_endWithdrawal _ _
  split at h
  · rename_i s1 d hc
    cases h
    have e : s1.apart = s.apart := by rw [(choose_spec hc).2]; rfl
    cases d with
    | context c => exact (apart_takeStep _ _).trans e
    | port p => exact (apart_portStep _ _).trans e
  · cases h

/-- `settle` changes nothing of what stands apart from it. -/
theorem apart_settle (s : State) : (settle s).apart = s.apart :=
  settle_induct (P := fun t => t.apart = s.apart) (fun _ _ h e => (apart_takeDue e).trans h)
    (fun _ h => (apart_placeNotices _).trans h) rfl

end State

theorem settle_pending (s : State) : (settle s).pending = s.pending := by
  have h := congrArg (fun t : State => t.pending) (State.apart_settle s)
  exact h
theorem settle_rstAsserted (s : State) : (settle s).rstAsserted = s.rstAsserted := by
  have h := congrArg (fun t : State => t.rstAsserted) (State.apart_settle s)
  exact h
theorem settle_freeList (s : State) : (settle s).freeList = s.freeList := by
  have h := congrArg (fun t : State => t.freeList) (State.apart_settle s)
  exact h
theorem settle_pointer (s : State) : (settle s).pointer = s.pointer := by
  have h := congrArg (fun t : State => t.pointer) (State.apart_settle s)
  exact h
theorem settle_memoryRequests (s : State) : (settle s).memoryRequests = s.memoryRequests := by
  have h := congrArg (fun t : State => t.memoryRequests) (State.apart_settle s)
  exact h

/-- `settle` leaves of each port all but its state, slots, notices and control stream. -/
theorem settle_port (s : State) (p : Port) : ((settle s).port p).apart = (s.port p).apart := by
  have h := congrArg (fun t => State.port t p) (State.apart_settle s)
  simpa only [State.port, State.apart, mapVec_get] using h

end Sys2Proof.Machine
end

