-- ==== Sys2Proof/Tests/Slice0.lean ====
section
/-! SUPPORT. Tests of the model, with expected values worked out from the spec, and for each statement with hypotheses a state
and operands that meet them. Each test is one step on a small state. -/

namespace Sys2Proof.Tests

set_option Elab.async false

open Sys2Proof Sys2Proof.Machine

/-! ## Which commands the links can carry -/

/-- A message of length 12 has 8 operand bytes (11.2). -/
theorem wf_refuses_short_control_message :
    Instr.wf (.controlRequestArrival 1 ⟨0x20, 9, 12, 0, [5, 3, 0xB5, 4, 1, 0, 0]⟩) = false ∧
      Instr.wf (.controlRequestArrival 1 ⟨0x20, 9, 12, 0, [5, 3, 0xB5, 4, 1, 0, 0, 0]⟩) = true := by decide

/-- A read carries no data (R119). -/
theorem wf_refuses_read_with_data : Instr.wf (.accessArrival 0 ⟨1, .plain, .read, 0, 0, [7]⟩) = false := by decide

/-- A write carries length bytes of data (R119). -/
theorem wf_refuses_short_write :
    Instr.wf (.accessArrival 0 ⟨1, .plain, .write, 0, 1, [7]⟩) = false ∧
      Instr.wf (.accessArrival 0 ⟨1, .plain, .write, 0, 1, [7, 8]⟩) = true := by decide

/-- An access has at most 256 bytes (R119). -/
theorem wf_refuses_long_completion : Instr.wf (.transitCompletionOk 0 0 0 (List.replicate 257 0)) = false := by decide +kernel

/-- The same of a completion by its identifier; an ERROR carries no data (11.6). -/
theorem wf_refuses_stale_completion :
    Instr.wf (.staleCompletion 0 0 0 .ok (List.replicate 257 0)) = false ∧
      Instr.wf (.staleCompletion 0 0 0 .error [1]) = false := by decide +kernel

/-- A descriptor has 8 bytes (R142). -/
theorem wf_refuses_short_descriptor : Instr.wf (.loadReadCompletion 0 [1, 0, 0x5A, 0x5A, 0, 0, 0x14]) = false := by decide

/-- No word spells a command: the table gives no bits. -/
theorem decode_none : decodeTableWord 8 0 = none ∧ (State.reset.withFetchWord 8 0).pending = [] := by decide +kernel

/-! ## Small states -/

/-- The state that a command leaves. -/
def after (c : Instr) (s : State) : State :=
  match exec c s with
  | .next t => t
  | .fault _ => s
  | .refused _ => s

/-- A waiting request, admitted with all four classes. -/
def asked (t : Tag) (k : RequestKind) (ops : List Byte) : ControlSlot := ⟨t, k, ops, 15, .waiting, false⟩

/-- A request waits at port `p`. -/
def asks (s : State) (p : Port) (t : Tag) (k : RequestKind) (ops : List Byte) : State :=
  s.setPort p { s.port p with slots := (s.port p).slots ++ [asked t k ops] }

/-- What `asks` makes of a port that is UP and does not use the tag. -/
theorem requested_asks {s : State} {p : Port} {t : Tag} {k : RequestKind} {ops : List Byte}
    (up : (s.port p).state = .up) (free : slotOf (s.port p) t = none) :
    Requested (asks s p t k ops) p t k (asked t k ops) := by
  have e : (asks s p t k ops).port p = { s.port p with slots := (s.port p).slots ++ [asked t k ops] } := by
    simp [asks]
  refine ⟨by rw [e]; exact up, ?_, rfl, rfl, rfl⟩
  rw [e]
  unfold slotOf at *
  simp only [List.find?_append, free]
  simp [asked]

/-- What port `p` has been sent on its control response stream. -/
def said (s : State) (p : Port) : List (List Byte) := (s.port p).controlResponses

/-- What port `p` has been sent on its access response stream. -/
def answered (s : State) (p : Port) : List AccessResponse := (s.port p).accessResponses

/-- The notices in port `p`'s queue. -/
def told (s : State) (p : Port) : List (List Byte) := (s.port p).notices

/-- Frame `f` is HELD by these holders. -/
def heldBy (s : State) (f : Frame) (hs : List Holder) (mapCount : Nat) : State :=
  s.setFrame f ⟨.held, hs, mapCount, false, 0⟩

/-- Context `c` is LIVE and owned by `p`, with these quota, charged, share and entry counts. -/
def live (s : State) (c : Ctx) (p : Port) (quota charged shares entries : Nat) : State :=
  s.setCtx c ⟨.live, some p, 15, quota, charged, shares, entries⟩

/-- Offer slot `i` holds this offer. -/
def offers (s : State) (i : OfferId) (o : OfferRec) : State :=
  (s.setOffer i (some o)).setFrame o.frame
    { s.frame o.frame with pendingOffers := (s.frame o.frame).pendingOffers + 1 }

/-- Slot `i` of port `p` carries this access, under generation `gen`. -/
def carries (s : State) (p : Port) (i : Slot) (gen : Byte) (e : TransitEntry) : State :=
  let r := s.port p
  s.setPort p
    { r with
      transit := r.transit.set i ⟨gen, some e⟩
      issueQueue := if e.phase = .waiting then r.issueQueue ++ [i] else r.issueQueue
      plainCount := if e.mode = .plain then r.plainCount + 1 else r.plainCount }

/-- The machine with the scrub engine at rest and no frame waiting for it. -/
def quiet : State := { State.reset with scrubQueue := [], scrub := .idle }

/-- P1 owns the pooled context C5 beside its home context. -/
def withC5 : State := live quiet 5 1 6 0 0 0

/-- C0 is origin of frame 12 and C5 a co-holder with READ, mapped at page 2 of C5. -/
def shared : State :=
  (heldBy (live (live quiet 0 0 1024 1 0 0) 5 1 6 0 1 1) 12 [⟨0, .readWrite, false⟩, ⟨5, .read, false⟩] 1).setEntry 5 2
    (some ⟨12, .read⟩)

/-- A load of P1 for C5 from frame 61, held by C1, with the next index at `next` of 4. -/
def loadRec (next : Nat) : LoadRec := ⟨1, 2, 5, 61, 0, 4, 0x5A5A0001, next, none⟩

/-- That load runs: C5 is co-holder of frame 13 with READ and origin of frame 88 (8's example). -/
def loading (next : Nat) (st : LoadState) : State :=
  { asks (heldBy (heldBy (heldBy withC5 61 [⟨1, .readWrite, false⟩] 0) 13 [⟨0, .readWrite, false⟩, ⟨5, .read, false⟩] 1) 88
      [⟨5, .readWrite, false⟩] 0) 1 2 .mapLoad [5, 4, 61, 0, 0, 0, 0, 0, 1, 0, 0x5A, 0x5A] with
    loadQueue := [loadRec next]
    load := st
    readGen := 9 }

/-- A plain read of P1 through C5's page 2 at offset 80h, 128 bytes, ISSUED (12.2). -/
def readR (age : Nat) : TransitEntry := ⟨5, .plain, 5, 2, 12, .read, 0x80, 128, [], .issued age⟩

/-! ## Device reset and port reset -/

/-- R137: an access waiting at a lane is answered OFFLINE, and the ports are DOWN (R154). -/
theorem test_rstNAssert :
    let s := State.reset.setPort 2 { State.reset.port 2 with plainLane := [⟨7, .plain, .read, 0, 3, []⟩] }
    let t := after .rstNAssert s
    t.rstAsserted = true ∧ answered t 2 = [⟨7, .offline⟩] ∧ (t.port 3).state = .down := by
  decide +kernel

/-- R27: PART = 10 gives the home contexts 3072, 512, 256 and 256. -/
theorem test_rstNRelease :
    let t := after (.rstNRelease 2) { State.reset with rstAsserted := true }
    ((List.finRange 16).map fun c => (t.ctx c).quota) = [3072, 512, 256, 256, 0, 0, 0, 0, 0, 0, 0, 0, 0, 0, 0, 0] ∧
      t.scrub = .ready 0 0 := by
  decide +kernel

/-- R154, R164: PRST_N takes a port from UP to TEARDOWN, rebound to its home context. -/
theorem test_prstNAssert :
    let t := after (.prstNAssert 1) (withC5.setPort 1 { withC5.port 1 with bound := 5, notices := [[1]] })
    (t.port 1).state = .teardown (.contexts 5) ∧ (t.port 1).bound = 1 ∧ told t 1 = [] ∧ (t.ctx 5).state = .teardown := by
  decide +kernel

theorem test_prstNDeassert :
    let s := quiet.setPort 1 { quiet.port 1 with state := .teardown .ended, prst := true }
    ((after (.prstNDeassert 1) s).port 1).state = .up := by
  decide +kernel

/-- P1 in phase LOADS of its teardown, with no load left. -/
def loadsOver : State := withC5.setPort 1 { withC5.port 1 with state := .teardown .loads, prst := true }

/-- R166: the first context in phase CONTEXTS is the lowest-numbered pooled one. -/
theorem test_portTeardownLoadsEnd :
    let t := after (.portTeardownLoadsEnd 1) loadsOver
    (t.port 1).state = .teardown (.contexts 5) ∧ (t.ctx 5).state = .teardown := by
  decide +kernel

/-- P1 in phase CONTEXTS on C4, which has become FREE, with C5 left. -/
def contextOver : State := withC5.setPort 1 { withC5.port 1 with state := .teardown (.contexts 4), prst := true }

theorem test_portTeardownNextContext :
    ((after (.portTeardownNextContext 1) contextOver).port 1).state = .teardown (.contexts 5) := by
  decide +kernel

/-- P1 in phase CONTEXTS on its home context, whose teardown has ended. -/
def homeOver (prst : Bool) : State := quiet.setPort 1 { quiet.port 1 with state := .teardown (.contexts 1), prst := prst }

/-- R167: the port is UP, or in phase ENDED while PRST_N is asserted. -/
theorem test_portTeardownEnd :
    ((after (.portTeardownEnd 1) (homeOver false)).port 1).state = .up ∧
      ((after (.portTeardownEnd 1) (homeOver true)).port 1).state = .teardown .ended := by
  decide +kernel

/-! ## The control channel -/

/-- 11's example: MAP_SET with byte 9 = 01h is MALFORMED, answered 20h, 09h, 01h, 04h. -/
theorem test_arrival_malformed :
    said (after (.controlRequestArrival 1 ⟨0x20, 9, 12, 0, [5, 3, 0xB5, 4, 1, 1, 0, 0]⟩) quiet) 1 =
      [[0x20, 0x09, 0x01, 0x04]] := by
  decide +kernel

/-- The same well formed takes a slot. -/
theorem test_arrival_admitted :
    let t := after (.controlRequestArrival 1 ⟨0x20, 9, 12, 0, [5, 3, 0xB5, 4, 1, 0, 0, 0]⟩) quiet
    said t 1 = [] ∧ (t.port 1).slots = [⟨9, .mapSet, [5, 3, 0xB5, 4, 1, 0, 0, 0], 15, .waiting, false⟩] := by
  decide +kernel

/-- 10's example, step 3: 16 records and 3 dropped, FETCH_NOTICES (4) leaves 12. -/
theorem test_fetchNotices :
    let r : List Byte := 4 :: List.replicate 15 0
    let s := quiet.setPort 1 { quiet.port 1 with notices := List.replicate 16 r, dropped := 3 }
    let t := after (.fetchNotices 1 0) (asks s 1 0 .fetchNotices [4, 0, 0, 0])
    said t 1 = [[0x40, 0, 0, 72, 4, 12, 3, 0] ++ r ++ r ++ r ++ r] ∧ (told t 1).length = 12 ∧ (t.port 1).dropped = 0 := by
  decide +kernel

/-! ## The frame table -/

/-- 12.1, step 1: NO_FRAMES with 0 and 4096. -/
theorem test_claim_noFrames :
    said (after (.claim 0 1) (asks State.reset 0 1 .claim [0, 2, 0, 0])) 0 =
      [[0x01, 0x01, 9, 8, 0, 0, 0x00, 0x10]] := by
  decide +kernel

/-- 12.1, step 4: CLAIM (C0, 2) takes frames 0 and 1 from the head of 0, 1, 2. -/
theorem test_claim_takes :
    let s : State := { quiet with freeList := [0, 1, 2] }
    let t := after (.claim 0 1) (asks s 0 1 .claim [0, 2, 0, 0])
    said t 0 = [[0x01, 0x01, 0, 12, 2, 0, 0, 0, 0, 0, 1, 0]] ∧ t.freeList = [2] ∧ (t.ctx 0).charged = 2 ∧
      t.frame 1 = ⟨.held, [⟨0, .readWrite, false⟩], 0, false, 0⟩ := by
  decide +kernel

/-- C3 is origin and sole holder of frame 301. -/
def sole (mark : Bool) : State :=
  (live quiet 3 3 1024 1 0 0).setFrame 301 ⟨.held, [⟨3, .readWrite, false⟩], 0, mark, 0⟩

/-- 6's example, step 1: with a clear mark the frame goes to the tail of the scrub queue, and the engine leaves IDLE. -/
theorem test_release_scrubs :
    let t := after (.release 3 2) (asks (sole false) 3 2 .release [3, 0, 0x2D, 0x01])
    said t 3 = [[0x02, 0x02, 0, 8, 0, 0, 0, 0]] ∧ (t.frame 301).state = .scrub ∧ t.scrubQueue = [301] ∧
      t.scrub = .ready 301 0 ∧ (t.ctx 3).charged = 0 := by
  decide +kernel

/-- 6's example, step 2: with the mark set it is RETIRED, and the response says so. -/
theorem test_release_retires :
    let t := after (.release 3 2) (asks (sole true) 3 2 .release [3, 0, 0x2D, 0x01])
    said t 3 = [[0x02, 0x02, 0, 8, 1, 0, 0, 0]] ∧ (t.frame 301).state = .retired ∧ t.scrubQueue = [] := by
  decide +kernel

/-- 11.3: the frame's state, holder count, counts and holder records; NOT_HOLDER with the state to a port that owns none. -/
theorem test_frameInfo :
    said (after (.frameInfo 1 3) (asks shared 1 3 .frameInfo [0, 0, 12, 0])) 1 =
      [[0x03, 3, 0, 20, 1, 2, 1, 0, 0, 0, 0, 0, 0, 2, 0, 0, 5, 1, 0, 0]] ∧
    said (after (.frameInfo 2 3) (asks shared 2 3 .frameInfo [0, 0, 12, 0])) 2 = [[0x03, 3, 10, 8, 1, 0, 0, 0]] := by
  decide +kernel

/-- 12.1 at the release: 4096 frames SCRUB. -/
theorem test_deviceInfo :
    said (after (.deviceInfo 0 0) (asks State.reset 0 0 .deviceInfo [])) 0 =
      [[0x04, 0, 0, 24, 0, 0, 0, 0, 0, 0, 0x00, 0x10, 0, 0, 0, 0, 0x00, 0x10, 0, 0, 0, 0, 0, 0]] := by
  decide +kernel

/-! ## The context table -/

/-- R29: the lowest-numbered FREE pooled context, with the classes asked for. -/
theorem test_create :
    let t := after (.create 2 4) (asks withC5 2 4 .create [0b0101, 0, 0, 0])
    said t 2 = [[0x10, 4, 0, 8, 4, 0, 0, 0]] ∧ t.ctx 4 = ⟨.live, some 2, 5, 0, 0, 0, 0⟩ := by
  decide +kernel

/-- R30: the bound context is IN_USE; unbound it enters TEARDOWN with no response. -/
theorem test_destroy :
    let bound := withC5.setPort 1 { withC5.port 1 with bound := 5 }
    said (after (.destroy 1 6) (asks bound 1 6 .destroy [5, 0, 0, 0])) 1 = [[0x11, 6, 21, 4]] ∧
    (let t := after (.destroy 1 6) (asks withC5 1 6 .destroy [5, 0, 0, 0])
     said t 1 = [] ∧ (t.ctx 5).state = .teardown) := by
  decide +kernel

/-- R31: C1 cedes 6 to C4 of P2, which is told; both quotas are the results (1018 = 03FAh). -/
theorem test_cede :
    let t := after (.cede 1 7) (asks (live quiet 4 2 0 0 0 0) 1 7 .cede [1, 4, 6, 0])
    said t 1 = [[0x12, 7, 0, 8, 0xFA, 0x03, 6, 0]] ∧
      told t 2 = [[8, 0, 1, 4, 6, 0, 0, 0, 0, 0, 0, 0, 0, 0, 0, 0]] := by
  decide +kernel

/-- 11.3: C5 LIVE, owned by P1, the switch target; quota 6. -/
theorem test_contextInfo :
    let s := withC5.setPort 1 { withC5.port 1 with binding := .switching 5 1 }
    said (after (.contextInfo 0 8) (asks s 0 8 .contextInfo [5, 0, 0, 0])) 0 =
      [[0x13, 8, 0, 16, 1, 1, 15, 3, 6, 0, 0, 0, 0, 0, 0, 0]] := by
  decide +kernel

/-- R51, R52: with no plain entry the bind is taken at once; with one the port is SWITCHING and says nothing. -/
theorem test_bind :
    said (after (.bind 1 1) (asks withC5 1 1 .bind [5, 0, 0, 0])) 1 = [[0x14, 1, 0, 8, 1, 0, 0, 0]] ∧
    (let t := after (.bind 1 1) (asks (carries withC5 1 0 1 (readR 0)) 1 1 .bind [5, 0, 0, 0])
     said t 1 = [] ∧ (t.port 1).binding = .switching 5 1 ∧ (t.port 1).bound = 1) := by
  decide +kernel

/-! ## The map store -/

/-- C5 holds frames 40 and 1205, and its page 3 names frame 40. -/
def page3 : State :=
  (heldBy (heldBy (live quiet 5 1 6 2 0 1) 40 [⟨5, .readWrite, false⟩] 1) 1205 [⟨5, .readWrite, false⟩] 0).setEntry 5 3
    (some ⟨40, .readWrite⟩)

/-- 11's example: the response to MAP_SET is 20h, 09h, 00h, 08h, 01h, 00h, 28h, 00h. -/
theorem test_mapSet :
    let t := after (.mapSet 1 9) (asks page3 1 9 .mapSet [5, 3, 0xB5, 4, 1, 0, 0, 0])
    said t 1 = [[0x20, 0x09, 0x00, 0x08, 0x01, 0x00, 0x28, 0x00]] ∧ t.entry 5 3 = some ⟨1205, .read⟩ ∧
      (t.frame 40).mapCount = 0 ∧ (t.frame 1205).mapCount = 1 ∧ (t.ctx 5).validCount = 1 := by
  decide +kernel

/-- 11's example: with byte 4 = 15h the answer is BAD_OPERAND, 20h, 09h, 07h, 04h. -/
theorem test_mapSet_badOperand :
    said (after (.mapSet 1 9) (asks page3 1 9 .mapSet [0x15, 3, 0xB5, 4, 1, 0, 0, 0])) 1 = [[0x20, 0x09, 0x07, 0x04]] := by
  decide +kernel

theorem test_mapClear :
    let t := after (.mapClear 1 9) (asks page3 1 9 .mapClear [5, 3, 0, 0])
    said t 1 = [[0x21, 9, 0, 8, 1, 0, 40, 0]] ∧ t.entry 5 3 = none ∧ (t.frame 40).mapCount = 0 ∧
      (t.ctx 5).validCount = 0 := by
  decide +kernel

/-- 11.3: rights READ of an entry on frame 12, which is HELD, with holder rights READ. -/
theorem test_probe :
    said (after (.probe 1 9) (asks shared 1 9 .probe [5, 2, 0, 0])) 1 =
      [[0x22, 9, 0, 12, 1, 1, 12, 0, 1, 1, 0, 0]] := by
  decide +kernel

/-! ## The map loads -/

/-- 8's example, step 1: the home context's holding is enough, and the load runs at once. -/
theorem test_mapLoad :
    let s := heldBy withC5 61 [⟨1, .readWrite, false⟩] 0
    let t := after (.mapLoad 1 2) (asks s 1 2 .mapLoad [5, 4, 61, 0, 0, 0, 0, 0, 1, 0, 0x5A, 0x5A])
    said t 1 = [] ∧ t.loadQueue = [loadRec 0] ∧ t.load = .ready := by
  decide +kernel

/-- R147: a running load in READY ends CANCELLED with its applied count, after the LOAD_CANCEL's own answer. -/
theorem test_loadCancel :
    let t := after (.loadCancel 1 4) (asks (loading 2 .ready) 1 4 .loadCancel [2, 0, 0, 0])
    said t 1 = [[0x24, 4, 0, 4], [0x23, 2, 25, 8, 0, 2, 2, 0]] ∧ t.loadQueue = [] ∧ t.load = .idle := by
  decide +kernel

/-- 8's example, descriptor 0: SET page 0 to frame 13 with READ; action 1 and rights 1 over the frame number. -/
theorem test_loadReadCompletion :
    let t := after (.loadReadCompletion 9 [1, 0, 0x5A, 0x5A, 0, 0, 13, 0x50]) (loading 0 (.outstanding 3))
    t.entry 5 0 = some ⟨13, .read⟩ ∧ (t.frame 13).mapCount = 2 ∧ (t.ctx 5).validCount = 1 ∧
      t.loadQueue = [loadRec 1] ∧ t.load = .ready := by
  decide +kernel

/-- 12.4, step 3: a stamp of another list stops the load at index 2 here, STAMP_MISMATCH. -/
theorem test_loadReadCompletion_stamp :
    said (after (.loadReadCompletion 9 [0, 0, 0x5A, 0x5A, 0, 0, 13, 0x50]) (loading 2 (.outstanding 3))) 1 =
      [[0x23, 2, 24, 8, 2, 2, 2, 0]] := by
  decide +kernel

/-- R145: an ERROR sets the source's mark and stops the load, MEMORY_FAULT. -/
theorem test_loadReadError :
    let t := after (.loadReadError 9) (loading 2 (.outstanding 3))
    said t 1 = [[0x23, 2, 24, 8, 6, 2, 2, 0]] ∧ (t.frame 61).errorMark = true := by
  decide +kernel

theorem test_loadReadTimeout :
    said (after .loadReadTimeout (loading 2 (.outstanding 199))) 1 = [] ∧
      said (after .loadReadTimeout (loading 2 (.outstanding 200))) 1 = [[0x23, 2, 24, 8, 6, 2, 2, 0]] := by
  decide +kernel

/-! ## Sharing -/

/-- C0 is origin and sole holder of frame 7, and the next serial is 118. -/
def lone : State := { heldBy (live withC5 0 0 1024 1 0 0) 7 [⟨0, .readWrite, false⟩] 0 with nextSerial := 118 }

/-- 4's example, step 1: the first offer takes slot 0 with serial 118, and P1 is told. -/
theorem test_offer :
    let t := after (.offer 0 1) (asks lone 0 1 .offer [0, 5, 7, 0, 1, 0, 3, 0])
    said t 0 = [[0x30, 1, 0, 8, 0, 0, 118, 0]] ∧ t.offer 0 = some ⟨118, 7, 0, 5, .read, 3⟩ ∧ t.nextSerial = 119 ∧
      (t.frame 7).pendingOffers = 1 ∧ told t 1 = [[3, 0, 0, 5, 118, 0, 7, 0, 1, 0, 3, 0, 0, 0, 0, 0]] := by
  decide +kernel

/-- Offer 0 of frame 7 by C0 to C5 is pending, with a remaining lifetime. -/
def offered (ms : Nat) : State := offers lone 0 ⟨118, 7, 0, 5, .read, ms⟩

/-- 4's example, step 6: the target joins the holder list, and the offerer's port is told ACCEPTED. -/
theorem test_accept :
    let t := after (.accept 1 2) (asks (offered 1) 1 2 .accept [0, 0, 118, 0])
    said t 1 = [[0x31, 2, 0, 8, 7, 0, 0, 0]] ∧ (t.frame 7).holders = [⟨0, .readWrite, false⟩, ⟨5, .read, false⟩] ∧
      (t.ctx 5).shareCount = 1 ∧ t.offer 0 = none ∧ (t.frame 7).pendingOffers = 0 ∧
      told t 0 = [[4, 0, 1, 0, 118, 0, 7, 0, 0, 0, 0, 0, 0, 0, 0, 0]] := by
  decide +kernel

/-- 4's example, step 5: another serial is NO_SUCH_OFFER. -/
theorem test_accept_serial :
    said (after (.accept 1 2) (asks (offered 1) 1 2 .accept [0, 0, 119, 0])) 1 = [[0x31, 2, 19, 4]] := by
  decide +kernel

theorem test_decline :
    let t := after (.decline 1 2) (asks (offered 1) 1 2 .decline [0, 0, 118, 0])
    said t 1 = [[0x32, 2, 0, 4]] ∧ (t.frame 7).holders.length = 1 ∧
      told t 0 = [[4, 0, 2, 0, 118, 0, 7, 0, 0, 0, 0, 0, 0, 0, 0, 0]] := by
  decide +kernel

/-- R75: the frame and the remaining lifetime are the results, and the target's port is told RETRACTED. -/
theorem test_retract :
    let t := after (.retract 0 2) (asks (offered 300) 0 2 .retract [0, 0, 118, 0])
    said t 0 = [[0x33, 2, 0, 8, 7, 0, 0x2C, 0x01]] ∧
      told t 1 = [[4, 0, 4, 0, 118, 0, 7, 0, 0, 0, 0, 0, 0, 0, 0, 0]] := by
  decide +kernel

/-- R80: with nothing in transit the leave ends at once, and the origin's port is told SHARE_LEFT. -/
theorem test_leave :
    let t := after (.leave 1 2) (asks shared 1 2 .leave [5, 0, 12, 0])
    said t 1 = [[0x34, 2, 0, 4]] ∧ (t.frame 12).holders = [⟨0, .readWrite, false⟩] ∧ t.entry 5 2 = none ∧
      told t 0 = [[6, 0, 5, 0, 0, 0, 12, 0, 0, 0, 0, 0, 0, 0, 0, 0]] := by
  decide +kernel

/-- 12.2, step 5: the flag is set, the page is invalid, and the read in transit is the drain set. -/
theorem test_revoke :
    let t := after (.revoke 0 2) (asks (carries shared 1 0 1 (readR 0)) 0 2 .revoke [0, 5, 12, 0])
    said t 0 = [] ∧ t.frame 12 = ⟨.held, [⟨0, .readWrite, false⟩, ⟨5, .read, true⟩], 0, false, 0⟩ ∧
      (t.ctx 5).validCount = 0 ∧ t.withdrawals = [⟨5, some 12, .revoke 0 2, [(1, 0)]⟩] := by
  decide +kernel

/-! ## Withdrawals and context teardowns -/

/-- P0's slot holds the carried-on REVOKE under tag 2, and C5's withdrawal of frame 12 waits for this drain set. -/
def withdrawing (drain : List (Port × Slot)) : State :=
  let s := shared.setFrame 12 ⟨.held, [⟨0, .readWrite, false⟩, ⟨5, .read, true⟩], 0, false, 0⟩
  let r := s.port 0
  { (live s 5 1 6 0 1 0).setPort 0 { r with slots := [⟨2, .revoke, [0, 5, 12, 0], 15, .active, false⟩] } with
    withdrawals := [⟨5, some 12, .revoke 0 2, drain⟩] }

/-- R82: the co-holder is gone, its port is told SHARE_LOST REVOKED, and the REVOKE is answered. -/
theorem test_withdrawalEnd :
    let t := after (.withdrawalEnd 5 (some 12)) (withdrawing [])
    said t 0 = [[0x35, 2, 0, 4]] ∧ told t 1 = [[5, 1, 5, 0, 0, 0, 12, 0, 0, 0, 0, 0, 0, 0, 0, 0]] ∧
      (t.ctx 5).shareCount = 0 ∧ t.withdrawals = [] := by
  decide +kernel

/-- C5 is in TEARDOWN at a step, asked for by P1's DESTROY under tag 6. -/
def tearing (s : State) (st : TeardownStep) : State :=
  let r := s.port 1
  ((s.setCtx 5 { s.ctx 5 with state := .teardown }).setTeardown 5 (some ⟨.destroy 1 6, st⟩)).setPort 1
    { r with slots := [⟨6, .destroy, [5, 0, 0, 0], 15, .active, false⟩] }

/-- R38: the offer to C5 is removed, and the offerer's port is told CANCELLED. -/
theorem test_teardownOfferCancel :
    let t := after (.teardownOfferCancel 5) (tearing (offered 9) .offers)
    t.offer 0 = none ∧ told t 0 = [[4, 0, 5, 0, 118, 0, 7, 0, 0, 0, 0, 0, 0, 0, 0, 0]] := by
  decide +kernel

/-- 2's example: P1's C6 holds frames 300 and 301 as origin, 301 with C2, and 512 as C0's co-holder; frame 300 is offered to C3
and nothing is in transit. -/
def example2 : State :=
  let s := live (live (live (live quiet 1 1 1020 0 0 0) 6 1 4 2 1 3) 2 2 1024 10 1 1) 0 0 1024 1 0 1
  let held := heldBy (heldBy (heldBy s 300 [⟨6, .readWrite, false⟩] 1) 301 [⟨6, .readWrite, false⟩, ⟨2, .read, false⟩] 2)
    512 [⟨0, .readWrite, false⟩, ⟨6, .readWrite, false⟩] 2
  let mapped := (((offers held 0 ⟨41, 300, 6, 3, .readWrite, 500⟩).setEntry 6 0 (some ⟨300, .readWrite⟩)).setEntry 6 1 (some ⟨301, .readWrite⟩)).setEntry 6 2
    (some ⟨512, .readWrite⟩)
  let r := mapped.port 1
  ((mapped.setCtx 6 { mapped.ctx 6 with state := .teardown }).setTeardown 6 (some ⟨.destroy 1 6, .offers⟩)).setPort 1
    { r with slots := [⟨6, .destroy, [6, 0, 0, 0], 15, .active, false⟩] }

/-- 2's example, steps 2 to 7, with nothing to wait for: at one event (R36) the frames are dealt with, the contexts' records are
those of the example's table, and P1 receives DONE with 4. -/
theorem test_teardownOfferCancel_toItsEnd :
    let t := after (.teardownOfferCancel 6) example2
    t.teardown 6 = none ∧ said t 1 = [[0x11, 6, 0, 8, 4, 0, 0, 0]] ∧
      t.ctx 1 = ⟨.live, some 1, 15, 1024, 0, 0, 0⟩ ∧ t.ctx 2 = ⟨.live, some 2, 15, 1024, 11, 0, 1⟩ ∧
      t.ctx 6 = ⟨.free, none, 0, 0, 0, 0, 0⟩ := by
  decide +kernel

/-- 2's example: the frames' records and the three notices of the same event. -/
theorem test_teardownOfferCancel_frames :
    let t := after (.teardownOfferCancel 6) example2
    t.frame 300 = ⟨.scrub, [], 0, false, 0⟩ ∧ t.frame 301 = ⟨.held, [⟨2, .readWrite, false⟩], 1, false, 0⟩ ∧
      t.frame 512 = ⟨.held, [⟨0, .readWrite, false⟩], 1, false, 0⟩ ∧
      told t 3 = [[4, 0, 5, 0, 41, 0, 0x2C, 0x01, 0, 0, 0, 0, 0, 0, 0, 0]] ∧
      told t 2 = [[7, 0, 2, 0, 0, 0, 0x2D, 0x01, 0, 0, 0, 0, 0, 0, 0, 0]] ∧
      told t 0 = [[6, 0, 6, 0, 0, 0, 0x00, 0x02, 0, 0, 0, 0, 0, 0, 0, 0]] := by
  decide +kernel

/-- P1's teardown stands at its last pooled context C5, before step 2. C0 has offered frame 7 to C1 as offer 1 and to C5 as
offer 3, and P0 has room for one notice. -/
def lastPooled (room : Nat) : State :=
  let s := tearing (offers (offers lone 3 ⟨121, 7, 0, 5, .read, 9⟩) 1 ⟨119, 7, 0, 1, .read, 9⟩) .offers
  ((s.setTeardown 5 (some ⟨.portReset 1, .offers⟩)).setPort 1
    { s.port 1 with state := .teardown (.contexts 5), prst := true, slots := [] }).setPort 0
    { s.port 0 with notices := List.replicate (16 - room) (List.replicate 16 0) }

/-- R180: the offers to the pooled context and to the home context end at one event, and P0 is told in ascending offer id
(reason CANCELLED); with room for one the later is dropped. -/
theorem test_notices_of_one_event :
    (told (after (.teardownOfferCancel 5) (lastPooled 16)) 0).map (fun n => n.take 5) =
      [[4, 1, 5, 0, 119], [4, 3, 5, 0, 121]] ∧
    (let t := after (.teardownOfferCancel 5) (lastPooled 1)
     (told t 0).map (fun n => n.take 5) = List.replicate 15 [0, 0, 0, 0, 0] ++ [[4, 1, 5, 0, 119]] ∧
      (t.port 0).dropped = 1) := by
  decide +kernel

/-- R150, R164: PRST_N ends P1's load; in READY at once, with the read outstanding by a stop request, and phase LOADS waits. -/
theorem test_prstNAssert_load :
    (let t := after (.prstNAssert 1) (loading 2 .ready)
     t.loadQueue = [] ∧ said t 1 = [] ∧ (t.port 1).state = .teardown (.contexts 5)) ∧
    (let t := after (.prstNAssert 1) (loading 2 (.outstanding 3))
     t.loadQueue = [{ loadRec 2 with stop := some .portReset }] ∧ (t.port 1).state = .teardown .loads) := by
  decide +kernel

/-- 2's example, step 6: a co-holder in teardown is removed, and the origin's port is told SHARE_LEFT. -/
theorem test_teardownFrameTurn_coHolder :
    let s := live (heldBy quiet 12 [⟨0, .readWrite, false⟩, ⟨5, .read, false⟩] 0) 5 1 6 0 1 0
    let t := after (.teardownFrameTurn 5) (tearing s .frames)
    (t.frame 12).holders = [⟨0, .readWrite, false⟩] ∧ (t.ctx 5).shareCount = 0 ∧
      told t 0 = [[6, 0, 5, 0, 0, 0, 12, 0, 0, 0, 0, 0, 0, 0, 0, 0]] := by
  decide +kernel

/-- 2's example, step 5: the co-holder with headroom inherits, READ_WRITE, with the charge. -/
theorem test_teardownFrameTurn_origin :
    let s := live (live (heldBy quiet 30 [⟨5, .readWrite, false⟩, ⟨2, .read, false⟩] 1) 5 1 4 1 0 0) 2 2 1024 10 1 1
    let t := after (.teardownFrameTurn 5) (tearing s .frames)
    (t.frame 30).holders = [⟨2, .readWrite, false⟩] ∧ (t.ctx 2).charged = 11 ∧ (t.ctx 2).shareCount = 0 ∧
      told t 2 = [[7, 0, 2, 0, 0, 0, 30, 0, 0, 0, 0, 0, 0, 0, 0, 0]] := by
  decide +kernel

/-! ## The access path -/

/-- 12.1, step 2: FAULT with cause NOT_MAPPED, and ACCESS_FAULT with mode elevated, context C0 and address 0. -/
theorem test_access_notMapped :
    let t := after (.accessArrival 0 ⟨0, .elevated, .read, 0, 63, []⟩) State.reset
    answered t 0 = [⟨0, .fault .notMapped⟩] ∧
      told t 0 = [[1, 3, 1, 0, 0, 0, 0, 0, 0, 0, 0, 0, 0, 0, 0, 0]] := by
  decide +kernel

/-- 7's example, step 1: W takes slot 0 with generation 12 and joins the issue queue. -/
theorem test_access_accepted :
    let s := (quiet.setEntry 1 2 (some ⟨900, .readWrite⟩)).setPort 1
      ((quiet.port 1).setSlot 0 ⟨11, none⟩)
    let t := after (.accessArrival 1 ⟨7, .plain, .write, 0x4040, 31, List.replicate 32 1⟩) s
    ((t.port 1).slot 0).gen = 12 ∧ (t.port 1).issueQueue = [0] ∧ (t.port 1).plainCount = 1 ∧
      (((t.port 1).slot 0).entry.map fun e => (e.frame, e.offset.val, e.length)) = some (900, 0x40, 32) := by
  decide +kernel

/-- A waiting plain access is held while the port is SWITCHING, and taken when SETTLED (R120, R121). -/
theorem test_accessTranslation :
    let r := { quiet.port 2 with plainLane := [⟨3, .plain, .read, 0xA000, 63, []⟩] }
    let held := quiet.setPort 2 { r with binding := .switching 7 1 }
    answered (after (.accessTranslation 2) held) 2 = [] ∧
      answered (after (.accessTranslation 2) (quiet.setPort 2 r)) 2 = [⟨3, .fault .notMapped⟩] := by
  decide +kernel

/-- W of P1 and A of P0 wait for their grants (7's example). -/
def waitingTwo (pointer : MemoryRequester) : State :=
  { carries (carries quiet 1 0 12 ⟨7, .plain, 1, 2, 900, .write, 0x40, 32, List.replicate 32 1, .waiting⟩) 0 0 1
      ⟨0, .elevated, 0, 0, 10, .read, 0, 64, [], .waiting⟩ with
    pointer := pointer }

/-- 7's example, step 4: the pointer at P1 grants W, at 708040h, and moves to P2; there A is granted and it moves to P1. -/
theorem test_memoryPortGrant :
    (let t := after .memoryPortGrant (waitingTwo (.port 1))
     t.memoryRequests = [⟨1, 0, 12, .write, 0x708040, 32, List.replicate 32 1⟩] ∧ t.pointer = .port 2) ∧
    (let t := after .memoryPortGrant (waitingTwo (.port 2))
     t.memoryRequests = [⟨0, 0, 1, .read, 0x14000, 64, []⟩] ∧ t.pointer = .port 1) := by
  decide +kernel

/-- 6's example, step 4, on frame 301 in place of 3001: write 17 goes to 301 × 8192 + 17 × 256 = 25B100h. -/
theorem test_memoryPortGrant_scrub :
    let t := after .memoryPortGrant { quiet with scrubQueue := [301], scrub := .ready 301 17, writeGen := 90 }
    t.memoryRequests = [⟨4, 0, 91, .write, 0x25B100, 256, List.replicate 256 0⟩] ∧ t.scrub = .outstanding 301 17 0 := by
  decide +kernel

/-- The read R of 12.2 is in transit, and the withdrawal of frame 12 waits for it. -/
def draining (age : Nat) : State := carries (withdrawing [(1, 0)]) 1 0 1 (readR age)

/-- 12.2, step 7: R's data goes to P1, the slot is FREE, and the withdrawal ends at this event. -/
theorem test_transitCompletionOk :
    let t := after (.transitCompletionOk 1 0 1 [9, 8]) (draining 4)
    answered t 1 = [⟨5, .ok [9, 8]⟩] ∧ said t 0 = [[0x35, 2, 0, 4]] ∧ t.withdrawals = [] ∧
      ((t.port 1).slot 0) = ⟨1, none⟩ ∧ (t.frame 12).errorMark = false := by
  decide +kernel

/-- R131: MEMORY_ERROR, the mark, and MEMORY_FAULT ERROR with mode plain, frame 12 and logical address 4080h. -/
theorem test_transitCompletionError :
    let t := after (.transitCompletionError 1 0 1) (carries shared 1 0 1 (readR 4))
    answered t 1 = [⟨5, .memoryError⟩] ∧ (t.frame 12).errorMark = true ∧
      told t 1 = [[2, 1, 0, 0, 0, 0, 12, 0, 0x80, 0x40, 0, 0, 0, 0, 0, 0]] := by
  decide +kernel

/-- R132: at an age of 200 and not before. -/
theorem test_transitTimeout :
    answered (after (.transitTimeout 1 0) (carries shared 1 0 1 (readR 199))) 1 = [] ∧
      answered (after (.transitTimeout 1 0) (carries shared 1 0 1 (readR 200))) 1 = [⟨5, .memoryTimeout⟩] := by
  decide +kernel

/-- 7's example: a late completion with the generation of the access before is discarded. -/
theorem test_staleCompletion :
    let s := carries shared 1 0 13 (readR 4)
    exec (.staleCompletion 1 0 12 .ok [1]) s = .next s ∧ exec (.staleCompletion 6 0 13 .ok [1]) s = .next s :=
  ⟨rfl, rfl⟩

/-- P2's switch to C7 has nothing left to wait for; its BIND has tag 1. -/
def switching : State :=
  let r := quiet.port 2
  (live quiet 7 2 0 0 0 0).setPort 2
    { r with
      binding := .switching 7 1
      slots := [⟨1, .bind, [7, 0, 0, 0], 15, .active, false⟩] }

/-- 9's example, step 5: bound to C7 and SETTLED, and DONE with the previous bound context C2. -/
theorem test_switchCompletion :
    let t := after (.switchCompletion 2) switching
    said t 2 = [[0x14, 1, 0, 8, 2, 0, 0, 0]] ∧ (t.port 2).bound = 7 ∧ (t.port 2).binding = .settled := by
  decide +kernel

/-! ## The scrub engine and the timebase -/

/-- Frame 301 is scrubbed, with this progress and age, write generation 91. -/
def scrubbing (k age : Nat) : State :=
  { quiet with
    scrubQueue := [301]
    scrub := .outstanding 301 k age
    writeGen := 91 }

/-- 6's example: write 17 leaves progress 18; write 31 makes the frame FREE at the tail of the free list. -/
theorem test_scrubCompletionOk :
    (after (.scrubCompletionOk 91) (scrubbing 17 5)).scrub = .ready 301 18 ∧
    (let t := after (.scrubCompletionOk 91) (scrubbing 31 5)
     t.freeList = [301] ∧ (t.frame 301).state = .free ∧ t.scrub = .idle ∧ t.scrubQueue = []) := by
  decide +kernel

theorem test_scrubCompletionError :
    let t := after (.scrubCompletionError 91) (scrubbing 17 5)
    t.frame 301 = ⟨.retired, [], 0, true, 0⟩ ∧ t.scrub = .idle ∧ t.scrubQueue = [] := by
  decide +kernel

/-- 6's example, step 5: at 200 microseconds the frame is RETIRED, its mark set. -/
theorem test_scrubWriteTimeout :
    (after .scrubWriteTimeout (scrubbing 17 199)).scrub = .outstanding 301 17 199 ∧
      (after .scrubWriteTimeout (scrubbing 17 200)).frame 301 = ⟨.retired, [], 0, true, 0⟩ := by
  decide +kernel

/-- R113: the tick at which the age reaches 200 fails the scrub. -/
theorem test_microsecondTick :
    (after .microsecondTick (scrubbing 17 198)).scrub = .outstanding 301 17 199 ∧
      (after .microsecondTick (scrubbing 17 199)).scrub = .idle := by
  decide +kernel

/-- 4's example, step 6, the tick first: the offer expires, and both parties' ports are told EXPIRED. -/
theorem test_millisecondTick :
    let t := after .millisecondTick (offered 1)
    t.offer 0 = none ∧ (t.frame 7).pendingOffers = 0 ∧
      told t 0 = [[4, 0, 3, 0, 118, 0, 7, 0, 0, 0, 0, 0, 0, 0, 0, 0]] ∧ told t 1 = told t 0 := by
  decide +kernel

theorem test_offerExpiry :
    (after (.offerExpiry 0) (offered 0)).offer 0 = none ∧ ((after (.offerExpiry 0) (offered 1)).offer 0).isSome = true := by
  decide +kernel

/-! ## The hypotheses of each statement are met -/

/-- A queue with a command. -/
theorem witness_OutputsOnlyGrow :
    step { quiet with pending := [.millisecondTick] } = .next (after .millisecondTick quiet) := rfl

theorem witness_StepRunsFrontCommand : State.reset.pending = [] := rfl

theorem witness_RstNAssertResets : quiet.rstAsserted = false := rfl

theorem witness_RstNReleaseStarts : (after .rstNAssert quiet).rstAsserted = true := by decide +kernel

theorem witness_PrstNAssertStartsTeardown_notUp :
    ((quiet.port 0).prst = false ∧ (quiet.port 0).state = .up) ∧
      ((after .rstNAssert quiet).port 0).prst = false ∧ ((after .rstNAssert quiet).port 0).state ≠ .up := by
  decide +kernel

theorem witness_PrstNDeassertEnds :
    ((homeOver true).port 1).prst = true ∧ (loadsOver.port 1).prst = true ∧
      ((after (.portTeardownEnd 1) (homeOver true)).port 1).state = .teardown .ended := by
  decide +kernel

/-- Nothing is due in `s` but port P1's teardown. -/
abbrev OnlyPortDue (s : State) : Prop :=
  (∀ w ∈ s.withdrawals, w.drain ≠ []) ∧ (∀ c, turnDue s c = false ∧ stepDue s c = false) ∧
    ∀ q, q ≠ 1 → portDue s q = false

theorem witness_PortTeardownGoesOn_loads :
    OnlyPortDue loadsOver ∧ (loadsOver.port 1).state = .teardown .loads ∧ ∀ r ∈ loadsOver.loadQueue, r.port ≠ 1 := by
  decide +kernel

theorem witness_PortTeardownGoesOn_next :
    OnlyPortDue contextOver ∧ (contextOver.port 1).state = .teardown (.contexts 4) ∧ (4 : Ctx) ≠ homeOf 1 ∧
      contextOver.teardown 4 = none := by
  decide +kernel

theorem witness_PortTeardownGoesOn_end :
    ∀ b, OnlyPortDue (homeOver b) ∧ ((homeOver b).port 1).state = .teardown (.contexts (homeOf 1)) ∧
      (homeOver b).teardown (homeOf 1) = none := by
  decide +kernel

/-- A request of each kind is refused for an operand just past its range. -/
theorem witness_OperandsOutOfRangeRefused :
    (∀ k ops, Requested (asks quiet 0 3 k ops) 0 3 k (asked 3 k ops)) ∧
    ∀ x ∈ ([(.claim, [0, 9, 0, 0]), (.claim, [0, 0, 0, 0]), (.release, [0, 0, 0, 16]), (.frameInfo, [0, 0, 0, 16]),
        (.destroy, [3, 0, 0, 0]), (.cede, [0, 1, 1, 16]), (.contextInfo, [16, 0, 0, 0]), (.bind, [16, 0, 0, 0]),
        (.mapSet, [0, 0, 0, 0, 3, 0, 0, 0]), (.mapSet, [0, 128, 0, 0, 1, 0, 0, 0]), (.mapClear, [0, 128, 0, 0]),
        (.probe, [0, 128, 0, 0]), (.mapLoad, [0, 2, 0, 0, 0xF8, 0x1F, 0, 0, 0, 0, 0, 0]), (.loadCancel, [16, 0, 0, 0]),
        (.offer, [0, 1, 0, 0, 1, 0, 0, 16]), (.accept, [16, 0, 0, 0]), (.decline, [16, 0, 0, 0]), (.retract, [16, 0, 0, 0]),
        (.leave, [16, 0, 0, 0]), (.revoke, [0, 16, 0, 0]), (.fetchNotices, [5, 0, 0, 0])] : List (RequestKind × List Byte)),
      operandsOutOfRange x.1 x.2 = true :=
  ⟨fun _ _ => requested_asks rfl rfl, by decide⟩

theorem witness_ResponseFreesSlot :
    slotOf ((asks quiet 1 6 .probe []).port 1) 6 = some (asked 6 .probe []) ∧
    (slotOf ((tearing quiet .frames).port 1) 6).isSome = true ∧
    (slotOf ((after (.prstNAssert 1) (withdrawing [])).port 1) 6).isSome = false ∧
    (slotOf ((after (.prstNAssert 0) (withdrawing [(1, 0)])).port 0) 2).map ControlSlot.discard = some true := by
  decide +kernel

/-- Every count on both sides of the range of FETCH_NOTICES. -/
theorem witness_FetchNoticesTakesOldest :
    ∀ ops, Requested (asks quiet 0 3 .fetchNotices ops) 0 3 .fetchNotices (asked 3 .fetchNotices ops) :=
  fun _ => requested_asks rfl rfl

/-- Every count, those at the ends of 1 to 8 among them; with frames to take and without. -/
theorem witness_ClaimTakesFreeListHead :
    (∀ n, Requested (asks { quiet with freeList := [0, 1] } 0 3 .claim [0, n, 0, 0]) 0 3 .claim (asked 3 .claim [0, n, 0, 0])) ∧
      ∀ n, operandCtx [0, n, 0, 0] 4 = some 0 :=
  ⟨fun _ => requested_asks rfl rfl, fun _ => rfl⟩

theorem witness_ReleaseRefused :
    Requested (asks shared 0 3 .release [0, 0, 12, 0]) 0 3 .release (asked 3 .release [0, 0, 12, 0]) ∧
      operandCtx [0, 0, 12, 0] 4 = some 0 ∧ operandFrame [0, 0, 12, 0] 6 = some 12 ∧
      releaseRefusal (asks shared 0 3 .release [0, 0, 12, 0]) 0 0 12 = some .stillShared :=
  ⟨requested_asks rfl rfl, by decide +kernel⟩

theorem witness_ReleaseAccepted :
    Requested (asks (offered 3) 0 3 .release [0, 0, 7, 0]) 0 3 .release (asked 3 .release [0, 0, 7, 0]) ∧
      operandCtx [0, 0, 7, 0] 4 = some 0 ∧ operandFrame [0, 0, 7, 0] 6 = some 7 ∧
      releaseRefusal (asks (offered 3) 0 3 .release [0, 0, 7, 0]) 0 0 7 = none :=
  ⟨requested_asks rfl rfl, by decide +kernel⟩

theorem witness_FrameAndDeviceInfoReport :
    Requested (asks shared 1 3 .frameInfo [0, 0, 12, 0]) 1 3 .frameInfo (asked 3 .frameInfo [0, 0, 12, 0]) ∧
      operandFrame [0, 0, 12, 0] 6 = some 12 ∧
      Requested (asks shared 1 3 .deviceInfo []) 1 3 .deviceInfo (asked 3 .deviceInfo []) :=
  ⟨requested_asks rfl rfl, by decide, requested_asks rfl rfl⟩

theorem witness_CreateTakesLowestFreeContext :
    ∀ ops, Requested (asks quiet 2 4 .create ops) 2 4 .create (asked 4 .create ops) :=
  fun _ => requested_asks rfl rfl

/-- The lowest and the highest pooled context, and the home context below them. -/
theorem witness_DestroyStartsTeardown :
    (∀ ops, Requested (asks withC5 1 6 .destroy ops) 1 6 .destroy (asked 6 .destroy ops)) ∧
      operandCtx [4, 0, 0, 0] 4 = some 4 ∧ operandCtx [15, 0, 0, 0] 4 = some 15 ∧ operandCtx [3, 0, 0, 0] 4 = some 3 :=
  ⟨fun _ => requested_asks rfl rfl, by decide⟩

/-- Every amount, 0, 1, 4096 and 4097 among them. -/
theorem witness_CedeMovesQuota :
    (∀ l h, Requested (asks withC5 1 6 .cede [1, 5, l, h]) 1 6 .cede (asked 6 .cede [1, 5, l, h])) ∧
      ∀ l h, operandCtx [1, 5, l, h] 4 = some 1 ∧ operandCtx [1, 5, l, h] 5 = some 5 :=
  ⟨fun _ _ => requested_asks rfl rfl, fun _ _ => ⟨rfl, rfl⟩⟩

theorem witness_ContextInfoReportsRecord :
    Requested (asks quiet 0 8 .contextInfo [15, 0, 0, 0]) 0 8 .contextInfo (asked 8 .contextInfo [15, 0, 0, 0]) ∧
      operandCtx [15, 0, 0, 0] 4 = some 15 :=
  ⟨requested_asks rfl rfl, by decide⟩

theorem witness_BindInThreeWays :
    Requested (asks withC5 1 8 .bind [5, 0, 0, 0]) 1 8 .bind (asked 8 .bind [5, 0, 0, 0]) ∧
      Requested (asks (carries withC5 1 0 1 (readR 0)) 1 8 .bind [5, 0, 0, 0]) 1 8 .bind (asked 8 .bind [5, 0, 0, 0]) ∧
      operandCtx [5, 0, 0, 0] 4 = some 5 :=
  ⟨requested_asks rfl rfl, requested_asks rfl rfl, by decide⟩

theorem witness_MapSetWritesEntry :
    Requested (asks page3 1 9 .mapSet [5, 3, 0xB5, 4, 1, 0, 0, 0]) 1 9 .mapSet (asked 9 .mapSet [5, 3, 0xB5, 4, 1, 0, 0, 0]) ∧
      operandCtx [5, 3, 0xB5, 4, 1, 0, 0, 0] 4 = some 5 ∧ operandPage [5, 3, 0xB5, 4, 1, 0, 0, 0] 5 = some 3 ∧
      operandFrame [5, 3, 0xB5, 4, 1, 0, 0, 0] 6 = some 1205 ∧ operandRights [5, 3, 0xB5, 4, 1, 0, 0, 0] 8 = some .read :=
  ⟨requested_asks rfl rfl, by decide⟩

theorem witness_MapClearInvalidatesEntry_ProbeReadsEntry :
    (∀ k, Requested (asks page3 1 9 k [5, 127, 0, 0]) 1 9 k (asked 9 k [5, 127, 0, 0])) ∧
      operandCtx [5, 127, 0, 0] 4 = some 5 ∧ operandPage [5, 127, 0, 0] 5 = some 127 :=
  ⟨fun _ => requested_asks rfl rfl, by decide⟩

/-- Every count and offset, the ends of their ranges among them. -/
theorem witness_MapLoadJoinsQueue :
    (∀ n a b, Requested (asks withC5 1 2 .mapLoad [5, n, 61, 0, a, b, 0, 0, 1, 0, 0x5A, 0x5A]) 1 2 .mapLoad
        (asked 2 .mapLoad [5, n, 61, 0, a, b, 0, 0, 1, 0, 0x5A, 0x5A])) ∧
      ∀ n a b, operandCtx [5, n, 61, 0, a, b, 0, 0, 1, 0, 0x5A, 0x5A] 4 = some 5 ∧
        operandFrame [5, n, 61, 0, a, b, 0, 0, 1, 0, 0x5A, 0x5A] 6 = some 61 :=
  ⟨fun _ _ _ => requested_asks rfl rfl, fun _ _ _ => ⟨rfl, rfl⟩⟩

/-- The running load named, a tag that names none, and a queued load named behind the running one. -/
theorem witness_LoadCancelEndsNamedLoad :
    let two : State := { loading 2 .ready with loadQueue := [loadRec 2, { loadRec 0 with tag := 7 }] }
    (∀ ops, Requested (asks two 1 4 .loadCancel ops) 1 4 .loadCancel (asked 4 .loadCancel ops)) ∧
      operandTag [2, 0, 0, 0] 4 = some 2 ∧ operandTag [3, 0, 0, 0] 4 = some 3 ∧ operandTag [7, 0, 0, 0] 4 = some 7 ∧
      (¬ ∃ r ∈ (asks two 1 4 .loadCancel [3, 0, 0, 0]).loadQueue, r.port = 1 ∧ r.tag = 3) ∧
      (∃ x ∈ [{ loadRec 0 with tag := 7 }], x.port = 1 ∧ x.tag = 7) ∧ ¬ ((loadRec 2).port = 1 ∧ (loadRec 2).tag = 7) :=
  ⟨fun _ => requested_asks rfl rfl, by decide +kernel⟩

/-- The ends of the low bits of a CLEAR, and each way a descriptor is bad (R142, R188). -/
theorem witness_DescriptorReadIsJudged_bytes :
    (0 < 16384 ∧ 16383 < 16384) ∧
      (∀ x ∈ ([(128, 0, 0x50), (0, 1, 0x50), (0, 0, 0x10), (0, 0, 0xD0), (0, 0, 0x40), (0, 0, 0x70)] :
          List (Byte × Byte × Byte)),
        descriptorAction [1, 0, 0, 0, x.1, x.2.1, 0, x.2.2] = none) ∧
      descriptorAction [1, 0, 0, 0, 127, 0, 0xFF, 0x6F] = some (.set 127 ⟨4095, .readWrite⟩) :=
  ⟨by omega, by simp only [List.forall_mem_cons]; exact ⟨rfl, rfl, rfl, rfl, rfl, rfl, nofun⟩, by decide +kernel⟩

theorem witness_DescriptorReadIsJudged_LoadReadFails :
    (loading 3 (.outstanding 200)).load = .outstanding 200 ∧ (loading 3 (.outstanding 200)).readGen = 9 ∧
      (loading 3 (.outstanding 200)).loadQueue = [loadRec 3] := ⟨rfl, rfl, rfl⟩

/-- Every lifetime, 0, 1, 4095 and 4096 among them. -/
theorem witness_OfferTakesLowestSlot :
    (∀ l h, Requested (asks lone 0 1 .offer [0, 5, 7, 0, 1, 0, l, h]) 0 1 .offer (asked 1 .offer [0, 5, 7, 0, 1, 0, l, h])) ∧
      ∀ l h, operandCtx [0, 5, 7, 0, 1, 0, l, h] 4 = some 0 ∧ operandCtx [0, 5, 7, 0, 1, 0, l, h] 5 = some 5 ∧
        operandFrame [0, 5, 7, 0, 1, 0, l, h] 6 = some 7 ∧ operandRights [0, 5, 7, 0, 1, 0, l, h] 8 = some .read :=
  ⟨fun _ _ => requested_asks rfl rfl, fun _ _ => ⟨rfl, rfl, rfl, rfl⟩⟩

/-- ACCEPT and DECLINE by the target's port, RETRACT by the offerer's. -/
theorem witness_AcceptAppendsHolder_DeclineAndRetractRemoveOffer :
    (∀ k, Requested (asks (offered 3) 1 2 k [0, 0, 118, 0]) 1 2 k (asked 2 k [0, 0, 118, 0])) ∧
      (∀ k, Requested (asks (offered 3) 0 2 k [0, 0, 118, 0]) 0 2 k (asked 2 k [0, 0, 118, 0])) ∧
      operandTag [0, 0, 118, 0] 4 = some 0 :=
  ⟨fun _ => requested_asks rfl rfl, fun _ => requested_asks rfl rfl, by decide⟩

theorem witness_LeaveStartsWithdrawal :
    Requested (asks shared 1 2 .leave [5, 0, 12, 0]) 1 2 .leave (asked 2 .leave [5, 0, 12, 0]) ∧
      operandCtx [5, 0, 12, 0] 4 = some 5 ∧ operandFrame [5, 0, 12, 0] 6 = some 12 :=
  ⟨requested_asks rfl rfl, by decide⟩

theorem witness_RevokeStartsWithdrawal :
    Requested (asks shared 0 2 .revoke [0, 5, 12, 0]) 0 2 .revoke (asked 2 .revoke [0, 5, 12, 0]) ∧
      operandCtx [0, 5, 12, 0] 4 = some 0 ∧ operandCtx [0, 5, 12, 0] 5 = some 5 ∧ operandFrame [0, 5, 12, 0] 6 = some 12 :=
  ⟨requested_asks rfl rfl, by decide⟩

theorem witness_ReclaimExitAndPromotion : (5 : Ctx) ≠ 2 := by decide

/-- A record of each requester, found with its drain set empty. -/
theorem witness_WithdrawalEnds :
    ∀ who ∈ ([.release 0 2, .leave 0 2, .revoke 0 2, .departure 0] : List Requester),
      let w : Withdrawal := ⟨5, some 12, who, []⟩
      ({ shared with withdrawals := [w] }.withdrawals.find? fun x => x.ctx == 5 && x.frame == some 12 && x.drain.isEmpty) =
        some w := by
  decide +kernel

theorem witness_WithdrawalEnds_teardown :
    let w : Withdrawal := ⟨5, none, .teardown, []⟩
    ({ tearing withC5 .drain with withdrawals := [w] }.withdrawals.find? fun x =>
        x.ctx == 5 && x.frame == none && x.drain.isEmpty) = some w ∧
      { tearing withC5 .drain with withdrawals := [w] }.teardown 5 = some ⟨.destroy 1 6, .drain⟩ := by
  decide +kernel

theorem witness_TeardownCancelsOffers :
    (tearing (offered 9) .offers).teardown 5 = some ⟨.destroy 1 6, .offers⟩ ∧
      (tearing (loading 2 .ready) .offers).teardown 5 = some ⟨.destroy 1 6, .offers⟩ ∧
      (tearing (loading 2 .ready) .offers).loadQueue = [loadRec 2] ∧
      ∀ r ∈ (tearing (offered 9) .offers).loadQueue, r.target ≠ 5 := by
  decide +kernel

/-- Step 4 of C5's teardown is due, and nothing else. -/
theorem witness_InvalidationDropsEntriesAndCounts :
    let s := tearing withC5 .loads
    s.teardown 5 = some ⟨.destroy 1 6, .loads⟩ ∧ (∀ r ∈ s.loadQueue, r.target ≠ 5) ∧ (∀ w ∈ s.withdrawals, w.drain ≠ []) ∧
      (∀ d, d ≠ 5 → turnDue s d = false ∧ stepDue s d = false) ∧ ∀ p, portDue s p = false := by
  decide +kernel

/-- A turn that waits on frame 12, where C5 is co-holder, a departure from it, and a step before step 5. -/
theorem witness_TeardownTurnDealsWithFrame_waits :
    ∀ now ∈ ([.loads, .turn 12, .departure 12] : List TeardownStep),
      (tearing shared now).teardown 5 = some ⟨.destroy 1 6, now⟩ := by
  decide +kernel

/-- A turn on frame 12, where C5 is co-holder. -/
theorem witness_TeardownTurnDealsWithFrame :
    let s := tearing shared .frames
    s.teardown 5 = some ⟨.destroy 1 6, .frames⟩ ∧
      ((List.finRange 4096).find? fun f => (s.frame f).holders.any fun h => h.ctx == 5) = some 12 ∧
      (s.frame 12).state = .held := by
  decide +kernel

/-- No frame is left to C5, nor to C1, a home context. -/
theorem witness_TeardownTurnDealsWithFrame_end :
    let s := (tearing withC5 .frames).setTeardown 1 (some ⟨.portReset 1, .frames⟩)
    s.teardown 5 = some ⟨.destroy 1 6, .frames⟩ ∧ s.teardown 1 = some ⟨.portReset 1, .frames⟩ ∧
      (∀ c f, ∀ h ∈ (s.frame f).holders, h.ctx ≠ c) ∧ (s.ctx 5).owner = some 1 := by
  refine ⟨by decide +kernel, by decide +kernel, fun c f h e => ?_, by decide +kernel⟩
  have e0 : ((tearing withC5 .frames).setTeardown 1 (some ⟨.portReset 1, .frames⟩)).frame f = FrameRec.reset := by
    show (Vector.replicate 4096 FrameRec.reset).get f = FrameRec.reset
    simp [Vector.get]
  rw [e0] at e
  cases e

theorem witness_AccessArrivalStandsAtLane :
    (quiet.port 0).state = .up ∧ ((after .rstNAssert quiet).port 0).state ≠ .up := by
  decide +kernel

theorem witness_GrantsAreFair :
    requesting (waitingTwo (.port 2)) (.port 1) = true ∧
      exec .memoryPortGrant (waitingTwo (.port 2)) = .next (after .memoryPortGrant (waitingTwo (.port 2))) :=
  ⟨by decide +kernel, rfl⟩

/-- A grant to no requester, to a port, to each engine. -/
theorem witness_GrantIssues :
    granted quiet = none ∧ granted (waitingTwo (.port 1)) = some (.port 1) ∧
      ((waitingTwo (.port 1)).port 1).issueQueue = [0] ∧ (((waitingTwo (.port 1)).port 1).slot 0).entry.isSome = true ∧
      granted State.reset = some .scrub ∧ State.reset.scrub = .ready 0 0 ∧
      granted (loading 2 .ready) = some .load ∧ (loading 2 .ready).loadQueue = [loadRec 2] := by
  decide +kernel

theorem witness_AccessEnds :
    (((draining 200).port 1).slot 0).entry = some (readR 200) ∧ (readR 200).phase = .issued 200 := by
  decide +kernel

/-- A FREE slot, a WAITING entry, another generation; the engines idle, and under another generation. -/
theorem witness_StaleCompletionsDiscarded :
    ((quiet.port 0).slot 0).entry = none ∧
      (((waitingTwo (.port 1)).port 1).slot 0).entry.map TransitEntry.phase = some .waiting ∧
      (((draining 3).port 1).slot 0).gen ≠ 2 ∧
      quiet.scrub = .idle ∧ (scrubbing 3 0).writeGen ≠ 90 ∧ quiet.load = .idle ∧ (loading 2 (.outstanding 0)).readGen ≠ 8 := by
  decide +kernel

theorem witness_SwitchCompletes :
    (switching.port 2).binding = .switching 7 1 ∧ (switching.port 2).plainCount = 0 := by
  decide +kernel

theorem witness_ScrubWriteEnds :
    (scrubbing 30 200).scrub = .outstanding 301 30 200 ∧ (scrubbing 31 200).scrub = .outstanding 301 31 200 := ⟨rfl, rfl⟩

/-- With RST_N asserted and not; nothing late after the tick, and one request late. -/
theorem witness_MicrosecondTickRaisesAges :
    (after .rstNAssert quiet).rstAsserted = true ∧ (scrubbing 17 199).rstAsserted = false ∧
      lateRequests (scrubbing 17 199) = [] ∧ (lateRequests (scrubbing 17 200)).length = 1 := by
  decide +kernel

theorem witness_OfferLifetimesFallAndExpire :
    (after .rstNAssert quiet).rstAsserted = true ∧ (offered 1).rstAsserted = false ∧
      (offered 0).offer 0 = some ⟨118, 7, 0, 5, .read, 0⟩ := by
  decide +kernel

/-! ## A state that meets every law -/

/-- P1's two long requests: the DESTROY of C5 under tag 6 and a load for C1 under tag 2, its read outstanding. -/
def settledPort : PortRec :=
  { PortRec.reset .up 1 false [] [] with
    slots := [⟨6, .destroy, [5, 0, 0, 0], 15, .active, false⟩, ⟨2, .mapLoad, [], 15, .active, false⟩] }

/-- The load. -/
def settledLoad : LoadRec := ⟨1, 2, 1, 61, 0, 4, 0x5A5A0001, 1, none⟩

/-- The contexts: C0 charged with one frame and with one valid entry, C5 of P1 in TEARDOWN with a quota of 6. -/
def settledCtxs : State :=
  (live (live (live quiet 0 0 1024 1 0 1) 1 1 1018 0 0 0) 5 1 6 0 0 0).setCtx 5 ⟨.teardown, some 1, 15, 6, 0, 0, 0⟩

/-- C0 is origin and sole holder of frame 2 and maps it at page 0, and the other frames are RETIRED. C5's teardown stands before
step 2, and P1's load runs. -/
def settled : State :=
  { ((settledCtxs.setEntry 0 0 (some ⟨2, .readWrite⟩)).setTeardown 5 (some ⟨.destroy 1 6, .offers⟩)).setPort 1 settledPort with
    frames := (Vector.replicate 4096 ⟨.retired, [], 0, true, 0⟩).set 2 ⟨.held, [⟨0, .readWrite, false⟩], 1, false, 0⟩
    loadQueue := [settledLoad]
    load := .outstanding 3
    pending := [.microsecondTick] }

theorem settled_frame (f : Frame) :
    settled.frame f = if f = 2 then ⟨.held, [⟨0, .readWrite, false⟩], 1, false, 0⟩ else ⟨.retired, [], 0, true, 0⟩ := by
  refine (vector_get_set (Vector.replicate 4096 (⟨.retired, [], 0, true, 0⟩ : FrameRec)) 2 f _).trans ?_
  simp [Vector.get]

theorem settled_entry (c : Ctx) (g : Page) : settled.entry c g = if c = 0 ∧ g = 0 then some ⟨2, .readWrite⟩ else none := by
  refine (State.entry_setEntry settledCtxs 0 c 0 g (some ⟨2, .readWrite⟩)).trans ?_
  have e : settledCtxs.entry c g = none := by
    show ((Vector.replicate 16 (Vector.replicate 128 (none : Option MapEntry))).get c).get g = none
    simp [Vector.get]
  rw [e]

theorem settled_entries (c : Ctx) : entriesOf settled c = if c = 0 then 1 else 0 := by
  unfold entriesOf
  simp only [settled_entry]
  revert c
  decide +kernel

theorem settled_offer : ∀ i, settled.offer i = none := by decide +kernel

theorem settled_teardown : ∀ c, settled.teardown c = if c = 5 then some ⟨.destroy 1 6, .offers⟩ else none := by
  decide +kernel

theorem settled_port : ∀ p, settled.port p = if p = 1 then settledPort else PortRec.reset .up p false [] [] := by
  decide +kernel

theorem settled_slot : ∀ p i, ((settled.port p).slot i).entry = none := by decide +kernel

theorem settled_not_inTransit {p : Port} {i : Slot} {c : Ctx} {f : Frame} : ¬ InTransit settled p i c f := by
  rintro ⟨e, h, -⟩
  rw [settled_slot] at h
  cases h

/-- The frames that satisfy a test which frame 2 may satisfy and the others do not. -/
theorem count_settled (g : FrameRec → Bool) (other : g ⟨.retired, [], 0, true, 0⟩ = false) :
    count (fun f => g (settled.frame f)) = if g ⟨.held, [⟨0, .readWrite, false⟩], 1, false, 0⟩ then 1 else 0 := by
  have e : (fun f => g (settled.frame f)) = fun f => g ⟨.held, [⟨0, .readWrite, false⟩], 1, false, 0⟩ && f == 2 := by
    funext f
    rw [settled_frame]
    by_cases h : f = 2 <;> simp [h, other]
  rw [e]
  unfold count
  split <;> rename_i h <;> simp [h, List.countP_eq_length_filter, List.filter_beq, List.count_finRange]

theorem witness_FrameLists : FrameLists settled where
  inReset h := by cases h
  freeNodup := by decide
  free f := by
    rw [settled_frame]
    split <;>
      simp [settled, settledCtxs, live, quiet, State.setEntry, State.setCtx, State.setTeardown, State.setPort, State.reset]
  scrubNodup := by decide
  scrub f := by
    rw [settled_frame]
    split <;> simp [settled, settledCtxs, live, quiet, State.setEntry, State.setCtx, State.setTeardown, State.setPort]
  engine _ := rfl

theorem witness_ContextLaw : ContextLaw settled where
  quotaSum := by decide +kernel
  charged := by decide +kernel
  free := by decide +kernel
  freeQuota := by decide +kernel
  home := by decide +kernel

theorem witness_PortTables : PortTables settled where
  port p := by
    have none' : ∀ i, ((settled.port p).slot i).entry = none := settled_slot p
    constructor
    case issueQueue => intro i; rw [none', settled_port]; split <;> simp [settledPort, PortRec.reset]
    case plainCount => simp only [none', count]; rw [settled_port]; split <;> simp [settledPort, PortRec.reset]
    case tags => intro i j e e' h; rw [none'] at h; cases h
    case notUp => intro h; revert h; rw [settled_port]; split <;> intro h <;> exact absurd rfl h
    all_goals rw [settled_port]; split <;> simp [settledPort, PortRec.reset, Config.controlSlots]
  carried :=
    { loads := fun r h => by
        cases List.mem_singleton.mp h
        exact ⟨⟨2, .mapLoad, [], 15, .active, false⟩, rfl, rfl, rfl⟩
      loadTags := by decide +kernel
      withdrawals := fun w h => by cases h
      withdrawalTags := by decide +kernel
      teardowns := fun c td p t h k => by
        rw [settled_teardown] at h
        split at h
        · cases h
          cases k
          exact ⟨⟨6, .destroy, [5, 0, 0, 0], 15, .active, false⟩, rfl, rfl, rfl⟩
        · cases h
      teardownTags := fun c d tc td p t h k _ _ => by
        rw [settled_teardown] at h k
        split at h <;> split at k <;> simp_all
      binds := fun p c t h => by
        rw [settled_port] at h
        split at h <;> cases h }

theorem witness_Holding : Holding settled where
  holders f := by
    rw [settled_frame]
    split <;> simp
  origins f h := by
    rw [settled_frame]
    split <;> intro e <;> cases e
    rfl
  entries c g e h := by
    rw [settled_entry] at h
    split at h
    · rename_i w
      obtain ⟨rfl, rfl⟩ := w
      cases h
      decide +kernel
    · cases h
  offers i o h := by
    rw [settled_offer] at h
    cases h
  teardowns c h := by
    rw [settled_teardown] at h
    split at h
    · rename_i e
      subst e
      show (settled.ctx 5).state = .teardown
      decide +kernel
    · cases h
  starters c td h := by
    rw [settled_teardown] at h
    split at h
    · rename_i e
      subst e
      cases h
      decide +kernel
    · cases h
  noOffers c td h k i o e := by
    rw [settled_offer] at e
    cases e
  noEntries c td h := by
    rw [settled_teardown] at h
    split at h <;> cases h
    intro k
    cases k
  stopping c st h := by
    rw [settled_teardown] at h
    split at h <;> cases h
  drained c td h k p i f := settled_not_inTransit
  departures c st f h := by
    rw [settled_teardown] at h
    split at h <;> cases h
  flagged w h := by cases h
  drains w h := by cases h
  records := ⟨fun w h => List.not_mem_nil.elim h, by decide +kernel⟩
  releases w h := by cases h
  drainSets w h := by cases h
  transit p i c f h := absurd h settled_not_inTransit
  bindings p := by
    refine ⟨by revert p; decide +kernel, fun c t h => ?_⟩
    rw [settled_port] at h
    split at h <;> cases h
  loads := by constructor <;> decide +kernel

theorem witness_CountLaw : CountLaw settled where
  mapCount f := by
    have e : ∀ c g, ((settled.entry c g).map MapEntry.frame == some f) = (decide (f = 2) && decide (c = 0 ∧ g = 0)) := by
      intro c g
      rw [settled_entry]
      by_cases h : f = 2
      · subst h; split <;> simp_all
      · have h' : ¬ (2 : Frame) = f := fun e => h e.symm
        split <;> simp [h, h']
    unfold entriesNaming count
    simp only [e]
    rw [settled_frame]
    by_cases h : f = 2
    · subst h
      decide +kernel
    · have hf : decide (f = 2) = false := decide_eq_false h
      rw [if_neg h]
      simp only [hf, Bool.false_and]
      decide +kernel
  validCount c := by
    rw [settled_entries]
    revert c
    decide +kernel
  charged c := by
    refine Eq.trans ?_ (count_settled (fun r => originOf r.holders == some c) rfl).symm
    revert c
    decide +kernel
  shareCount c := by
    refine Eq.trans ?_ (count_settled (fun r => holds r.holders.tail c) rfl).symm
    revert c
    decide +kernel
  pendingOffers f := by
    rw [settled_frame]
    simp only [offersOn, settled_offer, count]
    split <;> simp
  places f := by
    rw [settled_frame]
    split <;> decide
  freeCtx c h := by
    rw [settled_entries]
    refine ⟨by revert c; decide +kernel, fun f => ?_⟩
    rw [settled_frame]
    revert c
    split <;> decide +kernel

theorem witness_Settled : Settled settled where
  drains w h := by cases h
  turns := by decide +kernel
  steps := by decide +kernel
  ports := by decide +kernel

/-- All the laws at once, at a state whose step is a tick. -/
theorem witness_Lawful : Lawful settled :=
  ⟨witness_FrameLists, witness_ContextLaw, witness_PortTables, witness_Holding, witness_CountLaw, witness_Settled⟩

/-- The hypotheses of each statement that a law is kept. -/
theorem witness_KeptLaws :
    Lawful settled ∧ step settled = .next (after .microsecondTick { settled with pending := [] }) :=
  ⟨witness_Lawful, rfl⟩

/-- P1, lawful and UP, with an ACTIVE request to be kept with the mark and a running load whose read is outstanding. -/
theorem witness_PrstNAssertStartsTeardown :
    Lawful settled ∧ (settled.port 1).prst = false ∧ (settled.port 1).state = .up ∧
      (∃ q ∈ (settled.port 1).slots, q.standing = .active ∧ q.kind = .destroy) ∧
      ∃ r ∈ settled.loadQueue, r.port = 1 ∧ settled.loadQueue.head? = some r ∧ settled.load = .outstanding 3 :=
  ⟨witness_Lawful, rfl, rfl, ⟨_, List.mem_cons_self, rfl, rfl⟩, ⟨_, List.mem_cons_self, rfl, rfl, rfl⟩⟩

theorem witness_TranslationChecksInOrder : (quiet.port 0).state = .up := rfl

/-- A RETIRED frame, at a tick and at device reset. -/
theorem witness_RetiredStays :
    FrameLists settled ∧ (settled.frame 1).state = .retired ∧
      exec .microsecondTick settled = .next (after .microsecondTick settled) ∧
      exec .rstNAssert settled = .next (after .rstNAssert settled) :=
  ⟨witness_FrameLists, by rw [settled_frame]; rfl, rfl, rfl⟩

/-- A mark cleared by a scrub's success, and by device reset. -/
theorem witness_ErrorMarkCleared :
    let s := (scrubbing 31 5).setFrame 301 ⟨.scrub, [], 0, true, 0⟩
    (s.frame 301).errorMark = true ∧ ((after (.scrubCompletionOk 91) s).frame 301).errorMark = false ∧
      ((after .rstNAssert s).frame 301).errorMark = false := by
  decide +kernel

end Sys2Proof.Tests
end

section
/-! SUPPORT. A request taken by its owner block and answered, and one change made to each frame of a list. -/

namespace Sys2Proof.Machine

open Sys2Proof

/-! ## A requested request is taken and answered -/

/-- What is requested stands waiting, so its owner block takes it (R175). -/
theorem takeRequest_of_requested {s : State} {p : Port} {t : Tag} {k : RequestKind} {q : ControlSlot}
    (h : Requested s p t k q) (serve : ControlSlot → State) : takeRequest s p t k serve = .next (serve q) := by
  obtain ⟨-, hslot, hkind, hstanding, -⟩ := h
  refine takeRequest_of_some ?_ serve
  unfold waitingRequest
  simp [hslot, hkind, hstanding]

/-- A request stays requested as long as its port's record does. -/
theorem Requested.of_port_eq {s u : State} {p : Port} {t : Tag} {k : RequestKind} {q : ControlSlot}
    (h : Requested s p t k q) (hp : u.port p = s.port p) : Requested u p t k q := by
  unfold Requested
  rwa [hp]

/-- At a port that is UP, the response to a slot without the discard mark is sent (R176). -/
theorem respond_of_requested {s : State} {p : Port} {t : Tag} {k : RequestKind} {q : ControlSlot}
    (h : Requested s p t k q) (v : Verdict) (results : List Byte) :
    respond s p t v results = answer s p t k v results := by
  obtain ⟨hup, hslot, hkind, -, hdiscard⟩ := h
  rw [respond_eq]
  unfold answer PortRec.responded PortRec.answered
  simp [hup, hslot, hkind, hdiscard]

/-- A refusal of what is requested is its answer and nothing else. -/
theorem serveChecked_error_of_requested {α : Type} {s : State} {p : Port} {t : Tag} {k : RequestKind} {q : ControlSlot}
    (h : Requested s p t k q) (v : Verdict) (results : List Byte) (effect : α → State) :
    serveChecked s p t (.error (v, results)) effect = answer s p t k v results :=
  (serveChecked_error ..).trans (respond_of_requested h v results)

@[simp] theorem framesOf_answer (u s : State) (p : Port) (t : Tag) (k : RequestKind) (v : Verdict) (results : List Byte) :
    (answer u p t k v results).framesOf s = answer (u.framesOf s) p t k v results := rfl

@[simp] theorem port_framesOf (u s : State) (p : Port) : (u.framesOf s).port p = u.port p := rfl

theorem framesOf_modCtx (u s : State) (c : Ctx) (g : CtxRec → CtxRec) :
    (modCtx u c g).framesOf s = modCtx (u.framesOf s) c g := rfl

/-! ## One change made to each frame of a list -/

/-- The same change made to every frame of a list writes frame records only. -/
theorem framesOf_foldl_modFrame (g : FrameRec → FrameRec) (fs : List Frame) (u s : State) :
    (fs.foldl (fun s f => modFrame s f g) u).framesOf s = u.framesOf s := by
  induction fs generalizing u with
  | nil => rfl
  | cons f fs ih => exact ih (modFrame u f g)

/-- A change that is the same made once or twice reaches just the frames of the list, each once, repeated or not. -/
theorem frame_foldl_modFrame {g : FrameRec → FrameRec} (idem : ∀ r, g (g r) = g r) (fs : List Frame) (s : State) (k : Frame) :
    (fs.foldl (fun s f => modFrame s f g) s).frame k = if k ∈ fs then g (s.frame k) else s.frame k := by
  induction fs generalizing s with
  | nil => rfl
  | cons f fs ih =>
    rw [List.foldl_cons, ih, frame_modFrame]
    by_cases hk : k = f
    · subst hk
      simp [idem]
    · simp [hk]

end Sys2Proof.Machine
end

section
/-! PROOFS. CLAIM (R12, R13). -/

namespace Sys2Proof.Machine

open Sys2Proof

/-- The checks of R12 for a context operand in range, each with its outcome and results. -/
theorem claimCheck_of_ctx {ops : List Byte} {c : Ctx} (hc : operandCtx ops 4 = some c) (s : State) (p : Port) :
    claimCheck s p ops =
      if operandByte ops 5 < 1 ∨ 8 < operandByte ops 5 then .error (.badOperand, [])
      else if (s.ctx c).owner ≠ some p then .error (.notOwner, [])
      else if (s.ctx c).state ≠ .live then .error (.notLive, [])
      else if (s.ctx c).quota - (s.ctx c).charged < operandByte ops 5 then
        .error (.overQuota, le16 ((s.ctx c).quota - (s.ctx c).charged) ++ [0, 0])
      else if s.freeList.length < operandByte ops 5 then
        .error (.noFrames, le16 s.freeList.length ++ le16 s.scrubQueue.length)
      else .ok (c, operandByte ops 5) := by
  unfold claimCheck
  simp only [hc, actingFault_eq]
  by_cases howner : (s.ctx c).owner = some p
  · by_cases hlive : (s.ctx c).state = .live
    · simp only [howner, hlive, ne_eq, not_true_eq_false, if_false]
      rfl
    · simp [howner, hlive, refuse]
  · simp [howner, refuse]

theorem claimedFrame_claimedFrame (c : Ctx) (r : FrameRec) : claimedFrame c (claimedFrame c r) = claimedFrame c r := rfl

/-- A CLAIM rewrites just the first `n` frames of the free list. -/
theorem frame_claimFrames (s : State) (c : Ctx) (n : Nat) (f : Frame) :
    (claimFrames s c n).frame f = if f ∈ s.freeList.take n then claimedFrame c (s.frame f) else s.frame f :=
  frame_foldl_modFrame (claimedFrame_claimedFrame c) _ _ f

/-- Beside frame records, a CLAIM shortens the free list and charges the context. -/
theorem framesOf_claimFrames (s : State) (c : Ctx) (n : Nat) :
    (claimFrames s c n).framesOf s =
      { withCtx s c { s.ctx c with charged := (s.ctx c).charged + n } with freeList := s.freeList.drop n } := by
  unfold claimFrames
  rw [framesOf_modCtx, framesOf_foldl_modFrame]
  rfl

/-- A CLAIM's effect on frames and context leaves every port, so its request is still to be answered. -/
theorem port_claimFrames (s : State) (c : Ctx) (n : Nat) (p : Port) : (claimFrames s c n).port p = s.port p := by
  rw [← port_framesOf _ s, framesOf_claimFrames]
  rfl

/-- The results of a CLAIM that the free list can meet: the count asked for, and the frames' numbers. -/
theorem claimResults_take {fs : List Frame} {n : Nat} (h : n ≤ fs.length) :
    claimResults (fs.take n) =
      [byteOf n, 0, 0, 0] ++ (fs.take n).flatMap fun f => [byteOf f.val, byteOf (f.val / 256)] := by
  unfold claimResults
  rw [List.length_take_of_le h]
  rfl

/-- A requested CLAIM is served by its checks. -/
theorem exec_claim {s : State} {p : Port} {t : Tag} {q : ControlSlot} (h : Requested s p t .claim q) :
    exec (.claim p t) s = .next (serveChecked s p t (claimCheck s p q.operands) fun a =>
      respond (claimFrames s a.1 a.2) p t .done (claimResults (s.freeList.take a.2))) :=
  takeRequest_of_requested h _

/-- Settles O15, by the chain of R12's checks: a refusal is the answer alone, and past the last check the effect is R13's. -/
theorem claimTakesFreeListHead : Obligations.ClaimTakesFreeListHead := by
  intro s p t q c requested hc n
  refine ⟨_, exec_claim requested, ?_⟩
  rw [claimCheck_of_ctx hc]
  have refused (v : Verdict) (results : List Byte) (effect : Ctx × Nat → State) :=
    serveChecked_error_of_requested requested v results effect
  split_ifs with hrange howner hlive hquota hfree
  · exact refused .badOperand _ _
  · exact refused .notOwner _ _
  · exact refused .notLive _ _
  · exact refused .overQuota _ _
  · exact refused .noFrames _ _
  · have taken : Requested (claimFrames s c n) p t .claim q := requested.of_port_eq (port_claimFrames s c n p)
    rw [serveChecked_ok, respond_of_requested taken, claimResults_take (not_lt.mp hfree)]
    refine ⟨frame_claimFrames s c n, ?_⟩
    rw [framesOf_answer, framesOf_claimFrames]

end Sys2Proof.Machine
end

section
/-! PROOFS. The requests of the context table: CREATE (R29), DESTROY (R33, R34) and CEDE (R30). -/

namespace Sys2Proof.Machine

open Sys2Proof

/-! ## CREATE (R29) -/

/-- Classes are within others exactly where meeting with the others loses none of them. -/
theorem classesWithin_iff (a b : Classes) : classesWithin a b = true ↔ a &&& b = a := by
  unfold classesWithin
  rw [beq_iff_eq]
  constructor
  · intro h
    calc a &&& b = a &&& ~~~b ||| a &&& b := by rw [h]; simp
      _ = a := by ext i; cases ha : a[i] <;> simp [ha]
  · intro h
    calc a &&& ~~~b = (a &&& b) &&& ~~~b := by rw [h]
      _ = 0 := by rw [BitVec.and_assoc]; simp

theorem lowestFreePooled_eq (s : State) :
    lowestFreePooled s = (List.finRange 16).find? fun c => 4 ≤ c.val && (s.ctx c).state == .free := rfl

/-- R29's first check: CREATE may not pass on a class that its own request does not carry. -/
theorem createCheck_of_exceeding {s : State} {q : ControlSlot}
    (h : operandClasses q.operands 4 &&& q.classes ≠ operandClasses q.operands 4) :
    createCheck s q = .error (.noRight, []) := by
  unfold createCheck
  rw [if_pos (by simpa [← Bool.not_eq_true, classesWithin_iff] using h)]
  rfl

/-- R29's second check, on classes that pass the first. -/
theorem createCheck_of_within {s : State} {q : ControlSlot}
    (h : operandClasses q.operands 4 &&& q.classes = operandClasses q.operands 4) :
    createCheck s q = (lowestFreePooled s).elim (.error (.noContext, [])) .ok := by
  unfold createCheck
  rw [if_neg (by simpa [classesWithin_iff] using h)]
  cases lowestFreePooled s <;> rfl

/-- Settles O19, by R29's two checks: each refusal is the answer alone, and what is taken is the context found. -/
theorem createTakesLowestFreeContext : Obligations.CreateTakesLowestFreeContext := by
  intro s p t q requested classes
  refine (takeRequest_of_requested requested _).trans (congrArg _ ?_)
  rw [← lowestFreePooled_eq]
  split_ifs with hclasses
  · rw [createCheck_of_exceeding hclasses]
    exact serveChecked_error_of_requested requested _ _ _
  · rw [createCheck_of_within (not_not.mp hclasses)]
    cases lowestFreePooled s with
    | none => exact serveChecked_error_of_requested requested _ _ _
    | some c =>
      have taken : Requested (s.setCtx c (createdCtx p classes)) p t .create q := requested.of_port_eq rfl
      exact respond_of_requested taken .done (contextResults c)

/-! ## DESTROY (R33, R34) -/

/-- A context is in use at a port that is bound to it or switching to it (R33). -/
theorem inUse_iff (r : PortRec) (c : Ctx) : inUse r c = true ↔ r.bound = c ∨ ∃ u, r.binding = .switching c u := by
  unfold inUse
  cases r.binding <;> simp

/-- The checks of R33 for a context operand in range, each with its outcome. -/
theorem destroyCheck_of_ctx {ops : List Byte} {c : Ctx} (hc : operandCtx ops 4 = some c) (s : State) (p : Port) :
    destroyCheck s p ops =
      if c.val < 4 then .error (.badOperand, [])
      else if (s.ctx c).owner ≠ some p then .error (.notOwner, [])
      else if (s.ctx c).state ≠ .live then .error (.notLive, [])
      else if (s.port p).bound = c ∨ ∃ u, (s.port p).binding = .switching c u then .error (.inUse, [])
      else .ok c := by
  unfold destroyCheck
  simp only [hc, actingFault_eq, ← inUse_iff]
  by_cases hhome : c.val < 4
  · simp [pooled, hhome, refuse]
  have hpooled : pooled c = true := decide_eq_true (Nat.le_of_not_lt hhome)
  by_cases howner : (s.ctx c).owner = some p
  · by_cases hlive : (s.ctx c).state = .live
    · simp [hpooled, hhome, howner, hlive, refuse]
    · simp [hpooled, hhome, howner, hlive, refuse]
  · simp [hpooled, hhome, howner, refuse]

/-- Settles O20, by the chain of R33's checks: a refusal is the answer alone, and past the last check R34's teardown starts. -/
theorem destroyStartsTeardown : Obligations.DestroyStartsTeardown := by
  intro s p t q c requested hc
  refine (takeRequest_of_requested requested _).trans (congrArg _ ?_)
  rw [destroyCheck_of_ctx hc]
  have refused (v : Verdict) (effect : Ctx → State) := serveChecked_error_of_requested requested v [] effect
  split_ifs with hhome howner hlive huse
  · exact refused .badOperand _
  · exact refused .notOwner _
  · exact refused .notLive _
  · exact refused .inUse _
  · rfl

/-! ## CEDE (R30) -/

/-- The checks of R30 for context operands in range, each with its outcome and results. -/
theorem cedeCheck_of_ctxs {ops : List Byte} {a b : Ctx} (ha : operandCtx ops 4 = some a) (hb : operandCtx ops 5 = some b)
    (s : State) (p : Port) :
    cedeCheck s p ops =
      if operandWord ops 6 < 1 ∨ 4096 < operandWord ops 6 then .error (.badOperand, [])
      else if b = a then .error (.badOperand, [])
      else if (s.ctx a).owner ≠ some p then .error (.notOwner, [])
      else if (s.ctx a).state ≠ .live then .error (.notLive, [])
      else if (s.ctx b).state ≠ .live then .error (.notLive, [])
      else if (s.ctx a).quota - (s.ctx a).charged < operandWord ops 6 then
        .error (.overQuota, le16 ((s.ctx a).quota - (s.ctx a).charged) ++ [0, 0])
      else .ok (a, b, operandWord ops 6) := by
  unfold cedeCheck
  simp only [ha, hb, actingFault_eq]
  by_cases howner : (s.ctx a).owner = some p
  · by_cases hlive : (s.ctx a).state = .live
    · by_cases htarget : (s.ctx b).state = .live
      · simp only [live, howner, hlive, htarget, ne_eq, not_true_eq_false, if_false]
        rfl
      · simp [live, howner, hlive, htarget, refuse]
    · simp [howner, hlive, refuse]
  · simp [howner, refuse]

/-- Between two contexts the move writes both quotas and nothing else. -/
theorem moveQuota_eq {a b : Ctx} (hab : b ≠ a) (s : State) (n : Nat) :
    moveQuota s a b n =
      withCtx (withCtx s a { s.ctx a with quota := (s.ctx a).quota - n }) b { s.ctx b with quota := (s.ctx b).quota + n } := by
  unfold moveQuota
  rw [modCtx_eq, ctx_modCtx, if_neg hab]
  rfl

theorem owner_moveQuota (s : State) (a b d : Ctx) (n : Nat) : ((moveQuota s a b n).ctx d).owner = (s.ctx d).owner := by
  unfold moveQuota
  simp only [ctx_modCtx]
  split_ifs <;> simp_all

theorem quota_moveQuota_source {a b : Ctx} (hab : b ≠ a) (s : State) (n : Nat) :
    ((moveQuota s a b n).ctx a).quota = (s.ctx a).quota - n := by
  simp [moveQuota, hab.symm]

theorem quota_moveQuota_target {a b : Ctx} (hab : b ≠ a) (s : State) (n : Nat) :
    ((moveQuota s a b n).ctx b).quota = (s.ctx b).quota + n := by
  simp [moveQuota, hab]

@[simp] theorem ctx_addressOwner (s : State) (c d : Ctx) (n : Notice) : (addressOwner s c n).ctx d = s.ctx d := by
  rw [addressOwner_eq]
  rfl

/-- A notice to a context's owner port leaves every other port. -/
theorem port_addressOwner_of_ne {s : State} {c : Ctx} {p : Port} (h : (s.ctx c).owner ≠ some p) (n : Notice) :
    (addressOwner s c n).port p = s.port p := by
  cases howner : (s.ctx c).owner with
  | none => rw [addressOwner_none howner]
  | some o =>
    have hne : p ≠ o := fun e => h (by rw [howner, e])
    rw [addressOwner_some howner]
    exact (port_modPort ..).trans (if_neg hne)

/-- The requesting port itself is told nothing (R30). -/
theorem announceQuota_eq (s : State) (p : Port) (a b : Ctx) (n : Nat) :
    announceQuota s p a b n =
      if (s.ctx b).owner = some p then s else addressOwner s b (.quotaReceived a b n) := by
  unfold announceQuota ownedBy
  simp only [beq_iff_eq]

theorem ctx_announceQuota (s : State) (p : Port) (a b d : Ctx) (n : Nat) : (announceQuota s p a b n).ctx d = s.ctx d := by
  rw [announceQuota_eq]
  split_ifs
  · rfl
  · exact ctx_addressOwner ..

/-- QUOTA_RECEIVED never reaches the requesting port, so its request is still to be answered. -/
theorem port_announceQuota (s : State) (p : Port) (a b : Ctx) (n : Nat) : (announceQuota s p a b n).port p = s.port p := by
  rw [announceQuota_eq]
  split_ifs with howner
  · rfl
  · exact port_addressOwner_of_ne howner _

/-- R30's whole effect: the quota moves, and the target's owner port is told where it is another. -/
theorem announceQuota_moveQuota {a b : Ctx} (hab : b ≠ a) (s : State) (p : Port) (n : Nat) :
    announceQuota (moveQuota s a b n) p a b n =
      let moved := withCtx (withCtx s a { s.ctx a with quota := (s.ctx a).quota - n }) b
        { s.ctx b with quota := (s.ctx b).quota + n }
      if (s.ctx b).owner = some p then moved else addressOwner moved b (.quotaReceived a b n) := by
  rw [announceQuota_eq, owner_moveQuota, moveQuota_eq hab]

/-- The response to an accepted CEDE carries both quotas after the move (R30). -/
theorem respond_cede {s : State} {p : Port} {t : Tag} {q : ControlSlot} (h : Requested s p t .cede q) {a b : Ctx}
    (hab : b ≠ a) (n : Nat) :
    let ceded := announceQuota (moveQuota s a b n) p a b n
    respond ceded p t .done (cedeResults (ceded.ctx a).quota (ceded.ctx b).quota) =
      answer ceded p t .cede .done (le16 ((s.ctx a).quota - n) ++ le16 ((s.ctx b).quota + n)) := by
  intro ceded
  have asked : Requested ceded p t .cede q := h.of_port_eq (port_announceQuota (moveQuota s a b n) p a b n)
  rw [respond_of_requested asked, ctx_announceQuota, ctx_announceQuota, quota_moveQuota_source hab, quota_moveQuota_target hab]
  rfl

/-- Settles O21, by the chain of R30's checks: a refusal is the answer alone, and past the last check the quota moves, the other
port is told, and the two quotas are read back. -/
theorem cedeMovesQuota : Obligations.CedeMovesQuota := by
  intro s p t q a b requested ha hb n
  refine (takeRequest_of_requested requested _).trans (congrArg _ ?_)
  rw [cedeCheck_of_ctxs ha hb]
  have refused (v : Verdict) (results : List Byte) (effect : Ctx × Ctx × Nat → State) :=
    serveChecked_error_of_requested requested v results effect
  split_ifs with hrange hsame howner hlive htarget hquota hown
  · exact refused .badOperand _ _
  · exact refused .badOperand _ _
  · exact refused .notOwner _ _
  · exact refused .notLive _ _
  · exact refused .notLive _ _
  · exact refused .overQuota _ _
  all_goals
    refine (respond_cede requested hsame n).trans ?_
    rw [announceQuota_moveQuota hsame]
  · rw [if_pos hown]
  · rw [if_neg hown]

end Sys2Proof.Machine
end

section
/-! PROOFS. The map store: MAP_SET (R48, R50, R51). -/

namespace Sys2Proof.Machine

open Sys2Proof

/-! ## Making an entry (R48) -/

/-- R48's set: an invalid entry becomes valid, and the new frame's and the context's counts rise. -/
theorem makeEntry_of_invalid {s : State} {c : Ctx} {g : Page} (h : s.entry c g = none) (e : MapEntry) :
    makeEntry s c g e = modCtx (raiseMapCount (s.setEntry c g (some e)) e.frame) c
      fun x => { x with validCount := x.validCount + 1 } := by
  unfold makeEntry
  rw [h]

/-- R48's replacement: a valid entry changes, and the map counts move where it names another frame. -/
theorem makeEntry_of_valid {s : State} {c : Ctx} {g : Page} {old : MapEntry} (h : s.entry c g = some old) (e : MapEntry) :
    makeEntry s c g e =
      if old.frame = e.frame then s.setEntry c g (some e)
      else raiseMapCount (lowerMapCount (s.setEntry c g (some e)) old.frame) e.frame := by
  unfold makeEntry
  rw [h]

@[simp] theorem frame_raiseMapCount (s : State) (f k : Frame) :
    (raiseMapCount s f).frame k = if k = f then { s.frame f with mapCount := (s.frame f).mapCount + 1 } else s.frame k :=
  frame_modFrame ..

@[simp] theorem frame_lowerMapCount (s : State) (f k : Frame) :
    (lowerMapCount s f).frame k = if k = f then { s.frame f with mapCount := (s.frame f).mapCount - 1 } else s.frame k :=
  frame_modFrame ..

/-- The map counts of R7 follow the entry: the frame named before loses one and the frame named now gains one, unless they
are the same. -/
theorem frame_makeEntry (s : State) (c : Ctx) (g : Page) (e : MapEntry) (k : Frame) :
    (makeEntry s c g e).frame k = { s.frame k with mapCount :=
      (s.frame k).mapCount - (if (s.entry c g).map MapEntry.frame = some k ∧ k ≠ e.frame then 1 else 0)
        + (if k = e.frame ∧ (s.entry c g).map MapEntry.frame ≠ some e.frame then 1 else 0) } := by
  cases hold : s.entry c g with
  | none =>
    rw [makeEntry_of_invalid hold]
    by_cases hnew : k = e.frame
    · simp [hnew]
    · simp [hnew]
  | some old =>
    rw [makeEntry_of_valid hold]
    by_cases hsame : old.frame = e.frame
    · have hkeep : ¬ (e.frame = k ∧ k ≠ e.frame) := fun h => h.2 h.1.symm
      simp [hsame, hkeep]
    · by_cases hnew : k = e.frame
      · subst hnew
        simp [hsame, Ne.symm hsame]
      · by_cases hk : k = old.frame
        · subst hk
          simp [hsame]
        · simp [hsame, hnew, hk, Ne.symm hk]

/-- Beside frame records and map tables, making an entry only counts it, where it was invalid. -/
theorem makeEntry_beside_tables (s : State) (c : Ctx) (g : Page) (e : MapEntry) :
    { makeEntry s c g e with frames := s.frames, maps := s.maps } =
      if s.entry c g = none then withCtx s c { s.ctx c with validCount := (s.ctx c).validCount + 1 } else s := by
  cases hold : s.entry c g with
  | none =>
    rw [makeEntry_of_invalid hold]
    rfl
  | some old =>
    rw [makeEntry_of_valid hold, if_neg (Option.some_ne_none old)]
    split_ifs <;> rfl

/-- Making an entry leaves every port, so a request for it is still to be answered. -/
theorem port_makeEntry (s : State) (c : Ctx) (g : Page) (e : MapEntry) (p : Port) :
    (makeEntry s c g e).port p = s.port p := by
  rw [makeEntry_frame]
  rfl

/-- An answer written over a state commutes with putting back frame records and map tables. -/
theorem answer_beside_tables (u s : State) (p : Port) (t : Tag) (k : RequestKind) (v : Verdict) (results : List Byte) :
    { answer u p t k v results with frames := s.frames, maps := s.maps } =
      answer { u with frames := s.frames, maps := s.maps } p t k v results := rfl

/-! ## The checks (R49, R50) -/

/-- The holding checks of R49: H1 fails where the context is no holder, or one under withdrawal, H2 where it holds less. -/
theorem holdingFault_eq (s : State) (c : Ctx) (f : Frame) (r : Rights) :
    holdingFault s c f r =
      if (s.frame f).state ≠ .held ∨ holderOf (s.frame f).holders c = none ∨
          (holderOf (s.frame f).holders c).map Holder.withdrawing = some true then some .notHolder
      else if r = .readWrite ∧ (holderOf (s.frame f).holders c).map Holder.rights = some .read then some .rightsExceeded
      else none := by
  unfold holdingFault exceeds
  cases holderOf (s.frame f).holders c with
  | none => simp
  | some h =>
    by_cases hheld : (s.frame f).state = .held
    · simp [hheld]
    · simp [hheld]

/-- The checks of R50 for operands in range, each with its outcome. -/
theorem mapSetCheck_of_operands {ops : List Byte} {c : Ctx} {g : Page} {f : Frame} {r : Rights}
    (hc : operandCtx ops 4 = some c) (hg : operandPage ops 5 = some g) (hf : operandFrame ops 6 = some f)
    (hr : operandRights ops 8 = some r) (s : State) (p : Port) :
    mapSetCheck s p ops =
      if (s.ctx c).owner ≠ some p then .error (.notOwner, [])
      else if (s.ctx c).state ≠ .live then .error (.notLive, [])
      else if (s.frame f).state ≠ .held ∨ holderOf (s.frame f).holders c = none ∨
          (holderOf (s.frame f).holders c).map Holder.withdrawing = some true then .error (.notHolder, [])
      else if r = .readWrite ∧ (holderOf (s.frame f).holders c).map Holder.rights = some .read then
        .error (.rightsExceeded, [])
      else .ok (c, g, ⟨f, r⟩) := by
  unfold mapSetCheck
  simp only [hc, hg, hf, hr, actingFault_eq, holdingFault_eq]
  split_ifs <;> rfl

/-! ## MAP_SET (R51) -/

/-- A requested MAP_SET is served by its checks. -/
theorem exec_mapSet {s : State} {p : Port} {t : Tag} {q : ControlSlot} (h : Requested s p t .mapSet q) :
    exec (.mapSet p t) s = .next (serveChecked s p t (mapSetCheck s p q.operands) fun x =>
      respond (makeEntry s x.1 x.2.1 x.2.2) p t .done (previousResults (s.entry x.1 x.2.1))) :=
  takeRequest_of_requested h _

/-- Settles O24, by the chain of R50's checks: a refusal is the answer alone, and past the last check the entry is made as
R48 gives and its former content answered. -/
theorem mapSetWritesEntry : Obligations.MapSetWritesEntry := by
  intro s p t q c g f r requested hc hg hf hr
  refine ⟨_, exec_mapSet requested, ?_⟩
  rw [mapSetCheck_of_operands hc hg hf hr]
  have refused (v : Verdict) (effect : Ctx × Page × MapEntry → State) :=
    serveChecked_error_of_requested requested v [] effect
  unfold holderOf
  split_ifs with howner hlive hholder hrights
  · exact refused .notOwner _
  · exact refused .notLive _
  · exact refused .notHolder _
  · exact refused .rightsExceeded _
  · have made : Requested (makeEntry s c g ⟨f, r⟩) p t .mapSet q := requested.of_port_eq (port_makeEntry ..)
    rw [serveChecked_ok, respond_of_requested made]
    refine ⟨fun d h => entry_makeEntry s c d g h ⟨f, r⟩, frame_makeEntry s c g ⟨f, r⟩, ?_⟩
    rw [answer_beside_tables, makeEntry_beside_tables]
    cases s.entry c g <;> rfl

end Sys2Proof.Machine
end

section
/-! PROOFS. Translation of an accepted access (R57, R58, R59, R123). -/

namespace Sys2Proof.Machine

open Sys2Proof

/-- A tag is outstanding where some transit slot of the port carries it. -/
theorem tagOutstanding_iff (r : PortRec) (t : Tag) :
    tagOutstanding r t = true ↔ ∃ i, (r.slot i).entry.map TransitEntry.tag = some t := by
  unfold tagOutstanding
  rw [Array.any_toList, Vector.any_toArray, Vector.any_iff_exists, Fin.exists_iff]
  refine exists_congr fun i => exists_congr fun hi => ?_
  change _ ↔ r.transit[i].entry.map TransitEntry.tag = some t
  cases r.transit[i].entry with
  | none => simp
  | some e => simp

/-- The four checks of R57 in their order, each with its cause. -/
theorem translation_eq (s : State) (p : Port) (a : AccessRequest) :
    translation s p a =
      if ∃ i, ((s.port p).slot i).entry.map TransitEntry.tag = some a.tag then .error .badTag
      else if 8192 < (offsetOf a.addr).val + accessLength a then .error .span
      else (s.entry (translatingCtx s p a.mode) (pageOf a.addr)).elim (.error .notMapped)
        fun e => if a.dir = .write ∧ e.rights = .read then .error .noWrite else .ok e := by
  unfold translation
  simp only [tagOutstanding_iff]
  cases s.entry (translatingCtx s p a.mode) (pageOf a.addr) <;> rfl

/-- What R57 makes of an accepted access: the fault of the first check that fails (R58), else the lowest-numbered FREE slot
takes its transit entry (R59, R123). -/
theorem translate_eq (s : State) (p : Port) (a : AccessRequest) :
    translate s p a =
      if ∃ i, ((s.port p).slot i).entry.map TransitEntry.tag = some a.tag then faultAccess s p a .badTag
      else if 8192 < (offsetOf a.addr).val + accessLength a then faultAccess s p a .span
      else (s.entry (translatingCtx s p a.mode) (pageOf a.addr)).elim (faultAccess s p a .notMapped) fun e =>
        if a.dir = .write ∧ e.rights = .read then faultAccess s p a .noWrite
        else (freeSlot (s.port p)).elim s fun i => allocate s p i (transitEntry s p a e.frame) := by
  unfold translate
  rw [translation_eq]
  split_ifs with htag hspan
  · rfl
  · rfl
  · cases s.entry (translatingCtx s p a.mode) (pageOf a.addr) with
    | none => rfl
    | some e =>
      rw [Option.elim_some, Option.elim_some]
      split_ifs with hwrite
      · rfl
      · cases freeSlot (s.port p) <;> rfl

/-- Settles O43, by R57's checks: each failing one is R58's fault, and an access that passes takes R123's slot. -/
theorem translationChecksInOrder : Obligations.TranslationChecksInOrder := by
  intro s p a _ r c page offset length fault
  have faulted (cause : FaultCause) : faultAccess s p a cause = fault cause := rfl
  refine (translate_eq s p a).trans ?_
  simp only [faulted]
  -- From here on the lookup and the slot are spelled as the statement spells them.
  refine ite_congr rfl (fun _ => rfl) fun _ => ite_congr rfl (fun _ => rfl) fun _ => ?_
  change (s.entry c page).elim _ _ = _
  cases s.entry c page with
  | none => rfl
  | some e =>
    refine ite_congr rfl (fun _ => rfl) fun _ => ?_
    change ((List.finRange 16).find? fun i => (r.slot i).entry.isNone).elim _ _ = _
    cases (List.finRange 16).find? fun i => (r.slot i).entry.isNone with
    | none => rfl
    | some i => exact allocate_eq s p i (transitEntry s p a e.frame)

end Sys2Proof.Machine
end

section
/-! PROOFS. Sharing: OFFER (R70, R71) and ACCEPT (R72, R73). -/

namespace Sys2Proof.Machine

open Sys2Proof

/-! ## Checks in their order -/

/-- A check that refuses in front of others: where it fails the refusal is the answer alone, else the others are served. -/
theorem serveChecked_ite_of_requested {α : Type} {s : State} {p : Port} {t : Tag} {k : RequestKind} {q : ControlSlot}
    {effect : α → State} {P : Prop} [Decidable P] {v : Verdict} {others : Except Reply α} {u : State}
    (h : Requested s p t k q) (served : ¬ P → serveChecked s p t others effect = u) :
    serveChecked s p t (if P then .error (v, []) else others) effect = if P then answer s p t k v [] else u := by
  split_ifs with hfail
  · exact serveChecked_error_of_requested h v [] effect
  · exact served hfail

theorem live_iff (s : State) (c : Ctx) : live s c = true ↔ (s.ctx c).state = .live := beq_iff_eq

/-! ## Notices beside a request -/

/-- A notice leaves what a port has requested: it stays in the same slot, waiting, at a port that is UP (R180). -/
theorem Requested.address {s : State} {p : Port} {t : Tag} {k : RequestKind} {q : ControlSlot}
    (h : Requested s p t k q) (o : Port) (n : Notice) : Requested (address s o n) p t k q := by
  unfold Machine.address Requested slotOf
  by_cases ho : p = o
  · subst ho
    rw [port_modPort, if_pos rfl, noticed_eq]
    exact h
  · rw [port_modPort, if_neg ho]
    exact h

/-- The same of a notice to a context's owner port, which may be the requesting port itself. -/
theorem Requested.addressOwner {s : State} {p : Port} {t : Tag} {k : RequestKind} {q : ControlSlot}
    (h : Requested s p t k q) (c : Ctx) (n : Notice) : Requested (addressOwner s c n) p t k q := by
  cases howner : (s.ctx c).owner with
  | none => rwa [addressOwner_none howner]
  | some o =>
    rw [addressOwner_some howner]
    exact h.address o n

/-! ## The holder list and the offer table -/

/-- Standing in a holder list is being the context of one of its records (R2). -/
theorem holds_iff (hs : List Holder) (c : Ctx) : holds hs c = true ↔ c ∈ hs.map Holder.ctx := by
  simp [holds, List.any_eq_true, List.mem_map]

theorem originOf_eq (hs : List Holder) : originOf hs = (hs.map Holder.ctx).head? := List.head?_map.symm

/-- A pending offer names the frame and the target where some slot of the table holds one (R70, check 10). -/
theorem offerPending_iff (s : State) (f : Frame) (d : Ctx) :
    offerPending s f d = true ↔ ∃ i, (s.offer i).map (fun o => (o.frame, o.target)) = some (f, d) := by
  unfold offerPending
  rw [Array.any_toList, Vector.any_toArray, Vector.any_iff_exists, Fin.exists_iff]
  refine exists_congr fun i => exists_congr fun hi => ?_
  change _ ↔ s.offers[i].map (fun o => (o.frame, o.target)) = some (f, d)
  cases s.offers[i] with
  | none => simp
  | some o => simp

theorem emptyOfferSlot_eq (s : State) :
    emptyOfferSlot s = (List.finRange 16).find? fun i => (s.offer i).isNone := rfl

/-- Removing an offer leaves every port, so a request for it is still to be answered. -/
theorem port_removeOffer (s : State) (i : OfferId) (p : Port) : (removeOffer s i).port p = s.port p := by
  cases hoffer : s.offer i with
  | none => rw [removeOffer_of_none hoffer]
  | some o =>
    rw [removeOffer_of_some hoffer]
    rfl

/-! ## OFFER (R70, R71) -/

/-- The checks of R70 for operands that name contexts, a frame and rights, each with its outcome; past the last one the
lowest-numbered empty slot is taken (R71). -/
theorem offerCheck_of_operands {ops : List Byte} {c d : Ctx} {f : Frame} {r : Rights}
    (hc : operandCtx ops 4 = some c) (hd : operandCtx ops 5 = some d) (hf : operandFrame ops 6 = some f)
    (hr : operandRights ops 8 = some r) (s : State) (p : Port) :
    let life := operandWord ops 10
    let holders := (s.frame f).holders.map Holder.ctx
    offerCheck s p ops =
      if life < 1 ∨ 4095 < life then .error (.badOperand, [])
      else if d = c then .error (.badOperand, [])
      else if (s.ctx c).owner ≠ some p then .error (.notOwner, [])
      else if (s.ctx c).state ≠ .live then .error (.notLive, [])
      else if (s.frame f).state ≠ .held then .error (.notHolder, [])
      else if c ∉ holders then .error (.notHolder, [])
      else if holders.head? ≠ some c then .error (.notOrigin, [])
      else if (s.ctx d).state ≠ .live then .error (.notLive, [])
      else if d ∈ holders then .error (.alreadyHolder, [])
      else if ∃ i, (s.offer i).map (fun o => (o.frame, o.target)) = some (f, d) then .error (.duplicateOffer, [])
      else if 4 ≤ holders.length + (s.frame f).pendingOffers then .error (.holdersFull, [])
      else (emptyOfferSlot s).elim (.error (.offersFull, [])) fun i => .ok (⟨c, d, f, r, life⟩, i) := by
  intro life holders
  unfold offerCheck offerOperands
  simp only [hc, hd, hf, hr, actingFault_eq]
  by_cases hlife : life < 1 ∨ 4095 < life
  · rw [if_pos hlife, if_pos hlife]
    rfl
  rw [if_neg hlife, if_neg hlife]
  refine ite_congr rfl (fun _ => rfl) fun _ => ?_
  by_cases howner : (s.ctx c).owner ≠ some p
  · rw [if_pos howner, if_pos howner]
    rfl
  rw [if_neg howner, if_neg howner]
  by_cases hacting : (s.ctx c).state ≠ .live
  · rw [if_pos hacting, if_pos hacting]
    rfl
  rw [if_neg hacting, if_neg hacting]
  simp only [Bool.not_eq_true', ← Bool.not_eq_true, holds_iff, originOf_eq, live_iff, offerPending_iff, holders,
    List.length_map]
  -- The seven checks on the frame, the target and the pending offers.
  iterate 7 refine ite_congr rfl (fun _ => rfl) fun _ => ?_
  cases emptyOfferSlot s <;> rfl

/-- A requested OFFER is served by its checks. -/
theorem exec_offer {s : State} {p : Port} {t : Tag} {q : ControlSlot} (h : Requested s p t .offer q) :
    exec (.offer p t) s = .next (serveChecked s p t (offerCheck s p q.operands) fun x =>
      respond (createOffer s x.1 x.2) p t .done (offerResults x.2 s.nextSerial)) :=
  takeRequest_of_requested h _

/-- The record of R71, the serial and the frame's count leave every port, and the notice leaves what is requested. -/
theorem Requested.createOffer {s : State} {p : Port} {t : Tag} {k : RequestKind} {q : ControlSlot}
    (h : Requested s p t k q) (x : OfferOperands) (i : OfferId) : Requested (createOffer s x i) p t k q := by
  unfold Machine.createOffer
  refine Requested.addressOwner ?_ _ _
  exact h.of_port_eq rfl

/-- Settles O31, by the chain of R70's checks: a refusal is the answer alone, and past the last check the offer is created as
R71 gives. -/
theorem offerTakesLowestSlot : Obligations.OfferTakesLowestSlot := by
  intro s p t q c d f r requested hc hd hf hr life holders
  refine (exec_offer requested).trans (congrArg _ ?_)
  rw [offerCheck_of_operands hc hd hf hr, ← emptyOfferSlot_eq]
  -- The eleven checks before the search for a slot.
  iterate 11 refine serveChecked_ite_of_requested requested fun _ => ?_
  cases emptyOfferSlot s with
  | none => exact serveChecked_error_of_requested requested .offersFull [] _
  | some i => exact respond_of_requested (requested.createOffer ⟨c, d, f, r, life⟩ i) .done _

/-! ## ACCEPT (R72, R73) -/

/-- The checks of R72 and R75 for an offer id in range: the record that the id and the serial name (R67), then the owner and
the state of the acting context. -/
theorem offerAnswerCheck_of_tag {ops : List Byte} {i : OfferId} (hi : operandTag ops 4 = some i) (s : State) (p : Port)
    (actor : OfferRec → Ctx) :
    offerAnswerCheck s p actor ops =
      (s.offer i).elim (.error (.noSuchOffer, [])) fun o =>
        if o.serial ≠ operandSerial ops 6 then .error (.noSuchOffer, [])
        else if (s.ctx (actor o)).owner ≠ some p then .error (.notOwner, [])
        else if (s.ctx (actor o)).state ≠ .live then .error (.notLive, [])
        else .ok (i, o) := by
  unfold offerAnswerCheck namedOffer
  simp only [hi, actingFault_eq]
  cases s.offer i with
  | none => rfl
  | some o =>
    by_cases hserial : o.serial = operandSerial ops 6
    · simp only [hserial, if_true, Option.elim_some, ne_eq, not_true_eq_false, if_false]
      split_ifs <;> rfl
    · simp [hserial, refuse]

/-- A requested ACCEPT is served by its checks. -/
theorem exec_accept {s : State} {p : Port} {t : Tag} {q : ControlSlot} (h : Requested s p t .accept q) :
    exec (.accept p t) s = .next (serveChecked s p t (offerAnswerCheck s p OfferRec.target q.operands) fun x =>
      respond (appendHolder (endOffer s x.1 .accepted x.2.offerer) x.2.frame x.2.target x.2.rights) p t .done
        (acceptResults x.2.frame)) :=
  takeRequest_of_requested h _

/-- A new holder changes no owner port. -/
theorem owner_appendHolder (s : State) (f : Frame) (c d : Ctx) (r : Rights) :
    ((appendHolder s f c r).ctx d).owner = (s.ctx d).owner := by
  unfold appendHolder
  rw [ctx_modCtx]
  split_ifs with hd
  · rw [hd]
    rfl
  · rfl

/-- A notice to an owner port and a new holder, in either order. -/
theorem appendHolder_addressOwner (s : State) (f : Frame) (c d : Ctx) (r : Rights) (n : Notice) :
    appendHolder (addressOwner s d n) f c r = addressOwner (appendHolder s f c r) d n := by
  have kept := owner_appendHolder s f c d r
  cases howner : (s.ctx d).owner with
  | none => rw [addressOwner_none howner, addressOwner_none (kept.trans howner)]
  | some o =>
    rw [addressOwner_some howner, addressOwner_some (kept.trans howner)]
    rfl

/-- R73's whole effect but the notice, at the offer table, the frame table and the context table. -/
theorem appendHolder_removeOffer {s : State} {i : OfferId} {o : OfferRec} (h : s.offer i = some o) (c : Ctx) (r : Rights) :
    appendHolder (removeOffer s i) o.frame c r =
      { withCtx s c { s.ctx c with shareCount := (s.ctx c).shareCount + 1 } with
        offers := s.offers.set i none
        frames := s.frames.set o.frame
          { s.frame o.frame with
            holders := (s.frame o.frame).holders ++ [⟨c, r, false⟩]
            pendingOffers := (s.frame o.frame).pendingOffers - 1 } } := by
  rw [removeOffer_of_some h, appendHolder_eq]
  simp only [State.frame_mk, vector_get_set, if_true, Vector.set_set]
  rfl

/-- Settles O32, by the chain of R72's checks: a refusal is the answer alone, and past the last check R73's one event is made. -/
theorem acceptAppendsHolder : Obligations.AcceptAppendsHolder := by
  intro s p t q i requested hi
  refine (exec_accept requested).trans (congrArg _ ?_)
  rw [offerAnswerCheck_of_tag hi]
  cases hoffer : s.offer i with
  | none => exact serveChecked_error_of_requested requested .noSuchOffer [] _
  | some o =>
    -- The serial, the target's owner and its state.
    iterate 3 refine serveChecked_ite_of_requested requested fun _ => ?_
    have taken : Requested (appendHolder (removeOffer s i) o.frame o.target o.rights) p t .accept q :=
      requested.of_port_eq (port_removeOffer s i p)
    rw [serveChecked_ok, endOffer_of_some hoffer, appendHolder_addressOwner,
      respond_of_requested (taken.addressOwner ..), appendHolder_removeOffer hoffer]
    rfl

end Sys2Proof.Machine
end

section
/-! PROOFS. The load engine: MAP_LOAD (R139, R140). -/

namespace Sys2Proof.Machine

open Sys2Proof

/-! ## The checks (R139) -/

/-- Check 1 of R139 fails where the offset, the count or the list's end is out of range. -/
theorem goodList_eq_false_iff (offset count : Nat) :
    goodList offset count = false ↔
      offset % 8 ≠ 0 ∨ 8184 < offset ∨ count < 1 ∨ 128 < count ∨ 8192 < offset + 8 * count := by
  rw [← Bool.not_eq_true, goodList, Config.frameSize]
  simp only [Bool.and_eq_true, beq_iff_eq, decide_eq_true_eq]
  omega

/-- The source test asks for a HELD frame with the target or the port's home context among its holders (R141). -/
theorem sourceHeld_iff (s : State) (p : Port) (c : Ctx) (f : Frame) :
    sourceHeld s p c f = true ↔
      (s.frame f).state = .held ∧ ∃ h ∈ (s.frame f).holders, h.ctx = c ∨ h.ctx = homeOf p := by
  simp only [sourceHeld, Bool.and_eq_true, Bool.or_eq_true, beq_iff_eq, holds_iff, List.mem_map, ← exists_or, ← and_or_left]

/-- The checks of R139 for operands that name a context and a frame, each with its outcome; past the last one the record to
append carries the request's fields, next index 0 and no stop request (R140). -/
theorem mapLoadCheck_of_operands {ops : List Byte} {c : Ctx} {f : Frame} (hc : operandCtx ops 4 = some c)
    (hf : operandFrame ops 6 = some f) (s : State) (p : Port) (t : Tag) :
    let n := operandByte ops 5
    let offset := operandWord ops 8
    mapLoadCheck s p t ops =
      if offset % 8 ≠ 0 ∨ 8184 < offset ∨ n < 1 ∨ 128 < n ∨ 8192 < offset + 8 * n then .error (.badOperand, [])
      else if (s.ctx c).owner ≠ some p then .error (.notOwner, [])
      else if (s.ctx c).state ≠ .live then .error (.notLive, [])
      else if ¬ ((s.frame f).state = .held ∧ ∃ h ∈ (s.frame f).holders, h.ctx = c ∨ h.ctx = homeOf p) then
        .error (.notHolder, [])
      else if 4 ≤ s.loadQueue.length then .error (.loadQueueFull, [])
      else .ok ⟨p, t, c, f, offset, n, operandStamp ops 12, 0, none⟩ := by
  intro n offset
  unfold mapLoadCheck
  simp only [hc, hf, actingFault_eq, Bool.not_eq_true', goodList_eq_false_iff, ← sourceHeld_iff, Bool.not_eq_true]
  refine ite_congr rfl (fun _ => rfl) fun _ => ?_
  by_cases howner : (s.ctx c).owner ≠ some p
  · rw [if_pos howner, if_pos howner]
    rfl
  rw [if_neg howner, if_neg howner]
  by_cases hacting : (s.ctx c).state ≠ .live
  · rw [if_pos hacting, if_pos hacting]
    rfl
  rw [if_neg hacting, if_neg hacting]
  rfl

/-! ## The acceptance (R140) -/

/-- The start check passes a record with no stop request whose target is LIVE and whose source is held (R141). -/
theorem startCheck_eq_none {s : State} {r : LoadRec} (hstop : r.stop = none) (hlive : (s.ctx r.target).state = .live)
    (hheld : sourceHeld s r.port r.target r.source = true) : startCheck s r = none := by
  unfold startCheck
  rw [hstop]
  simp only [(live_iff s r.target).mpr hlive, hheld, if_true]

/-- An accepted record stands at the tail. In an empty queue it runs at once, and what the checks have just found holds at
its start check too, so it is READY. -/
theorem acceptLoad_eq {s : State} {r : LoadRec} (hstop : r.stop = none) (hlive : (s.ctx r.target).state = .live)
    (hheld : sourceHeld s r.port r.target r.source = true) (p : Port) (t : Tag) :
    acceptLoad s p t r =
      { carriedOn s p t with
        loadQueue := s.loadQueue ++ [r]
        load := if s.loadQueue = [] then .ready else s.load } := by
  unfold acceptLoad
  cases hqueue : s.loadQueue with
  | nil =>
    have passes : startCheck { activate s p t with loadQueue := [r] } r = none := startCheck_eq_none hstop hlive hheld
    exact runLoads_ready rfl passes
  | cons first rest => rfl

/-! ## MAP_LOAD (R139, R140) -/

/-- A requested MAP_LOAD is served by its checks. -/
theorem exec_mapLoad {s : State} {p : Port} {t : Tag} {q : ControlSlot} (h : Requested s p t .mapLoad q) :
    exec (.mapLoad p t) s = .next (serveChecked s p t (mapLoadCheck s p t q.operands) (acceptLoad s p t)) :=
  takeRequest_of_requested h _

/-- Settles O27, by the chain of R139's checks: a refusal is the answer alone, and past the last check the load joins the queue
as R140 gives. -/
theorem mapLoadJoinsQueue : Obligations.MapLoadJoinsQueue := by
  intro s p t q c f requested hc hf n offset held
  refine (exec_mapLoad requested).trans (congrArg _ ?_)
  rw [mapLoadCheck_of_operands hc hf]
  -- In R139's order: the list, the target's owner, its state, the source, the room in the queue.
  refine serveChecked_ite_of_requested requested fun _ => serveChecked_ite_of_requested requested fun _ =>
    serveChecked_ite_of_requested requested fun hlive => serveChecked_ite_of_requested requested fun hheld =>
    serveChecked_ite_of_requested requested fun _ => ?_
  exact acceptLoad_eq rfl (not_not.mp hlive) ((sourceHeld_iff s p c f).mpr (not_not.mp hheld)) p t

end Sys2Proof.Machine
end

section
/-! PROOFS. The modes and the binding of a port: BIND (R158, R159). -/

namespace Sys2Proof.Machine

open Sys2Proof

/-! ## A port changed twice -/

/-- Two changes of one port are one change by the second after the first. -/
theorem modPort_modPort (s : State) (p : Port) (g h : PortRec → PortRec) :
    modPort (modPort s p g) p h = withPort s p (h (g (s.port p))) := by
  rw [modPort_eq (modPort s p g), port_modPort, if_pos rfl]
  exact congrArg (fun ports => { s with ports := ports }) (Vector.set_set ..)

/-! ## The checks (R158) -/

/-- The checks of R158 for a context operand in range, each with its outcome. -/
theorem bindCheck_of_ctx {ops : List Byte} {c : Ctx} (hc : operandCtx ops 4 = some c) (s : State) (p : Port) :
    bindCheck s p ops =
      if (s.ctx c).owner ≠ some p then .error (.notOwner, [])
      else if (s.ctx c).state ≠ .live then .error (.notLive, [])
      else if (s.port p).binding ≠ .settled then .error (.busy, [])
      else .ok c := by
  unfold bindCheck
  simp only [hc, actingFault_eq]
  by_cases howner : (s.ctx c).owner ≠ some p
  · rw [if_pos howner, if_pos howner]
    rfl
  rw [if_neg howner, if_neg howner]
  by_cases hlive : (s.ctx c).state ≠ .live
  · rw [if_pos hlive, if_pos hlive]
    rfl
  rw [if_neg hlive, if_neg hlive]
  exact (ite_not ..).symm

/-! ## The three ways (R159) -/

/-- A port that becomes bound to another context keeps what it has requested. -/
theorem Requested.withBound {s : State} {p : Port} {t : Tag} {k : RequestKind} {q : ControlSlot}
    (h : Requested s p t k q) (c : Ctx) : Requested (withPort s p { s.port p with bound := c }) p t k q := by
  have bound : (withPort s p { s.port p with bound := c }).port p = { s.port p with bound := c } :=
    (State.port_setPort ..).trans (if_pos rfl)
  unfold Requested
  rw [bound]
  exact h

/-- What a requested BIND of `c` does past its checks. -/
theorem bindTo_of_requested {s : State} {p : Port} {t : Tag} {q : ControlSlot} (h : Requested s p t .bind q) (c : Ctx) :
    bindTo s p t c =
      if (s.port p).bound = c then answer s p t .bind .done [byteOf c.val, 0, 0, 0]
      else if (s.port p).plainCount = 0 then
        answer (withPort s p { s.port p with bound := c }) p t .bind .done [byteOf (s.port p).bound.val, 0, 0, 0]
      else withPort s p { (s.port p).carriedOn t with binding := .switching c t } := by
  unfold bindTo
  refine ite_congr rfl (fun _ => ?already) fun _ => ite_congr rfl (fun _ => ?atOnce) fun _ => ?switching
  case already => exact respond_of_requested h .done (contextResults c)
  case atOnce => exact respond_of_requested (h.withBound c) .done (contextResults (s.port p).bound)
  case switching => exact modPort_modPort ..

/-! ## BIND (R158, R159) -/

/-- Settles O23, by the chain of R158's checks: a refusal is the answer alone, and past the last check the binding goes one of
R159's three ways. -/
theorem bindInThreeWays : Obligations.BindInThreeWays := by
  intro s p t q c requested hc r
  refine (takeRequest_of_requested requested _).trans (congrArg _ ?_)
  rw [bindCheck_of_ctx hc]
  -- In R158's order: the context's owner, its state, the port's binding.
  refine serveChecked_ite_of_requested requested fun _ => serveChecked_ite_of_requested requested fun _ =>
    serveChecked_ite_of_requested requested fun _ => ?_
  exact (serveChecked_ok ..).trans (bindTo_of_requested requested c)

end Sys2Proof.Machine
end

section
/-! PROOFS. The control channel and the notices: CONTROL_REQUEST_ARRIVAL (R172) and FETCH_NOTICES (R181). -/

namespace Sys2Proof.Machine

open Sys2Proof

/-! ## The form of a message (R185) -/

/-- A request code that names no kind is the first thing that makes a message MALFORMED. -/
theorem messageKind_of_kindOfCode_none {m : ControlMessage} (h : kindOfCode m.kind = none) : messageKind m = none := by
  unfold messageKind
  rw [h]

/-- The two further tests of R185 on a message whose code names a kind: its length and its reserved fields. -/
theorem messageKind_of_kindOfCode_some {m : ControlMessage} {k : RequestKind} (h : kindOfCode m.kind = some k) :
    messageKind m =
      if m.length.toNat ≠ requestLength k then none else if reservedClear k m = false then none else some k := by
  unfold messageKind
  rw [h]
  refine ite_congr rfl (fun _ => rfl) fun _ => ?_
  cases reservedClear k m <;> rfl

/-! ## Admission (R172) -/

/-- A slot is found under a tag where some slot of the port carries it. -/
theorem slotOf_isSome (r : PortRec) (t : Tag) : (slotOf r t).isSome = r.slots.any fun q => q.tag == t := by
  rw [Bool.eq_iff_iff, slotOf, List.find?_isSome, List.any_eq_true]

/-- A request acts with all four classes in elevated mode, in plain mode with those of the bound context (R156). -/
theorem actingClasses_messageMode (s : State) (p : Port) (m : ControlMessage) :
    actingClasses s p (messageMode m) =
      if m.tagMode.getLsbD 4 then 15 else (s.ctx (s.port p).bound).classes := by
  unfold messageMode
  split <;> rfl

theorem admission_of_malformed {m : ControlMessage} (h : messageKind m = none) (s : State) (p : Port) :
    admission s p m = .error .malformed := by
  unfold admission
  rw [h]

/-- The checks of R172 on a well-formed request: a FREE slot, a tag of its own, and the class its kind asks for. -/
theorem admission_of_messageKind {m : ControlMessage} {k : RequestKind} (h : messageKind m = some k) (s : State) (p : Port) :
    admission s p m =
      if 4 ≤ (s.port p).slots.length then .error .backlog
      else if (s.port p).slots.any fun q => q.tag == messageTag m then .error .tagInUse
      else (requestClass k).elim (.ok k) fun cl =>
        if cl &&& actingClasses s p (messageMode m) = cl then .ok k else .error .noRight := by
  unfold admission
  rw [h, slotOf_isSome]
  refine ite_congr rfl (fun _ => rfl) fun _ => ite_congr rfl (fun _ => rfl) fun _ => ?_
  cases requestClass k with
  | none => rfl
  | some cl => exact ite_congr (propext (classesWithin_iff ..)) (fun _ => rfl) fun _ => rfl

/-- A message whose code names no kind fails the first check. -/
theorem admission_of_kindOfCode_none {m : ControlMessage} (h : kindOfCode m.kind = none) (s : State) (p : Port) :
    admission s p m = .error .malformed :=
  admission_of_malformed (messageKind_of_kindOfCode_none h) s p

/-- The checks of R172 on a message whose code names a kind, with those of its form in front. -/
theorem admission_of_kindOfCode_some {m : ControlMessage} {k : RequestKind} (h : kindOfCode m.kind = some k) (s : State)
    (p : Port) :
    admission s p m =
      if m.length.toNat ≠ requestLength k then .error .malformed
      else if reservedClear k m = false then .error .malformed
      else if 4 ≤ (s.port p).slots.length then .error .backlog
      else if (s.port p).slots.any fun q => q.tag == messageTag m then .error .tagInUse
      else (requestClass k).elim (.ok k) fun cl =>
        if cl &&& actingClasses s p (messageMode m) = cl then .ok k else .error .noRight := by
  have form := messageKind_of_kindOfCode_some h
  by_cases hlength : m.length.toNat ≠ requestLength k
  · rw [if_pos hlength] at form ⊢
    exact admission_of_malformed form s p
  rw [if_neg hlength] at form ⊢
  by_cases hreserved : reservedClear k m = false
  · rw [if_pos hreserved] at form ⊢
    exact admission_of_malformed form s p
  rw [if_neg hreserved] at form ⊢
  exact admission_of_messageKind form s p

/-! ## CONTROL_REQUEST_ARRIVAL (R172) -/

/-- A refusal at arrival is one response with no results, and no slot is taken (R174). -/
theorem refuseArrival_eq (s : State) (p : Port) (m : ControlMessage) (v : Verdict) :
    refuseArrival s p m v =
      withPort s p { s.port p with
        controlResponses := (s.port p).controlResponses ++ [[m.kind, byteOf (messageTag m).val, v.code, 4]] } := rfl

/-- An admitted request stands in a slot, WAITING, and nothing is sent (R173). -/
theorem admitRequest_eq (s : State) (p : Port) (m : ControlMessage) (k : RequestKind) :
    admitRequest s p m k =
      withPort s p { s.port p with
        slots := (s.port p).slots ++
          [⟨messageTag m, k, m.operands, actingClasses s p (messageMode m), .waiting, false⟩] } := rfl

theorem portUp_iff (s : State) (p : Port) : portUp s p = true ↔ (s.port p).state = .up := beq_iff_eq

/-- A port that is not UP answers OFFLINE before any check (R155). -/
theorem exec_controlRequestArrival_of_not_up {s : State} {p : Port} (h : (s.port p).state ≠ .up) (m : ControlMessage) :
    exec (.controlRequestArrival p m) s = .next (refuseArrival s p m .offline) :=
  congrArg _ (if_neg (mt (portUp_iff s p).mp h))

/-- What the checks refuse at a port that is UP is answered with their outcome. -/
theorem exec_controlRequestArrival_of_error {s : State} {p : Port} {m : ControlMessage} {v : Verdict}
    (hup : (s.port p).state = .up) (h : admission s p m = .error v) :
    exec (.controlRequestArrival p m) s = .next (refuseArrival s p m v) := by
  refine congrArg _ ((if_pos ((portUp_iff s p).mpr hup)).trans ?_)
  rw [h]

/-- What passes the checks at a port that is UP is admitted. -/
theorem exec_controlRequestArrival_of_ok {s : State} {p : Port} {m : ControlMessage} {k : RequestKind}
    (hup : (s.port p).state = .up) (h : admission s p m = .ok k) :
    exec (.controlRequestArrival p m) s = .next (admitRequest s p m k) := by
  refine congrArg _ ((if_pos ((portUp_iff s p).mpr hup)).trans ?_)
  rw [h]

/-- Settles O9, by R172's checks in their order: each refusal is the response alone, and past the last check the request takes
its slot. -/
theorem controlRequestAdmission : Obligations.ControlRequestAdmission := by
  intro p m s r tag classes say admitted
  by_cases offline : r.state ≠ .up
  · rw [if_pos offline]
    exact exec_controlRequestArrival_of_not_up offline m
  rw [if_neg offline]
  have acting : actingClasses s p (messageMode m) = classes := actingClasses_messageMode s p m
  have refused {v : Verdict} (h : admission s p m = .error v) : exec (.controlRequestArrival p m) s = .next (say v) := by
    rw [exec_controlRequestArrival_of_error (not_not.mp offline) h, refuseArrival_eq]
  have accepted {k : RequestKind} (h : admission s p m = .ok k) :
      exec (.controlRequestArrival p m) s = .next (admitted k) := by
    rw [exec_controlRequestArrival_of_ok (not_not.mp offline) h, admitRequest_eq, acting]
  cases hcode : kindOfCode m.kind with
  | none => exact refused (admission_of_kindOfCode_none hcode s p)
  | some k =>
    have checks := admission_of_kindOfCode_some hcode s p
    rw [acting] at checks
    dsimp only
    -- In R172's order: the form's length and reserved fields, a FREE slot, the tag, the class.
    split_ifs at checks ⊢
    · exact refused checks
    · exact refused checks
    · exact refused checks
    · exact refused checks
    cases hclass : requestClass k with
    | none =>
      rw [hclass] at checks
      exact accepted checks
    | some cl =>
      rw [hclass, Option.elim_some] at checks
      dsimp only
      split_ifs at checks ⊢
      · exact accepted checks
      · exact refused checks

/-! ## FETCH_NOTICES (R181) -/

/-- The results of a FETCH_NOTICES of `n` records, in a queue that may hold fewer. -/
theorem fetchResults_take_drop (records : List (List Byte)) (n dropped : Nat) :
    fetchResults (records.take n) (records.drop n).length dropped =
      [byteOf (min n records.length), byteOf (records.length - n), byteOf dropped, 0] ++ (records.take n).flatten := by
  unfold fetchResults
  rw [List.length_take, List.length_drop]

/-- What a port has requested lasts through a change of its record that keeps its state and its slots. -/
theorem Requested.withPort {s : State} {p : Port} {t : Tag} {k : RequestKind} {q : ControlSlot} (h : Requested s p t k q)
    {r : PortRec} (state : r.state = (s.port p).state) (slots : r.slots = (s.port p).slots) :
    Requested (withPort s p r) p t k q := by
  have changed : (Machine.withPort s p r).port p = r := (State.port_setPort ..).trans (if_pos rfl)
  unfold Requested slotOf
  rwa [changed, state, slots]

/-- What a requested FETCH_NOTICES of `n` records does past its check. -/
theorem fetchRecords_of_requested {s : State} {p : Port} {t : Tag} {q : ControlSlot} (h : Requested s p t .fetchNotices q)
    (n : Nat) :
    fetchRecords s p t n =
      answer (withPort s p { s.port p with notices := (s.port p).notices.drop n, dropped := 0 }) p t .fetchNotices .done
        ([byteOf (min n (s.port p).notices.length), byteOf ((s.port p).notices.length - n), byteOf (s.port p).dropped, 0]
          ++ ((s.port p).notices.take n).flatten) := by
  rw [← fetchResults_take_drop]
  refine respond_of_requested (q := q) ?_ .done _
  exact h.withPort rfl rfl

/-- Settles O14, by the check of the count: past it the oldest records leave the queue for the results. -/
theorem fetchNoticesTakesOldest : Obligations.FetchNoticesTakesOldest := by
  intro s p t q requested n r
  refine (takeRequest_of_requested requested _).trans (congrArg _ ?_)
  -- The one check of R181: the count is 1 to 4.
  exact serveChecked_ite_of_requested requested fun _ =>
    (serveChecked_ok ..).trans (fetchRecords_of_requested requested n)

end Sys2Proof.Machine
end

section
/-! SUPPORT. What a step can do: every command but the two edges of RST_N and a scrub's success is a chain of a few kinds of
change, each with what is known where it is made. Laws of one block are then proved once per kind of change. -/

namespace Sys2Proof.Machine

open Sys2Proof

/-! ## The kinds of change -/

/-- The changes of a port's record, each under the condition that its block sees to. -/
inductive PortMove (p : Port) (r : PortRec) : PortRec → Prop where
  | stay : PortMove p r r
  | sent (access : List AccessResponse) (control : List (List Byte)) :
      PortMove p r { r with
        accessResponses := r.accessResponses ++ access
        controlResponses := r.controlResponses ++ control }
  | responded (t : Tag) (v : Verdict) (results : List Byte) : PortMove p r (r.responded t v results)
  | carriedOn (t : Tag) : PortMove p r (r.carriedOn t)
  | admitted (q : ControlSlot) (up : r.state = .up) (room : r.slots.length < Config.controlSlots)
      (tag : slotOf r q.tag = none) : PortMove p r { r with slots := r.slots ++ [q] }
  | noticed (n : Notice) : PortMove p r (r.noticed n)
  | notified (n : Notice) : PortMove p r (r.notified n)
  | placed : PortMove p r r.placed
  | fetched (n : Nat) : PortMove p r { r with notices := r.notices.drop n, dropped := 0 }
  | lanes (plain elevated : List AccessRequest) (last : Mode) (up : r.state = .up) :
      PortMove p r { r with plainLane := plain, elevatedLane := elevated, lastLane := last }
  | allocated (i : Slot) (e : TransitEntry) (free : (r.slot i).entry = none) (waiting : e.phase = .waiting)
      (tag : tagOutstanding r e.tag = false) :
      PortMove p r { r.setSlot i ⟨(r.slot i).gen + 1, some e⟩ with
        issueQueue := r.issueQueue ++ [i]
        plainCount := if e.mode = .plain then r.plainCount + 1 else r.plainCount }
  | skipped (i : Slot) (rest : List Slot) (head : r.issueQueue = i :: rest) (free : (r.slot i).entry = none) :
      PortMove p r { r with issueQueue := rest }
  | issued (i : Slot) (rest : List Slot) (e : TransitEntry) (head : r.issueQueue = i :: rest)
      (held : (r.slot i).entry = some e) :
      PortMove p r { r.setSlot i ⟨(r.slot i).gen, some { e with phase := .issued 0, data := [] }⟩ with issueQueue := rest }
  | aged : PortMove p r { r with transit := mapVec olderSlot r.transit }
  | freed (i : Slot) (e : TransitEntry) (age : Nat) (held : (r.slot i).entry = some e) (phase : e.phase = .issued age) :
      PortMove p r { r.setSlot i ⟨(r.slot i).gen, none⟩ with
        plainCount := if e.mode = .plain then r.plainCount - 1 else r.plainCount }
  | bound (c : Ctx) (b : Binding) (up : r.state = .up ∨ r.binding ≠ .settled ∨ ∃ q ∈ r.slots, q.standing = .waiting) :
      PortMove p r { r with bound := c, binding := b }
  | line (level : Bool) (x : PortState) (stays : x = r.state ∨ x = .up) : PortMove p r { r with prst := level, state := x }
  | phase (x : PortState) (leaves : r.state ≠ .up ∨ x = .up) : PortMove p r { r with state := x }
  | cut (offline : List AccessResponse) :
      PortMove p r { r with
        state := .teardown .loads
        notices := []
        dropped := 0
        arriving := []
        bound := homeOf p
        binding := .settled
        plainLane := []
        elevatedLane := []
        lastLane := .plain
        accessResponses := r.accessResponses ++ offline
        slots := r.slots.filterMap discardSlot }

/-- The changes of a frame's record that leave its state and clear no mark. -/
structure FrameMove (r r' : FrameRec) : Prop where
  state : r'.state = r.state
  mark : r.errorMark = true → r'.errorMark = true

/-- The changes of a context's record that leave its standing and quota, and never charge beyond the quota. -/
structure CtxMove (r r' : CtxRec) : Prop where
  state : r'.state = r.state
  owner : r'.owner = r.owner
  quota : r'.quota = r.quota
  charged : r.charged ≤ r.quota → r'.charged ≤ r.quota

/-- The changes of the scrub engine's state while it stays on its frame. -/
inductive ScrubMove : ScrubState → ScrubState → Prop where
  | stay (x : ScrubState) : ScrubMove x x
  | issued (f : Frame) (k : Nat) : ScrubMove (.ready f k) (.outstanding f k 0)
  | advanced (f : Frame) (k age : Nat) (more : k + 1 < Config.scrubWrites) :
      ScrubMove (.outstanding f k age) (.ready f (k + 1))
  | aged (f : Frame) (k age : Nat) : ScrubMove (.outstanding f k age) (.outstanding f k (age + 1))

/-- One change of the state. -/
inductive Move (s : State) : State → Prop where
  | ports (ps : Vector PortRec 4) (each : ∀ p, PortMove p (s.port p) (ps.get p)) : Move s { s with ports := ps }
  | frame (f : Frame) (r : FrameRec) (kept : FrameMove (s.frame f) r) : Move s (s.setFrame f r)
  | claimed (c : Ctx) (n : Nat) :
      Move s ((s.freeList.take n).foldl (fun s f => modFrame s f (claimedFrame c)) { s with freeList := s.freeList.drop n })
  | gaveUp (f : Frame) (held : (s.frame f).state = .held) :
      Move s (modFrame s f fun x => { x with state := .reclaim, holders := [], pendingOffers := 0 })
  | reclaimed (f : Frame) : Move s (reclaimExit s f)
  | failed (f : Frame) (k age : Nat) (current : s.scrub = .outstanding f k age) : Move s (scrubFail s f)
  | engine (x : ScrubState) (gen : Byte) (kept : ScrubMove s.scrub x) : Move s { s with scrub := x, writeGen := gen }
  | ctx (c : Ctx) (r : CtxRec) (kept : CtxMove (s.ctx c) r) : Move s (s.setCtx c r)
  | created (c : Ctx) (p : Port) (classes : Classes) (free : (s.ctx c).state = .free) (pool : pooled c = true) :
      Move s (s.setCtx c (createdCtx p classes))
  | ceded (a b : Ctx) (n : Nat) (other : b ≠ a) (target : (s.ctx b).state = .live) (room : n ≤ headroom (s.ctx a))
      (source : (s.ctx a).state = .live) : Move s (moveQuota s a b n)
  | leaving (c : Ctx) (pool : pooled c = true) (live : (s.ctx c).state = .live) :
      Move s (modCtx s c fun x => { x with state := .teardown })
  | left (c : Ctx) (pool : pooled c = true) :
      Move s (State.setCtx (match (s.ctx c).owner with
        | some p => modCtx s (homeOf p) fun x => { x with quota := x.quota + (s.ctx c).quota }
        | none => s) c CtxRec.free)
  | tables (us ms : Nat) (teardowns : Vector (Option Teardown) 16) (maps : Vector MapTable 16)
      (offers : Vector (Option OfferRec) 16) (serial : BitVec 16) (withdrawals : List Withdrawal) (pointer : MemoryRequester)
      (loadQueue : List LoadRec) (load : LoadState) (readGen : Byte) (requests : List MemoryRequest) (choices : Nat) :
      Move s { s with
        usTicks := us, msTicks := ms, teardowns := teardowns, maps := maps, offers := offers, nextSerial := serial,
        withdrawals := withdrawals, pointer := pointer, loadQueue := loadQueue, load := load, readGen := readGen,
        memoryRequests := s.memoryRequests ++ requests, choices := choices }

/-- A chain of changes. -/
abbrev Moves : State → State → Prop := Relation.ReflTransGen Move

namespace Moves

theorem refl {s : State} : Moves s s := Relation.ReflTransGen.refl

theorem of_next {s t u : State} (moves : Moves s u)
    (h : (.next u : Host.Outcome State Fault Refusal) = .next t) : Moves s t := by
  cases h
  exact moves

/-- Where a condition decides between two states. -/
theorem ite {s u v : State} {P : Prop} [Decidable P] (pos : P → Moves s u) (neg : ¬ P → Moves s v) :
    Moves s (if P then u else v) := by
  split_ifs with h
  · exact pos h
  · exact neg h

/-- Tables that no law of one block speaks of. -/
theorem tables {s : State} {us ms : Nat} {td : Vector (Option Teardown) 16} {maps : Vector MapTable 16}
    {offers : Vector (Option OfferRec) 16} {serial : BitVec 16} {ws : List Withdrawal} {ptr : MemoryRequester}
    {lq : List LoadRec} {l : LoadState} {gen : Byte} {k : Nat} :
    Moves s { s with
      usTicks := us, msTicks := ms, teardowns := td, maps := maps, offers := offers, nextSerial := serial,
      withdrawals := ws, pointer := ptr, loadQueue := lq, load := l, readGen := gen, choices := k } := by
  have h := Move.tables (s := s) us ms td maps offers serial ws ptr lq l gen [] k
  rw [List.append_nil] at h
  exact .single h

theorem port {s : State} {p : Port} {r : PortRec} (h : PortMove p (s.port p) r) : Moves s (s.setPort p r) := by
  refine .single (.ports _ fun q => ?_)
  rw [vector_get_set]
  split
  · rename_i e; subst e; exact h
  · exact .stay

theorem modPort {s : State} {p : Port} {g : PortRec → PortRec} (h : PortMove p (s.port p) (g (s.port p))) :
    Moves s (modPort s p g) := port h

theorem modFrame {s : State} {f : Frame} {g : FrameRec → FrameRec} (h : FrameMove (s.frame f) (g (s.frame f))) :
    Moves s (modFrame s f g) := .single (.frame f _ h)

theorem modCtx {s : State} {c : Ctx} {g : CtxRec → CtxRec} (h : CtxMove (s.ctx c) (g (s.ctx c))) :
    Moves s (modCtx s c g) := .single (.ctx c _ h)

theorem foldl {α : Type} {g : State → α → State} (h : ∀ s a, Moves s (g s a)) (l : List α) (s : State) :
    Moves s (l.foldl g s) :=
  foldl_keeps (P := Moves s) (fun u a hu => hu.trans (h u a)) l .refl

/-! ## Responses and notices -/

theorem respond (s : State) (p : Port) (t : Tag) (v : Verdict) (rs : List Byte) : Moves s (respond s p t v rs) :=
  modPort (.responded t v rs)

theorem activate (s : State) (p : Port) (t : Tag) : Moves s (activate s p t) := modPort (.carriedOn t)

theorem sendAccess (s : State) (p : Port) (x : AccessResponse) : Moves s (sendAccess s p x) := by
  have h := PortMove.sent (p := p) (r := s.port p) [x] []
  rw [List.append_nil] at h
  exact port h

theorem sendControl (s : State) (p : Port) (bytes : List Byte) : Moves s (sendControl s p bytes) := by
  have h := PortMove.sent (p := p) (r := s.port p) [] [bytes]
  rw [List.append_nil] at h
  exact port h

theorem answerAccess (s : State) (p : Port) (x : AccessResponse) : Moves s (answerAccess s p x) := by
  rw [answerAccess_eq]
  split_ifs with up
  · exact sendAccess s p x
  · exact port .stay

theorem address (s : State) (p : Port) (n : Notice) : Moves s (address s p n) := modPort (.noticed n)

theorem addressOwner (s : State) (c : Ctx) (n : Notice) : Moves s (addressOwner s c n) := by
  unfold Machine.addressOwner
  split
  · exact address _ _ _
  · exact .refl

theorem notify (s : State) (p : Port) (n : Notice) : Moves s (notify s p n) := modPort (.notified n)

theorem notifyOwner (s : State) (c : Ctx) (n : Notice) : Moves s (notifyOwner s c n) := by
  unfold Machine.notifyOwner
  split
  · exact notify _ _ _
  · exact .refl

theorem notifyOrigin (s : State) (f : Frame) (n : Notice) : Moves s (notifyOrigin s f n) := by
  unfold Machine.notifyOrigin
  split
  · exact notifyOwner _ _ _
  · exact .refl

theorem placeNotices (s : State) : Moves s (placeNotices s) :=
  .single (.ports _ fun p => by rw [mapVec_get]; exact .placed)

/-! ## The frame table -/

theorem setErrorMark (s : State) (f : Frame) : Moves s (setErrorMark s f) := modFrame ⟨rfl, fun _ => rfl⟩

theorem appendHolder (s : State) (f : Frame) (c : Ctx) (r : Rights) : Moves s (appendHolder s f c r) :=
  (modFrame ⟨rfl, id⟩).trans (modCtx ⟨rfl, rfl, rfl, id⟩)

theorem markWithdrawing (s : State) (f : Frame) (c : Ctx) : Moves s (markWithdrawing s f c) := modFrame ⟨rfl, id⟩

theorem removeHolder (s : State) (f : Frame) (c : Ctx) : Moves s (removeHolder s f c) :=
  (modFrame ⟨rfl, id⟩).trans (modCtx ⟨rfl, rfl, rfl, id⟩)

/-- A promotion charges a context that has headroom for it (R86). -/
theorem promote {s : State} {d : Ctx} (room : 1 ≤ headroom (s.ctx d)) (f : Frame) (c : Ctx) :
    Moves s (promote s f c d) := by
  unfold Machine.promote
  dsimp only
  refine (Relation.ReflTransGen.trans (modFrame ⟨rfl, id⟩) (modCtx ⟨rfl, rfl, rfl, fun _ => ?_⟩)).trans
    (modCtx ⟨rfl, rfl, rfl, fun h => (Nat.sub_le _ _).trans h⟩)
  unfold headroom at room
  show (s.ctx d).charged + 1 ≤ (s.ctx d).quota
  omega

theorem giveUp {s : State} {f : Frame} (held : (s.frame f).state = .held) (c : Ctx) : Moves s (giveUp s f c) :=
  (Relation.ReflTransGen.single (.gaveUp f held)).trans (modCtx ⟨rfl, rfl, rfl, fun h => (Nat.sub_le _ _).trans h⟩)

theorem reclaimExit (s : State) (f : Frame) : Moves s (reclaimExit s f) := .single (.reclaimed f)

/-! ## The map store -/

theorem raiseMapCount (s : State) (f : Frame) : Moves s (raiseMapCount s f) := modFrame ⟨rfl, id⟩

theorem lowerMapCount (s : State) (f : Frame) : Moves s (lowerMapCount s f) := modFrame ⟨rfl, id⟩

theorem setEntry (s : State) (c : Ctx) (g : Page) (e : Option MapEntry) : Moves s (s.setEntry c g e) := tables

theorem countEntry (s : State) (c : Ctx) (g : Nat → Nat) :
    Moves s (Machine.modCtx s c fun x => { x with validCount := g x.validCount }) := modCtx ⟨rfl, rfl, rfl, id⟩

theorem makeEntry (s : State) (c : Ctx) (g : Page) (e : MapEntry) : Moves s (makeEntry s c g e) := by
  unfold Machine.makeEntry
  dsimp only
  split
  · exact ((setEntry _ _ _ _).trans (raiseMapCount _ _)).trans (countEntry _ _ (· + 1))
  · split_ifs
    · exact setEntry _ _ _ _
    · exact ((setEntry _ _ _ _).trans (lowerMapCount _ _)).trans (raiseMapCount _ _)

theorem clearEntry (s : State) (c : Ctx) (g : Page) : Moves s (clearEntry s c g) := by
  unfold Machine.clearEntry
  split
  · exact .refl
  · exact ((setEntry _ _ _ _).trans (lowerMapCount _ _)).trans (countEntry _ _ (· - 1))

theorem invalidate (s : State) (c : Ctx) (f : Option Frame) : Moves s (invalidate s c f) :=
  foldl (fun s g => by
    split
    · exact .refl
    · split_ifs
      · exact clearEntry _ _ _
      · exact .refl) _ _

/-! ## The offer table -/

theorem removeOffer (s : State) (i : OfferId) : Moves s (removeOffer s i) := by
  unfold Machine.removeOffer
  split
  · exact .refl
  · exact (tables : Moves s (s.setOffer i none)).trans (modFrame ⟨rfl, id⟩)

theorem endOffer (s : State) (i : OfferId) (r : OfferEnd) (c : Ctx) : Moves s (endOffer s i r c) := by
  unfold Machine.endOffer
  split
  · exact .refl
  · exact (removeOffer _ _).trans (addressOwner _ _ _)

theorem cancelOffer (s : State) (i : OfferId) (c : Ctx) : Moves s (cancelOffer s i c) := by
  unfold Machine.cancelOffer
  split
  · exact .refl
  · exact (removeOffer _ _).trans (notifyOwner _ _ _)

theorem cancelOffersOn (s : State) (f : Frame) : Moves s (cancelOffersOn s f) :=
  foldl (fun s i => by
    split
    · exact .refl
    · split_ifs
      · exact cancelOffer _ _ _
      · exact .refl) _ _

theorem cancelOffersOf (s : State) (c : Ctx) : Moves s (cancelOffersOf s c) :=
  foldl (fun s i => by
    split
    · exact .refl
    · split_ifs
      · exact cancelOffer _ _ _
      · exact cancelOffer _ _ _
      · exact .refl) _ _

theorem expireOffer (s : State) (i : OfferId) : Moves s (expireOffer s i) := by
  unfold Machine.expireOffer
  split
  · exact .refl
  · dsimp only
    split_ifs
    · exact endOffer _ _ _ _
    · exact (endOffer _ _ _ _).trans (addressOwner _ _ _)

theorem createOffer (s : State) (x : OfferOperands) (i : OfferId) : Moves s (createOffer s x i) := by
  refine Relation.ReflTransGen.trans (b := Machine.modFrame _ x.frame _) ?_ (addressOwner _ _ _)
  refine Relation.ReflTransGen.trans (b := { s.setOffer i _ with nextSerial := s.nextSerial + 1 }) ?_ (modFrame ⟨rfl, id⟩)
  exact tables

/-! ## Withdrawals and loads -/

theorem startWithdrawal (s : State) (c : Ctx) (f : Option Frame) (q : Requester) :
    Moves s (startWithdrawal s c f q) :=
  (invalidate s c f).trans tables

theorem withdrawHolder (s : State) (c : Ctx) (f : Frame) (q : Requester) : Moves s (withdrawHolder s c f q) :=
  (markWithdrawing _ _ _).trans (startWithdrawal _ _ _ _)

theorem endRunning (s : State) (e : LoadEnd) : Moves s (endRunning s e) := by
  unfold Machine.endRunning
  split
  · exact .refl
  · exact Relation.ReflTransGen.trans tables (respond _ _ _ _ _)

theorem runLoadsFor (n : Nat) (s : State) : Moves s (runLoadsFor n s) := by
  induction n generalizing s with
  | zero => exact .refl
  | succ n ih =>
    unfold Machine.runLoadsFor
    split
    · exact tables
    · split
      · exact tables
      · exact (endRunning _ _).trans (ih _)

theorem runLoads (s : State) : Moves s (runLoads s) := runLoadsFor _ _

theorem endLoad (s : State) (e : LoadEnd) : Moves s (endLoad s e) := (endRunning _ _).trans (runLoads _)

theorem removeQueued (s : State) (w : LoadRec → Bool) (e : LoadEnd) : Moves s (removeQueued s w e) := by
  unfold Machine.removeQueued
  split
  · exact .refl
  · exact Relation.ReflTransGen.trans tables (foldl (fun _ _ => respond _ _ _ _ _) _ _)

theorem placeStop (s : State) (q : StopRequest) : Moves s (placeStop s q) := by
  unfold Machine.placeStop
  split
  · exact .refl
  · split_ifs
    · exact .refl
    · exact Relation.ReflTransGen.trans tables (runLoads _)
    · exact tables

theorem endLoadsWhere (s : State) (w : LoadRec → Bool) (q : StopRequest) : Moves s (endLoadsWhere s w q) := by
  unfold Machine.endLoadsWhere
  dsimp only
  split
  · exact removeQueued _ _ _
  · split_ifs
    · exact (removeQueued _ _ _).trans (placeStop _ _)
    · exact removeQueued _ _ _

theorem setTeardown (s : State) (c : Ctx) (x : Option Teardown) : Moves s (s.setTeardown c x) := tables

theorem cancelThenEndLoads (s : State) (c : Ctx) (q : Starter) : Moves s (cancelThenEndLoads s c q) := by
  unfold Machine.cancelThenEndLoads endLoadsOfCtx
  exact ((cancelOffersOf s c).trans (setTeardown _ _ _)).trans (endLoadsWhere _ _ _)

theorem acceptLoad (s : State) (p : Port) (t : Tag) (r : LoadRec) : Moves s (acceptLoad s p t r) := by
  have h : Moves s { Machine.activate s p t with loadQueue := s.loadQueue ++ [r] } := (activate s p t).trans tables
  unfold Machine.acceptLoad
  dsimp only
  split_ifs
  · exact h.trans (runLoads _)
  · exact h

theorem cancelLoad (s : State) (p : Port) (t : Tag) : Moves s (cancelLoad s p t) := by
  unfold Machine.cancelLoad
  split
  · exact .refl
  · split_ifs
    · exact placeStop _ _
    · exact removeQueued _ _ _

theorem finishRead (s : State) (d : List Byte) : Moves s (finishRead s d) := by
  unfold Machine.finishRead
  split
  · exact .refl
  · split
    · exact endLoad _ _
    · rename_i r rest _ _ a _
      have h : Moves s (applyAction { s with loadQueue := { r with next := r.next + 1 } :: rest } r.target a) :=
        Relation.ReflTransGen.trans tables (by
          cases a with
          | set g e => exact makeEntry _ _ _ _
          | clear g => exact clearEntry _ _ _)
      dsimp only
      split_ifs
      · exact h.trans (endLoad _ _)
      · exact h.trans (runLoads _)

theorem failRead (s : State) : Moves s (failRead s) := by
  unfold Machine.failRead
  split
  · exact tables
  · exact (setErrorMark _ _).trans (endLoad _ _)

/-! ## What goes on within an event -/

theorem setStep (s : State) (c : Ctx) (x : TeardownStep) : Moves s (setStep s c x) := by
  unfold Machine.setStep
  split
  · exact tables
  · exact .refl

theorem startPooledTeardown {s : State} {c : Ctx} (pool : pooled c = true) (live : (s.ctx c).state = .live) (q : Starter) :
    Moves s (startPooledTeardown s c q) :=
  (Relation.ReflTransGen.single (.leaving c pool live)).trans tables

/-- A frame given up, and its way out of RECLAIM, in a teardown's turn or departure. -/
theorem gaveUp {s : State} {f : Frame} (held : (s.frame f).state = .held) (c : Ctx) (x : TeardownStep) :
    Moves s (Machine.setStep (Machine.reclaimExit (Machine.giveUp s f c) f) c x) :=
  ((giveUp held c).trans (reclaimExit _ _)).trans (setStep _ _ _)

theorem examineDeparture {s : State} {f : Frame} (held : (s.frame f).state = .held) (c : Ctx) :
    Moves s (examineDeparture s c f) := by
  unfold Machine.examineDeparture
  split_ifs
  · exact setStep _ _ _
  · exact gaveUp held c _
  · split
    · rename_i d heir
      obtain ⟨h, found, rfl⟩ := Option.map_eq_some_iff.1 heir
      have room : 1 ≤ headroom (s.ctx h.ctx) := by simpa using List.find?_some found
      exact ((promote room f c).trans (notifyOwner _ _ _)).trans (setStep _ _ _)
    · exact (markWithdrawing _ _ _).trans (setStep _ _ _)

theorem examineTurn (s : State) (c : Ctx) (f : Frame) : Moves s (examineTurn s c f) := by
  unfold Machine.examineTurn
  split_ifs with gone
  · exact setStep _ _ _
  · exact setStep _ _ _
  · exact ((removeHolder _ _ _).trans (notifyOrigin _ _ _)).trans (setStep _ _ _)
  · exact gaveUp (not_not.mp (not_or.mp gone).1) c _
  · exact examineDeparture (not_not.mp (not_or.mp gone).1) c

theorem nextCoHolder (s : State) (c : Ctx) (f : Frame) : Moves s (nextCoHolder s c f) := by
  unfold Machine.nextCoHolder
  split_ifs with gone
  · exact setStep _ _ _
  · split
    · exact gaveUp (not_not.mp gone) c _
    · exact withdrawHolder _ _ _ _

theorem finishTeardown (s : State) (c : Ctx) : Moves s (finishTeardown s c) := by
  have first : Moves s (s.setTeardown c none) := tables
  unfold Machine.finishTeardown
  dsimp only
  split_ifs with pool
  · have left := first.trans (.single (.left c pool))
    cases howner : (s.ctx c).owner with
    | none =>
      rw [State.ctx_setTeardown, howner] at left
      split
      · exact left.trans (respond _ _ _ _ _)
      · exact left
    | some p =>
      rw [State.ctx_setTeardown, howner] at left
      split
      · exact left.trans (respond _ _ _ _ _)
      · exact left
  · exact first

theorem frameTurn (s : State) (c : Ctx) : Moves s (frameTurn s c) := by
  unfold Machine.frameTurn
  split
  · exact examineTurn _ _ _
  · exact finishTeardown _ _

theorem takeTurn (s : State) (c : Ctx) : Moves s (takeTurn s c) := by
  unfold Machine.takeTurn
  split
  · exact frameTurn _ _
  · exact examineTurn _ _ _
  · exact nextCoHolder _ _ _
  · exact .refl

theorem takeStep (s : State) (c : Ctx) : Moves s (takeStep s c) := by
  unfold Machine.takeStep
  split
  · exact (setStep _ _ _).trans (startWithdrawal _ _ _ _)
  · exact takeTurn _ _

theorem endWithdrawal (s : State) (w : Withdrawal) : Moves s (endWithdrawal s w) := by
  have first : Moves s (removeRecord s w) := tables
  unfold Machine.endWithdrawal
  dsimp only
  split
  · exact (first.trans (reclaimExit _ _)).trans (respond _ _ _ _ _)
  · exact ((first.trans (removeHolder _ _ _)).trans (notifyOrigin _ _ _)).trans (respond _ _ _ _ _)
  · exact ((first.trans (removeHolder _ _ _)).trans (notifyOwner _ _ _)).trans (respond _ _ _ _ _)
  · exact (first.trans (removeHolder _ _ _)).trans (notifyOwner _ _ _)
  · unfold endDrain
    split
    · exact first.trans (setStep _ _ _)
    · exact first
  · exact first

theorem enterContext {s : State} {p : Port} (leaves : (s.port p).state ≠ .up) : Moves s (enterContext s p) := by
  have phase (x : PortState) : Moves s (Machine.modPort s p fun r => { r with state := x }) :=
    modPort (.phase x (.inl leaves))
  unfold Machine.enterContext
  split
  · rename_i c next
    dsimp only
    split_ifs with hlive
    · refine (phase (.teardown (.contexts c))).trans (startPooledTeardown (nextPooled_spec next).1 ?_ _)
      exact (live_iff s c).1 hlive
    · exact phase _
  · exact (phase _).trans (cancelThenEndLoads _ _ _)

theorem endPortTeardown {s : State} {p : Port} (leaves : (s.port p).state ≠ .up) : Moves s (endPortTeardown s p) :=
  modPort (.phase _ (.inl leaves))

theorem portStep (s : State) (p : Port) : Moves s (portStep s p) := by
  unfold Machine.portStep
  split
  · rename_i h
    exact enterContext (by rw [h]; nofun)
  · rename_i c h
    split_ifs
    · exact endPortTeardown (by rw [h]; nofun)
    · exact enterContext (by rw [h]; nofun)
  · exact .refl

theorem takeDue {s t : State} (h : takeDue s = some t) : Moves s t := by
  unfold Machine.takeDue at h
  split at h
  · cases h
    exact endWithdrawal _ _
  · split at h
    · rename_i s1 d hc
      cases h
      have chosen : Moves s s1 := by
        rw [(choose_spec hc).2]
        exact tables
      cases d with
      | context c => exact chosen.trans (takeStep _ _)
      | port p => exact chosen.trans (portStep _ _)
    · cases h

theorem settle (s : State) : Moves s (settle s) :=
  settle_induct (P := Moves s) (fun _ _ h e => h.trans (takeDue e)) (fun _ h => h.trans (placeNotices _)) .refl

end Moves

end Sys2Proof.Machine
end

section
/-! SUPPORT. Every command as a chain of changes. -/

namespace Sys2Proof.Machine

open Sys2Proof

namespace Moves

/-! ## Accesses -/

theorem faultAccess (s : State) (p : Port) (a : AccessRequest) (cause : FaultCause) : Moves s (faultAccess s p a cause) :=
  (sendAccess _ _ _).trans (address _ _ _)

/-- The slot that an allocation takes is FREE (R123). -/
theorem entry_of_freeSlot {r : PortRec} {i : Slot} (h : freeSlot r = some i) : (r.slot i).entry = none := by
  simpa using List.find?_some h

/-- An access that passes the checks of R57 has no tag outstanding. -/
theorem tag_of_translation {s : State} {p : Port} {a : AccessRequest} {e : MapEntry} (h : translation s p a = .ok e) :
    tagOutstanding (s.port p) a.tag = false := by
  unfold translation at h
  split_ifs at h with tag
  · simpa using tag

theorem translate (s : State) (p : Port) (a : AccessRequest) : Moves s (translate s p a) := by
  unfold Machine.translate
  split
  · exact faultAccess _ _ _ _
  · rename_i e passed
    split
    · exact .refl
    · rename_i i free
      exact modPort (.allocated i _ (entry_of_freeSlot free) rfl (tag_of_translation passed))

theorem acceptOne (s : State) (p : Port) : Moves s (acceptOne s p) := by
  unfold Machine.acceptOne
  split_ifs with open'
  · have up : (s.port p).state = .up := (portUp_iff s p).1 (Bool.and_eq_true_iff.1 open').1
    split
    · exact .refl
    · exact Relation.ReflTransGen.trans (modPort (.lanes _ _ _ up)) (translate _ _ _)
    · exact Relation.ReflTransGen.trans (modPort (.lanes _ _ _ up)) (translate _ _ _)
    · split
      · exact Relation.ReflTransGen.trans (modPort (.lanes _ _ _ up)) (translate _ _ _)
      · exact Relation.ReflTransGen.trans (modPort (.lanes _ _ _ up)) (translate _ _ _)
  · exact .refl

theorem pushLane {s : State} {p : Port} (up : (s.port p).state = .up) (a : AccessRequest) : Moves s (pushLane s p a) := by
  unfold Machine.pushLane
  cases hmode : a.mode with
  | plain => exact modPort (.lanes _ _ _ up)
  | elevated => exact modPort (.lanes _ _ _ up)

theorem completeSwitch (s : State) (p : Port) : Moves s (completeSwitch s p) := by
  unfold Machine.completeSwitch
  split
  · exact .refl
  · rename_i target t h
    exact Relation.ReflTransGen.trans (modPort (.bound _ _ (.inr (.inl (by rw [h]; nofun))))) (respond _ _ _ _ _)

theorem switchAfter (s : State) (p : Port) (e : TransitEntry) : Moves s (switchAfter s p e) := by
  unfold Machine.switchAfter
  split_ifs
  · exact completeSwitch _ _
  · exact .refl

theorem leaveDrains (s : State) (p : Port) (i : Slot) : Moves s (leaveDrains s p i) := tables

/-- The end of an access that a slot holds ISSUED. -/
theorem freeEntry {s : State} {p : Port} {i : Slot} {e : TransitEntry} {age : Nat}
    (held : ((s.port p).slot i).entry = some e) (phase : e.phase = .issued age) : Moves s (freeEntry s p i e) := by
  unfold Machine.freeEntry
  have dropped : Moves s (dropEntry s p i e) := modPort (.freed i e age held phase)
  exact ((((dropped.trans (leaveDrains _ _ _)).trans (switchAfter _ _ _)).trans (acceptOne _ _))).trans (settle _)

theorem transit_answerAccess (s : State) (p q : Port) (x : AccessResponse) :
    ((Machine.answerAccess s p x).port q).transit = (s.port q).transit := by
  unfold Machine.answerAccess
  rw [port_modPort]
  by_cases hq : q = p
  · subst hq
    rw [if_pos rfl]
    split_ifs <;> rfl
  · rw [if_neg hq]

theorem transit_address (s : State) (p q : Port) (n : Notice) :
    ((Machine.address s p n).port q).transit = (s.port q).transit := by
  unfold Machine.address
  rw [port_modPort]
  by_cases hq : q = p
  · subst hq
    rw [if_pos rfl, noticed_eq]
  · rw [if_neg hq]

theorem completeEntry {s : State} {p : Port} {i : Slot} {e : TransitEntry} {age : Nat}
    (held : ((s.port p).slot i).entry = some e) (phase : e.phase = .issued age) (d : List Byte) :
    Moves s (completeEntry s p i e d) := by
  refine (answerAccess s p _).trans (freeEntry (age := age) ?_ phase)
  rwa [PortRec.slot, transit_answerAccess]

theorem failEntry {s : State} {p : Port} {i : Slot} {e : TransitEntry} {age : Nat}
    (held : ((s.port p).slot i).entry = some e) (phase : e.phase = .issued age) (kind : MemoryFaultKind) :
    Moves s (failEntry s p i e kind) := by
  unfold Machine.failEntry
  refine (((answerAccess s p _).trans (setErrorMark _ _)).trans (address _ _ _)).trans (freeEntry (age := age) ?_ phase)
  rw [PortRec.slot, transit_address]
  refine Eq.trans (congrArg (fun v : Vector TransitSlot 16 => (v.get i).entry) ?_) held
  exact transit_answerAccess s p p _

/-- What a completion matches stands ISSUED in its slot (R129). -/
theorem of_matching {s : State} {p : Port} {i : Slot} {gen : Byte} {e : TransitEntry} (h : matching s p i gen = some e) :
    ((s.port p).slot i).entry = some e ∧ ∃ age, e.phase = .issued age := by
  unfold matching at h
  split at h
  · cases h
  · rename_i e' held
    split at h
    · cases h
    · rename_i age phase
      split_ifs at h
      cases h
      exact ⟨held, age, phase⟩

/-- What times out stands ISSUED in its slot (R132). -/
theorem of_timedOut {s : State} {p : Port} {i : Slot} {e : TransitEntry} (h : timedOut s p i = some e) :
    ((s.port p).slot i).entry = some e ∧ ∃ age, e.phase = .issued age ∧ Config.timeout ≤ age := by
  unfold timedOut at h
  split at h
  · cases h
  · rename_i e' held
    split at h
    · cases h
    · rename_i age phase
      split_ifs at h with late
      cases h
      exact ⟨held, age, phase, late⟩

/-! ## The memory port and the engines -/

theorem request (s : State) (rs : List MemoryRequest) : Moves s { s with memoryRequests := s.memoryRequests ++ rs } :=
  .single (.tables _ _ _ _ _ _ _ _ _ _ _ rs _)

theorem engine {s : State} {x : ScrubState} (h : ScrubMove s.scrub x) (gen : Byte) :
    Moves s { s with scrub := x, writeGen := gen } := .single (.engine x gen h)

theorem issueHead (s : State) (p : Port) : Moves s (issueHead s p) := by
  unfold Machine.issueHead
  cases head : (s.port p).issueQueue with
  | nil => exact .refl
  | cons i rest =>
    dsimp only
    cases held : ((s.port p).slot i).entry with
    | none => exact modPort (.skipped i rest head held)
    | some e =>
      dsimp only
      refine Relation.ReflTransGen.trans (b := Machine.modPort (Machine.modPort s p fun x => { x with issueQueue := rest }) p _)
        ?_ (request _ _)
      rw [modPort_modPort]
      exact port (.issued i rest e head held)

theorem issueScrub (s : State) : Moves s (issueScrub s) := by
  unfold Machine.issueScrub
  cases h : s.scrub with
  | ready f k => exact (engine (x := .outstanding f k 0) (by rw [h]; exact .issued f k) _).trans (request _ _)
  | idle => exact .refl
  | outstanding f k age => exact .refl

theorem issueLoad (s : State) : Moves s (issueLoad s) := by
  unfold Machine.issueLoad
  split
  · exact .refl
  · split_ifs
    · exact .single (.tables _ _ _ _ _ _ _ _ _ _ _ _ _)
    · exact (endLoad _ _).trans (settle _)

theorem grant (s : State) (r : MemoryRequester) : Moves s (grant s r) := by
  have first : Moves s { s with pointer := ringAfter r } := tables
  unfold Machine.grant
  cases r with
  | port p => exact first.trans (issueHead _ _)
  | scrub => exact first.trans (issueScrub _)
  | load => exact first.trans (issueLoad _)

/-- The scrub engine's failure is of its outstanding write (R113). -/
theorem scrubFail {s : State} {f : Frame} {k age : Nat} (h : s.scrub = .outstanding f k age) : Moves s (scrubFail s f) :=
  .single (.failed f k age h)

/-- What a scrub completion matches is the outstanding write (R112, R114). -/
theorem of_scrubMatching {s : State} {gen : Byte} {x : Frame × Nat} (h : scrubMatching s gen = some x) :
    s.writeGen = gen ∧ ∃ age, s.scrub = .outstanding x.1 x.2 age := by
  unfold scrubMatching at h
  split at h
  · rename_i f k age hscrub
    split_ifs at h with hgen
    cases h
    exact ⟨hgen, age, hscrub⟩
  · cases h

theorem of_scrubTimedOut {s : State} {f : Frame} (h : scrubTimedOut s = some f) :
    ∃ k age, s.scrub = .outstanding f k age ∧ Config.timeout ≤ age := by
  unfold scrubTimedOut at h
  split at h
  · rename_i f' k age hscrub
    split_ifs at h with late
    cases h
    exact ⟨k, age, hscrub, late⟩
  · cases h

/-! ## The ticks -/

theorem raiseAges (s : State) : Moves s (raiseAges s) := by
  have aged : ScrubMove s.scrub (match s.scrub with | .outstanding f k age => .outstanding f k (age + 1) | x => x) := by
    cases s.scrub with
    | idle => exact .stay _
    | ready f k => exact .stay _
    | outstanding f k age => exact .aged f k age
  have ports : Moves s { s with ports := mapVec (fun r => { r with transit := mapVec olderSlot r.transit }) s.ports } :=
    .single (.ports _ fun p => by rw [mapVec_get]; exact .aged)
  exact (ports.trans (.single (.engine _ s.writeGen aged))).trans tables

theorem takeLate (s : State) (x : Late) : Moves s (takeLate s x) := by
  unfold Machine.takeLate
  cases x with
  | access p i =>
    dsimp only
    split
    · exact .refl
    · rename_i e late
      obtain ⟨held, age, phase, -⟩ := of_timedOut late
      exact failEntry held phase _
  | scrub =>
    dsimp only
    split
    · exact .refl
    · rename_i f late
      obtain ⟨k, age, h, -⟩ := of_scrubTimedOut late
      exact scrubFail h
  | load =>
    dsimp only
    split_ifs
    · exact (failRead _).trans (settle _)
    · exact .refl

theorem takeLateFor (n : Nat) (s : State) : Moves s (takeLateFor n s) := by
  induction n generalizing s with
  | zero => exact .refl
  | succ n ih =>
    unfold Machine.takeLateFor
    split
    · exact .refl
    · rename_i s1 x chosen
      have first : Moves s s1 := by
        rw [(choose_spec chosen).2]
        exact tables
      exact (first.trans (takeLate _ _)).trans (ih _)

theorem expireDue (s : State) : Moves s (expireDue s) :=
  foldl (fun s i => by
    split_ifs
    · exact expireOffer _ _
    · exact .refl) _ _

/-! ## The requests -/

/-- A request taken where it stands WAITING, or not. -/
theorem of_takeRequest_waiting {s t : State} {p : Port} {tag : Tag} {k : RequestKind} {serve : ControlSlot → State}
    (served : ∀ q, waitingRequest s p tag k = some q → Moves s (serve q)) (h : takeRequest s p tag k serve = .next t) :
    Moves s t := by
  unfold takeRequest at h
  split at h
  · exact of_next .refl h
  · rename_i q hq
    exact of_next (served q hq) h

theorem of_takeRequest {s t : State} {p : Port} {tag : Tag} {k : RequestKind} {serve : ControlSlot → State}
    (served : ∀ q, Moves s (serve q)) (h : takeRequest s p tag k serve = .next t) : Moves s t :=
  of_takeRequest_waiting (fun q _ => served q) h

/-- A request served by its checks: refused, or its effect, made where the checks pass. -/
theorem serveChecked {α : Type} {s : State} {p : Port} {t : Tag} {check : Except Reply α} {effect : α → State}
    (accepted : ∀ a, check = .ok a → Moves s (effect a)) : Moves s (serveChecked s p t check effect) := by
  unfold Machine.serveChecked
  split
  · exact respond _ _ _ _ _
  · exact accepted _ rfl

end Moves

/-- An acting context without fault is the port's and LIVE (R24). -/
theorem of_actingFault {s : State} {p : Port} {c : Ctx} (h : actingFault s p c = none) :
    (s.ctx c).owner = some p ∧ (s.ctx c).state = .live := by
  rw [actingFault_eq] at h
  split_ifs at h with howner hlive
  exact ⟨not_not.mp howner, not_not.mp hlive⟩

/-- What passes the checks of a request that names contexts and frames passes the check of its acting context. -/
theorem acting_of_ok {α : Type} {s : State} {p : Port} {c : Ctx} {others : Except Reply α} {a : α}
    (h : (match actingFault s p c with | some v => refuse v | none => others) = .ok a) :
    ((s.ctx c).owner = some p ∧ (s.ctx c).state = .live) ∧ others = .ok a := by
  cases hfault : actingFault s p c with
  | none => rw [hfault] at h; exact ⟨of_actingFault hfault, h⟩
  | some v => rw [hfault] at h; cases h

/-- What passes a check in front of others is not refused by it. -/
theorem passed_of_ok {α : Type} {P : Prop} [Decidable P] {r : Reply} {others : Except Reply α} {a : α}
    (h : (if P then .error r else others) = .ok a) : ¬ P ∧ others = .ok a := by
  by_cases hfail : P
  · rw [if_pos hfail] at h
    cases h
  · rw [if_neg hfail] at h
    exact ⟨hfail, h⟩

theorem of_claimCheck {s : State} {p : Port} {ops : List Byte} {a : Ctx × Nat} (h : claimCheck s p ops = .ok a) :
    (s.ctx a.1).state = .live ∧ a.2 ≤ headroom (s.ctx a.1) ∧ a.2 ≤ s.freeList.length := by
  unfold claimCheck at h
  split at h
  · cases h
  · obtain ⟨-, h⟩ := passed_of_ok h
    obtain ⟨⟨-, hlive⟩, h⟩ := acting_of_ok h
    obtain ⟨hquota, h⟩ := passed_of_ok h
    obtain ⟨hfree, h⟩ := passed_of_ok h
    cases h
    exact ⟨hlive, not_lt.mp hquota, not_lt.mp hfree⟩

theorem of_createCheck {s : State} {q : ControlSlot} {c : Ctx} (h : createCheck s q = .ok c) :
    pooled c = true ∧ (s.ctx c).state = .free := by
  unfold createCheck at h
  obtain ⟨-, h⟩ := passed_of_ok h
  split at h
  · cases h
  · rename_i d found
    cases h
    simpa using List.find?_some found

theorem of_destroyCheck {s : State} {p : Port} {ops : List Byte} {c : Ctx} (h : destroyCheck s p ops = .ok c) :
    pooled c = true ∧ (s.ctx c).owner = some p ∧ (s.ctx c).state = .live ∧ inUse (s.port p) c = false := by
  unfold destroyCheck at h
  split at h
  · cases h
  · obtain ⟨hpool, h⟩ := passed_of_ok h
    obtain ⟨⟨howner, hlive⟩, h⟩ := acting_of_ok h
    obtain ⟨huse, h⟩ := passed_of_ok h
    cases h
    exact ⟨by simpa using hpool, howner, hlive, by simpa using huse⟩

theorem of_cedeCheck {s : State} {p : Port} {ops : List Byte} {x : Ctx × Ctx × Nat} (h : cedeCheck s p ops = .ok x) :
    x.2.1 ≠ x.1 ∧ (s.ctx x.1).state = .live ∧ (s.ctx x.2.1).state = .live ∧ x.2.2 ≤ headroom (s.ctx x.1) := by
  unfold cedeCheck at h
  split at h
  · obtain ⟨-, h⟩ := passed_of_ok h
    obtain ⟨hsame, h⟩ := passed_of_ok h
    obtain ⟨⟨-, hlive⟩, h⟩ := acting_of_ok h
    obtain ⟨htarget, h⟩ := passed_of_ok h
    obtain ⟨hquota, h⟩ := passed_of_ok h
    cases h
    exact ⟨hsame, hlive, (live_iff _ _).1 (by simpa using htarget), not_lt.mp hquota⟩
  · cases h

theorem of_releaseCheck {s : State} {p : Port} {ops : List Byte} {a : Ctx × Frame} (h : releaseCheck s p ops = .ok a) :
    (s.ctx a.1).owner = some p ∧ (s.ctx a.1).state = .live ∧ (s.frame a.2).state = .held ∧
      originOf (s.frame a.2).holders = some a.1 ∧ (s.frame a.2).holders.tail = [] := by
  unfold releaseCheck at h
  split at h
  · obtain ⟨⟨howner, hlive⟩, h⟩ := acting_of_ok h
    obtain ⟨hheld, h⟩ := passed_of_ok h
    obtain ⟨-, h⟩ := passed_of_ok h
    obtain ⟨horigin, h⟩ := passed_of_ok h
    obtain ⟨hshared, h⟩ := passed_of_ok h
    cases h
    exact ⟨howner, hlive, not_not.mp hheld, not_not.mp horigin, by simpa using hshared⟩
  · cases h

namespace Moves

theorem claimFrames {s : State} {c : Ctx} {n : Nat} (room : n ≤ headroom (s.ctx c)) : Moves s (claimFrames s c n) := by
  unfold Machine.claimFrames
  refine Relation.ReflTransGen.trans (.single (.claimed c n)) (modCtx ⟨rfl, rfl, rfl, fun h => ?_⟩)
  have kept (fs : List Frame) (u : State) :
      (fs.foldl (fun s f => Machine.modFrame s f (claimedFrame c)) u).ctx c = u.ctx c :=
    foldl_keeps (P := fun v => v.ctx c = u.ctx c) (g := fun s f => Machine.modFrame s f (claimedFrame c))
      (fun v f hv => hv) fs rfl
  rw [kept] at h ⊢
  unfold headroom at room
  show (s.ctx c).charged + n ≤ (s.ctx c).quota
  exact (Nat.le_sub_iff_add_le' h).1 room

theorem acceptRelease {s : State} {f : Frame} (held : (s.frame f).state = .held) (p : Port) (t : Tag) (c : Ctx) :
    Moves s (acceptRelease s p t c f) := by
  have givenUp : Moves s (Machine.giveUp (Machine.activate s p t) f c) :=
    (activate s p t).trans (giveUp (s := Machine.activate s p t) held c)
  exact ((givenUp.trans (cancelOffersOn _ _)).trans (startWithdrawal _ _ _ _)).trans (settle _)

theorem announceQuota (s : State) (p : Port) (a b : Ctx) (n : Nat) : Moves s (announceQuota s p a b n) := by
  rw [announceQuota_eq]
  split_ifs
  · exact .refl
  · exact addressOwner _ _ _

theorem bindTo {s : State} {p : Port} {q : ControlSlot} (held : q ∈ (s.port p).slots) (waiting : q.standing = .waiting)
    (t : Tag) (c : Ctx) : Moves s (bindTo s p t c) := by
  have bound (d : Ctx) (b : Binding) : PortMove p (s.port p) { s.port p with bound := d, binding := b } :=
    .bound d b (.inr (.inr ⟨q, held, waiting⟩))
  unfold Machine.bindTo
  split_ifs
  · exact respond _ _ _ _ _
  · exact Relation.ReflTransGen.trans (modPort (bound c (s.port p).binding)) (respond _ _ _ _ _)
  · have switched : Machine.modPort (Machine.activate s p t) p (fun x => { x with binding := .switching c t }) =
        Machine.activate (s.setPort p { s.port p with binding := .switching c t }) p t :=
      (modPort_modPort s p _ _).trans
        (modPort_modPort s p (fun x => { x with binding := .switching c t }) (PortRec.carriedOn · t)).symm
    rw [switched]
    exact (port (bound (s.port p).bound (.switching c t))).trans (activate _ _ _)

end Moves

/-! ## Port reset -/

/-- Waiting accesses are answered once each, in whatever order the lanes merge (R119, R164). -/
theorem mergeLanes_perm (n k : Nat) (xs ys : List AccessRequest) (room : xs.length + ys.length ≤ n) :
    (mergeLanes n k xs ys).Perm (xs ++ ys) := by
  induction n generalizing k xs ys with
  | zero =>
    obtain ⟨rfl, rfl⟩ : xs = [] ∧ ys = [] := by simpa using room
    exact .refl _
  | succ n ih =>
    match xs, ys with
    | [], ys => exact .refl _
    | x :: xs, [] => simp [mergeLanes]
    | x :: xs, y :: ys =>
      simp only [List.length_cons] at room
      unfold mergeLanes
      split_ifs
      · exact (ih _ xs (y :: ys) (by simp only [List.length_cons]; omega)).cons x
      · refine ((ih _ (x :: xs) ys (by simp only [List.length_cons]; omega)).cons y).trans ?_
        exact List.perm_middle.symm

/-- The accesses waiting at the lanes leave them with OFFLINE; the count of choices may advance (R120, R164). -/
theorem offlineLanes_eq (s : State) (p : Port) : ∃ l k,
    l.Perm (((s.port p).plainLane ++ (s.port p).elevatedLane).map fun a => (⟨a.tag, .offline⟩ : AccessResponse)) ∧
    offlineLanes s p =
      { s.setPort p { s.port p with
          plainLane := []
          elevatedLane := []
          lastLane := .plain
          accessResponses := (s.port p).accessResponses ++ l } with choices := k } := by
  refine ⟨_, (offlineLanes s p).choices,
    (mergeLanes_perm _ s.choices (s.port p).plainLane (s.port p).elevatedLane le_rfl).map _, ?_⟩
  unfold offlineLanes
  dsimp only
  split_ifs
  · rfl
  · rfl

/-- What the start of a port teardown does to the port's record, then to its loads (R164, R165). -/
theorem startPortTeardown_eq (s : State) (p : Port) : ∃ l k,
    l.Perm (((s.port p).plainLane ++ (s.port p).elevatedLane).map fun a => (⟨a.tag, .offline⟩ : AccessResponse)) ∧
    startPortTeardown s p = endLoadsOfPort
      { s.setPort p { s.port p with
          state := .teardown .loads
          notices := []
          dropped := 0
          arriving := []
          bound := homeOf p
          binding := .settled
          plainLane := []
          elevatedLane := []
          lastLane := .plain
          accessResponses := (s.port p).accessResponses ++ l
          slots := (s.port p).slots.filterMap discardSlot } with choices := k } p := by
  generalize hs : s.setPort p { s.port p with
    state := .teardown .loads, notices := [], dropped := 0, arriving := [], bound := homeOf p, binding := .settled } = s1
  have record : s1.port p = { s.port p with
      state := .teardown .loads, notices := [], dropped := 0, arriving := [], bound := homeOf p, binding := .settled } := by
    rw [← hs, State.port_setPort, if_pos rfl]
  obtain ⟨l, k, perm, cleared⟩ := offlineLanes_eq s1 p
  refine ⟨l, k, by rwa [record] at perm, ?_⟩
  have unfolded : startPortTeardown s p =
      endLoadsOfPort (modPort (offlineLanes s1 p) p fun x => { x with slots := x.slots.filterMap discardSlot }) p := by
    rw [← hs]
    rfl
  rw [unfolded, cleared, record]
  congr 1
  unfold modPort State.setPort
  simp only [State.port, vector_get_set, if_true, Vector.set_set]
  rw [← hs]
  simp only [State.setPort, Vector.set_set]

namespace Moves

theorem startPortTeardown (s : State) (p : Port) : Moves s (startPortTeardown s p) := by
  obtain ⟨l, k, -, h⟩ := startPortTeardown_eq s p
  rw [h]
  have cut := port (s := s) (.cut (p := p) l)
  exact (cut.trans tables).trans (endLoadsWhere _ _ _)

end Moves

end Sys2Proof.Machine
end

section
/-! SUPPORT. The inversion of `exec`: device reset and a scrub's success apart, every command is a chain of changes. -/

namespace Sys2Proof.Machine

open Sys2Proof

/-- Command `c` brings the completion of the last write of the scrub of frame `f` (R112). -/
def ScrubSucceeds (c : Instr) (s : State) (f : Frame) : Prop :=
  (∃ k age, Config.scrubWrites ≤ k + 1 ∧ s.scrub = .outstanding f k age) ∧
    (c = .scrubCompletionOk s.writeGen ∨ ∃ i d, c = .staleCompletion 4 i s.writeGen .ok d)

/-- The frame of a scrub that succeeds is FREE, last on the free list, with its mark clear; the engine takes its next (R112). -/
def scrubbed (s : State) (f : Frame) : State :=
  scrubNext (modFrame { s with scrubQueue := s.scrubQueue.erase f, freeList := s.freeList ++ [f] } f
    fun x => { x with state := .free, errorMark := false })

theorem scrubAdvance_eq (s : State) (f : Frame) (k : Nat) :
    scrubAdvance s f k = if k + 1 < Config.scrubWrites then { s with scrub := .ready f (k + 1) } else scrubbed s f := rfl

namespace Moves

/-- A scrub write that completes OK and is not the last (R112). -/
theorem scrubAdvance {s : State} {f : Frame} {k age : Nat} (h : s.scrub = .outstanding f k age)
    (more : k + 1 < Config.scrubWrites) : Moves s (scrubAdvance s f k) := by
  rw [scrubAdvance_eq, if_pos more]
  exact engine (x := .ready f (k + 1)) (by rw [h]; exact .advanced f k age more) s.writeGen

end Moves

/-- A scrub completion is a chain of changes, or the scrub's success. -/
theorem moves_of_scrubMatching {c : Instr} {s : State} {gen : Byte} {x : Frame × Nat} (h : scrubMatching s gen = some x)
    (command : c = .scrubCompletionOk gen ∨ ∃ i d, c = .staleCompletion 4 i gen .ok d) :
    Moves s (scrubAdvance s x.1 x.2) ∨ ∃ f, ScrubSucceeds c s f ∧ scrubAdvance s x.1 x.2 = scrubbed s f := by
  obtain ⟨rfl, age, hscrub⟩ := Moves.of_scrubMatching h
  by_cases more : x.2 + 1 < Config.scrubWrites
  · exact .inl (Moves.scrubAdvance hscrub more)
  · refine .inr ⟨x.1, ⟨⟨x.2, age, not_lt.mp more, hscrub⟩, command⟩, ?_⟩
    rw [scrubAdvance_eq, if_neg more]

/-- A completion taken by its identifier (R129). -/
theorem moves_of_completionEffect {s t : State} {who : BitVec 3} {i : Slot} {gen : Byte} {status : Status} {d : List Byte}
    (h : completionEffect s who i gen status d = some t) :
    Moves s t ∨ ∃ f, ScrubSucceeds (.staleCompletion who i gen status d) s f ∧ t = scrubbed s f := by
  unfold completionEffect at h
  split_ifs at h with port scrub load matches'
  · obtain ⟨e, found, rfl⟩ := Option.map_eq_some_iff.1 h
    obtain ⟨held, age, phase⟩ := Moves.of_matching found
    cases status with
    | ok => exact .inl (Moves.completeEntry held phase d)
    | error => exact .inl (Moves.failEntry held phase _)
  · obtain ⟨x, found, rfl⟩ := Option.map_eq_some_iff.1 h
    cases status with
    | ok => exact moves_of_scrubMatching found (.inr ⟨i, d, by rw [scrub]⟩)
    | error =>
      obtain ⟨-, age, hscrub⟩ := Moves.of_scrubMatching found
      exact .inl (Moves.scrubFail hscrub)
  · cases status with
    | ok =>
      cases h
      exact .inl ((Moves.finishRead _ _).trans (Moves.settle _))
    | error =>
      cases h
      exact .inl ((Moves.failRead _).trans (Moves.settle _))

/-- A WAITING request stands in a slot of its port. -/
theorem of_waitingRequest {s : State} {p : Port} {t : Tag} {k : RequestKind} {q : ControlSlot}
    (h : waitingRequest s p t k = some q) :
    slotOf (s.port p) t = some q ∧ q ∈ (s.port p).slots ∧ q.kind = k ∧ q.standing = .waiting := by
  unfold waitingRequest at h
  split at h
  · cases h
  · rename_i q' found
    split_ifs at h with hq
    cases h
    exact ⟨found, List.mem_of_find?_eq_some found, hq⟩

/-- What passes admission finds a FREE slot and a tag of its own (R172). -/
theorem of_admission {s : State} {p : Port} {m : ControlMessage} {k : RequestKind} (h : admission s p m = .ok k) :
    (s.port p).slots.length < Config.controlSlots ∧ slotOf (s.port p) (messageTag m) = none := by
  unfold admission at h
  split at h
  · cases h
  · split_ifs at h with full tag
    exact ⟨not_le.mp full, by simpa using tag⟩

/-- Every request is taken by a chain of changes. -/
theorem moves_of_commandOf {k : RequestKind} {p : Port} {tag : Tag} {s t : State}
    (h : exec (commandOf k p tag) s = .next t) : Moves s t := by
  have answered {u : State} (v : Verdict) (rs : List Byte) (hu : Moves s u) : Moves s (respond u p tag v rs) :=
    hu.trans (Moves.respond _ _ _ _ _)
  cases k with
  | claim =>
    exact Moves.of_takeRequest (fun q => Moves.serveChecked fun a ok =>
      answered _ _ (Moves.claimFrames (of_claimCheck ok).2.1)) h
  | release =>
    exact Moves.of_takeRequest (fun q => Moves.serveChecked fun a ok =>
      Moves.acceptRelease (of_releaseCheck ok).2.2.1 _ _ _) h
  | frameInfo => exact Moves.of_takeRequest (fun q => Moves.respond _ _ _ _ _) h
  | deviceInfo => exact Moves.of_takeRequest (fun q => Moves.respond _ _ _ _ _) h
  | create =>
    exact Moves.of_takeRequest (fun q => Moves.serveChecked fun c ok =>
      answered _ _ (.single (.created c p _ (of_createCheck ok).2 (of_createCheck ok).1))) h
  | destroy =>
    refine Moves.of_takeRequest (fun q => Moves.serveChecked fun c ok => ?_) h
    obtain ⟨pool, -, live, -⟩ := of_destroyCheck ok
    exact (Moves.activate s p tag).trans (Moves.startPooledTeardown (s := activate s p tag) pool live _)
  | cede =>
    refine Moves.of_takeRequest (fun q => Moves.serveChecked fun x ok => ?_) h
    obtain ⟨other, source, target, room⟩ := of_cedeCheck ok
    exact answered _ _ ((Relation.ReflTransGen.single (.ceded x.1 x.2.1 x.2.2 other target room source)).trans
      (Moves.announceQuota _ _ _ _ _))
  | contextInfo => exact Moves.of_takeRequest (fun q => Moves.respond _ _ _ _ _) h
  | bind =>
    refine Moves.of_takeRequest_waiting (k := .bind) (fun q hq => Moves.serveChecked fun c _ => ?_) h
    obtain ⟨-, held, -, waiting⟩ := of_waitingRequest hq
    exact Moves.bindTo held waiting _ _
  | mapSet =>
    exact Moves.of_takeRequest (fun q => Moves.serveChecked fun x _ => answered _ _ (Moves.makeEntry _ _ _ _)) h
  | mapClear =>
    exact Moves.of_takeRequest (fun q => Moves.serveChecked fun x _ => answered _ _ (Moves.clearEntry _ _ _)) h
  | probe => exact Moves.of_takeRequest (fun q => Moves.serveChecked fun x _ => Moves.respond _ _ _ _ _) h
  | mapLoad => exact Moves.of_takeRequest (fun q => Moves.serveChecked fun r _ => Moves.acceptLoad _ _ _ _) h
  | loadCancel =>
    exact Moves.of_takeRequest (fun q => Moves.serveChecked fun u _ =>
      (answered _ _ .refl).trans ((Moves.cancelLoad _ _ _).trans (Moves.settle _))) h
  | offer =>
    exact Moves.of_takeRequest (fun q => Moves.serveChecked fun x _ => answered _ _ (Moves.createOffer _ _ _)) h
  | accept =>
    exact Moves.of_takeRequest (fun q => Moves.serveChecked fun x _ =>
      answered _ _ ((Moves.endOffer _ _ _ _).trans (Moves.appendHolder _ _ _ _))) h
  | decline =>
    exact Moves.of_takeRequest (fun q => Moves.serveChecked fun x _ => answered _ _ (Moves.endOffer _ _ _ _)) h
  | retract =>
    exact Moves.of_takeRequest (fun q => Moves.serveChecked fun x _ => answered _ _ (Moves.endOffer _ _ _ _)) h
  | leave =>
    exact Moves.of_takeRequest (fun q => Moves.serveChecked fun x _ =>
      ((Moves.activate _ _ _).trans (Moves.withdrawHolder _ _ _ _)).trans (Moves.settle _)) h
  | revoke =>
    exact Moves.of_takeRequest (fun q => Moves.serveChecked fun x _ =>
      ((Moves.activate _ _ _).trans (Moves.withdrawHolder _ _ _ _)).trans (Moves.settle _)) h
  | fetchNotices =>
    exact Moves.of_takeRequest (fun q => Moves.serveChecked fun n _ => answered _ _ (Moves.modPort (.fetched n))) h

/-- What every command does: an edge of RST_N apart, a chain of changes, or the success of a scrub. -/
theorem moves_of_exec {c : Instr} {s t : State} (h : exec c s = .next t) :
    Moves s t ∨ c = .rstNAssert ∨ (∃ part, c = .rstNRelease part) ∨ ∃ f, ScrubSucceeds c s f ∧ t = scrubbed s f := by
  cases c with
  | rstNAssert => exact .inr (.inl rfl)
  | rstNRelease part => exact .inr (.inr (.inl ⟨part, rfl⟩))
  | prstNAssert p =>
    have first : Moves s (modPort s p fun x => { x with prst := true }) := Moves.modPort (.line true _ (.inl rfl))
    exact .inl (Moves.of_next (.ite (fun _ => .refl) fun _ =>
      .ite (fun _ => (first.trans (Moves.startPortTeardown _ _)).trans (Moves.settle _)) fun _ => first) h)
  | prstNDeassert p =>
    refine .inl (Moves.of_next (Moves.modPort (.line false _ ?_)) h)
    split_ifs
    · exact .inr rfl
    · exact .inl rfl
  | portTeardownLoadsEnd p =>
    refine .inl (Moves.of_next (.ite (fun due => ?_) fun _ => .refl) h)
    exact (Moves.enterContext (by rw [due.1]; nofun)).trans (Moves.settle _)
  | portTeardownNextContext p =>
    change execPortTeardownNextContext p s = _ at h
    unfold execPortTeardownNextContext at h
    split at h
    · rename_i c phase
      refine .inl (Moves.of_next (.ite (fun due => ?_) fun _ => .refl) h)
      exact (Moves.enterContext (by rw [phase]; nofun)).trans (Moves.settle _)
    · exact .inl (Moves.of_next .refl h)
  | portTeardownEnd p =>
    refine .inl (Moves.of_next (.ite (fun due => ?_) fun _ => .refl) h)
    exact (Moves.endPortTeardown (by rw [due.1]; nofun)).trans (Moves.settle _)
  | controlRequestArrival p m =>
    refine .inl (Moves.of_next (.ite (fun up => ?_) fun _ => Moves.sendControl _ _ _) h)
    split
    · exact Moves.sendControl _ _ _
    · rename_i k ok
      obtain ⟨room, tag⟩ := of_admission ok
      exact Moves.modPort (.admitted _ ((portUp_iff s p).1 up) room tag)
  | claim p tag => exact .inl (moves_of_commandOf (k := .claim) h)
  | release p tag => exact .inl (moves_of_commandOf (k := .release) h)
  | frameInfo p tag => exact .inl (moves_of_commandOf (k := .frameInfo) h)
  | deviceInfo p tag => exact .inl (moves_of_commandOf (k := .deviceInfo) h)
  | create p tag => exact .inl (moves_of_commandOf (k := .create) h)
  | destroy p tag => exact .inl (moves_of_commandOf (k := .destroy) h)
  | cede p tag => exact .inl (moves_of_commandOf (k := .cede) h)
  | contextInfo p tag => exact .inl (moves_of_commandOf (k := .contextInfo) h)
  | bind p tag => exact .inl (moves_of_commandOf (k := .bind) h)
  | mapSet p tag => exact .inl (moves_of_commandOf (k := .mapSet) h)
  | mapClear p tag => exact .inl (moves_of_commandOf (k := .mapClear) h)
  | probe p tag => exact .inl (moves_of_commandOf (k := .probe) h)
  | mapLoad p tag => exact .inl (moves_of_commandOf (k := .mapLoad) h)
  | loadCancel p tag => exact .inl (moves_of_commandOf (k := .loadCancel) h)
  | offer p tag => exact .inl (moves_of_commandOf (k := .offer) h)
  | accept p tag => exact .inl (moves_of_commandOf (k := .accept) h)
  | decline p tag => exact .inl (moves_of_commandOf (k := .decline) h)
  | retract p tag => exact .inl (moves_of_commandOf (k := .retract) h)
  | leave p tag => exact .inl (moves_of_commandOf (k := .leave) h)
  | revoke p tag => exact .inl (moves_of_commandOf (k := .revoke) h)
  | fetchNotices p tag => exact .inl (moves_of_commandOf (k := .fetchNotices) h)
  | withdrawalEnd c f =>
    change execWithdrawalEnd c f s = _ at h
    unfold execWithdrawalEnd at h
    split at h
    · exact .inl (Moves.of_next .refl h)
    · exact .inl (Moves.of_next ((Moves.endWithdrawal _ _).trans (Moves.settle _)) h)
  | teardownOfferCancel c =>
    change execTeardownOfferCancel c s = _ at h
    unfold execTeardownOfferCancel at h
    split at h
    · exact .inl (Moves.of_next ((Moves.cancelThenEndLoads _ _ _).trans (Moves.settle _)) h)
    · exact .inl (Moves.of_next .refl h)
  | teardownFrameTurn c =>
    exact .inl (Moves.of_next (.ite (fun _ => (Moves.takeTurn _ _).trans (Moves.settle _)) fun _ => .refl) h)
  | accessArrival p a =>
    refine .inl (Moves.of_next (.ite (fun up => ?_) fun _ => Moves.sendAccess _ _ _) h)
    exact (Moves.pushLane ((portUp_iff s p).1 up) a).trans (Moves.acceptOne _ _)
  | accessTranslation p => exact .inl (Moves.of_next (Moves.acceptOne _ _) h)
  | memoryPortGrant =>
    change execMemoryPortGrant s = _ at h
    unfold execMemoryPortGrant at h
    split at h
    · exact .inl (Moves.of_next .refl h)
    · exact .inl (Moves.of_next (Moves.grant _ _) h)
  | transitCompletionOk p i gen d =>
    change execTransitCompletionOk p i gen d s = _ at h
    unfold execTransitCompletionOk at h
    split at h
    · exact .inl (Moves.of_next .refl h)
    · rename_i e found
      obtain ⟨held, age, phase⟩ := Moves.of_matching found
      exact .inl (Moves.of_next (Moves.completeEntry held phase d) h)
  | transitCompletionError p i gen =>
    change execTransitCompletionError p i gen s = _ at h
    unfold execTransitCompletionError at h
    split at h
    · exact .inl (Moves.of_next .refl h)
    · rename_i e found
      obtain ⟨held, age, phase⟩ := Moves.of_matching found
      exact .inl (Moves.of_next (Moves.failEntry held phase _) h)
  | staleCompletion who i gen status d =>
    change execStaleCompletion who i gen status d s = _ at h
    unfold execStaleCompletion at h
    split at h
    · exact .inl (Moves.of_next .refl h)
    · rename_i u effect
      obtain rfl : u = t := by injection h
      exact (moves_of_completionEffect effect).imp_right fun success => .inr (.inr success)
  | transitTimeout p i =>
    change execTransitTimeout p i s = _ at h
    unfold execTransitTimeout at h
    split at h
    · exact .inl (Moves.of_next .refl h)
    · rename_i e late
      obtain ⟨held, age, phase, -⟩ := Moves.of_timedOut late
      exact .inl (Moves.of_next (Moves.failEntry held phase _) h)
  | switchCompletion p =>
    exact .inl (Moves.of_next
      (.ite (fun _ => (Moves.completeSwitch _ _).trans (Moves.acceptOne _ _)) fun _ => .refl) h)
  | scrubCompletionOk gen =>
    change execScrubCompletionOk gen s = _ at h
    unfold execScrubCompletionOk at h
    split at h
    · exact .inl (Moves.of_next .refl h)
    · rename_i x found
      obtain rfl : scrubAdvance s x.1 x.2 = t := by injection h
      exact (moves_of_scrubMatching found (.inl rfl)).imp_right fun success => .inr (.inr success)
  | scrubCompletionError gen =>
    change execScrubCompletionError gen s = _ at h
    unfold execScrubCompletionError at h
    split at h
    · exact .inl (Moves.of_next .refl h)
    · rename_i x found
      obtain ⟨-, age, hscrub⟩ := Moves.of_scrubMatching found
      exact .inl (Moves.of_next (Moves.scrubFail hscrub) h)
  | scrubWriteTimeout =>
    change execScrubWriteTimeout s = _ at h
    unfold execScrubWriteTimeout at h
    split at h
    · exact .inl (Moves.of_next .refl h)
    · rename_i f late
      obtain ⟨k, age, hscrub, -⟩ := Moves.of_scrubTimedOut late
      exact .inl (Moves.of_next (Moves.scrubFail hscrub) h)
  | loadReadCompletion gen d =>
    exact .inl (Moves.of_next (.ite (fun _ => (Moves.finishRead _ _).trans (Moves.settle _)) fun _ => .refl) h)
  | loadReadError gen =>
    exact .inl (Moves.of_next (.ite (fun _ => (Moves.failRead _).trans (Moves.settle _)) fun _ => .refl) h)
  | loadReadTimeout =>
    exact .inl (Moves.of_next (.ite (fun _ => (Moves.failRead _).trans (Moves.settle _)) fun _ => .refl) h)
  | microsecondTick =>
    have counted : Moves s { s with usTicks := s.usTicks + 1 } := Moves.tables
    exact .inl (Moves.of_next
      (.ite (fun _ => .refl) fun _ => (counted.trans (Moves.raiseAges _)).trans (Moves.takeLateFor _ _)) h)
  | millisecondTick =>
    have counted : Moves s (lowerLifetimes { s with msTicks := s.msTicks + 1 }) := Moves.tables
    exact .inl (Moves.of_next (.ite (fun _ => .refl) fun _ => counted.trans (Moves.expireDue _)) h)
  | offerExpiry i => exact .inl (Moves.of_next (.ite (fun _ => Moves.expireOffer _ _) fun _ => .refl) h)

end Sys2Proof.Machine
end

section
/-! PROOFS. What the part has sent stays sent; RETIRED frames and error marks. -/

namespace Sys2Proof.Machine

open Sys2Proof

/-! ## What has been sent (entry 5) -/

/-- A port's streams in `r'` go on from those in `r`. -/
structure StreamsGrow (r r' : PortRec) : Prop where
  access : r.accessResponses <+: r'.accessResponses
  control : r.controlResponses <+: r'.controlResponses

/-- All that was sent in `s` stands sent in `t`. -/
structure OutputsGrow (s t : State) : Prop where
  requests : s.memoryRequests <+: t.memoryRequests
  streams : ∀ p, StreamsGrow (s.port p) (t.port p)

theorem StreamsGrow.refl (r : PortRec) : StreamsGrow r r := ⟨List.prefix_rfl, List.prefix_rfl⟩

/-- A port whose two streams are kept. -/
theorem StreamsGrow.of_eq {r r' : PortRec} (access : r'.accessResponses = r.accessResponses)
    (control : r'.controlResponses = r.controlResponses) : StreamsGrow r r' :=
  ⟨access ▸ List.prefix_rfl, control ▸ List.prefix_rfl⟩

theorem StreamsGrow.responded (r : PortRec) (t : Tag) (v : Verdict) (rs : List Byte) : StreamsGrow r (r.responded t v rs) := by
  unfold PortRec.responded
  split
  · exact .refl r
  · dsimp only
    split_ifs
    · exact .of_eq rfl rfl
    · exact ⟨List.prefix_rfl, List.prefix_append _ _⟩

theorem PortMove.streams {p : Port} {r r' : PortRec} (h : PortMove p r r') : StreamsGrow r r' := by
  cases h with
  | stay => exact .refl r
  | sent access control => exact ⟨List.prefix_append _ _, List.prefix_append _ _⟩
  | responded t v rs => exact .responded r t v rs
  | noticed n => rw [noticed_eq]; exact .of_eq rfl rfl
  | notified n => rw [notified_eq]; exact .of_eq rfl rfl
  | placed => rw [placed_eq]; exact .of_eq rfl rfl
  | cut offline => exact ⟨List.prefix_append _ _, List.prefix_rfl⟩
  | _ => exact .of_eq rfl rfl

theorem OutputsGrow.refl (s : State) : OutputsGrow s s := ⟨List.prefix_rfl, fun p => .refl (s.port p)⟩

theorem OutputsGrow.trans {s t u : State} (h : OutputsGrow s t) (k : OutputsGrow t u) : OutputsGrow s u :=
  ⟨h.requests.trans k.requests, fun p =>
    ⟨(h.streams p).access.trans (k.streams p).access, (h.streams p).control.trans (k.streams p).control⟩⟩

/-- A change that writes neither the ports nor the requests. -/
theorem OutputsGrow.of_eq {s t : State} (ports : t.ports = s.ports) (requests : t.memoryRequests = s.memoryRequests) :
    OutputsGrow s t := by
  refine ⟨requests ▸ List.prefix_rfl, fun p => ?_⟩
  unfold State.port
  rw [ports]
  exact .refl _

theorem ports_claimed (c : Ctx) (fs : List Frame) (u : State) :
    (fs.foldl (fun s f => modFrame s f (claimedFrame c)) u).ports = u.ports ∧
      (fs.foldl (fun s f => modFrame s f (claimedFrame c)) u).memoryRequests = u.memoryRequests :=
  foldl_keeps (P := fun v : State => v.ports = u.ports ∧ v.memoryRequests = u.memoryRequests)
    (g := fun s f => modFrame s f (claimedFrame c)) (fun _ _ h => h) fs ⟨rfl, rfl⟩

theorem Move.outputs {s t : State} (h : Move s t) : OutputsGrow s t := by
  cases h with
  | ports ps each => exact ⟨List.prefix_rfl, fun p => (each p).streams⟩
  | claimed c n => exact .of_eq (ports_claimed c _ _).1 (ports_claimed c _ _).2
  | reclaimed f => rw [reclaimExit_frame]; exact .of_eq rfl rfl
  | left c pool => cases (s.ctx c).owner <;> exact .of_eq rfl rfl
  | tables => exact ⟨List.prefix_append _ _, fun p => .refl _⟩
  | _ => exact .of_eq rfl rfl

theorem Moves.outputs {s t : State} (h : Moves s t) : OutputsGrow s t := by
  induction h with
  | refl => exact .refl s
  | tail _ last ih => exact ih.trans last.outputs

/-! ### Device reset -/

/-- A port after device reset keeps its line's level and its streams (R152, R169). -/
theorem port_resetBlocks (s : State) (asserted : Bool) (part : BitVec 2) (st : PortState) (x : ScrubState) (p : Port) :
    (resetBlocks s asserted part st x).port p =
      PortRec.reset st p (s.port p).prst (s.port p).accessResponses (s.port p).controlResponses := by
  show (resetPorts s st).get p = _
  simp [resetPorts, Vector.get_eq_getElem]

theorem outputs_resetBlocks (s : State) (asserted : Bool) (part : BitVec 2) (st : PortState) (x : ScrubState) :
    OutputsGrow s (resetBlocks s asserted part st x) :=
  ⟨List.prefix_rfl, fun p => by rw [port_resetBlocks]; exact .of_eq rfl rfl⟩

theorem outputs_offlineLanes (s : State) (p : Port) : OutputsGrow s (offlineLanes s p) := by
  obtain ⟨l, k, -, h⟩ := offlineLanes_eq s p
  rw [h]
  refine ⟨List.prefix_rfl, fun q => ?_⟩
  show StreamsGrow (s.port q) ((s.setPort p _).port q)
  rw [State.port_setPort]
  split_ifs with hq
  · rw [hq]
    exact ⟨List.prefix_append _ _, List.prefix_rfl⟩
  · exact .refl _

theorem outputs_assertReset (s : State) : OutputsGrow s (assertReset s) :=
  (foldl_keeps (P := OutputsGrow s) (fun u p hu => hu.trans (outputs_offlineLanes u p)) _ (.refl s)).trans
    (outputs_resetBlocks _ _ _ _ _)

theorem Moves.resetPortAsserted (s : State) (p : Port) : Moves s (resetPortAsserted s p) := by
  unfold Machine.resetPortAsserted
  exact .ite (fun _ => startPortTeardown s p) fun _ => .refl

/-- From the reset contents on, the release of RST_N is a chain of changes. -/
theorem Moves.releaseReset (s : State) (part : BitVec 2) :
    Moves (resetBlocks s false part .up (.ready 0 0)) (releaseReset s part) :=
  (foldl (fun u p => resetPortAsserted u p) _ _).trans (settle _)

theorem outputs_exec {c : Instr} {s t : State} (h : exec c s = .next t) : OutputsGrow s t := by
  rcases moves_of_exec h with moves | rfl | ⟨part, rfl⟩ | ⟨f, -, rfl⟩
  · exact moves.outputs
  · obtain rfl : (if s.rstAsserted then s else assertReset s) = t := by injection h
    split_ifs
    · exact .refl s
    · exact outputs_assertReset s
  · obtain rfl : (if s.rstAsserted then releaseReset s part else s) = t := by injection h
    split_ifs
    · exact (outputs_resetBlocks _ _ _ _ _).trans (Moves.releaseReset s part).outputs
    · exact .refl s
  · exact .of_eq rfl rfl

/-- A step is the idle step or the command at the front of the queue. -/
theorem of_step {s t : State} (h : step s = .next t) :
    t = s ∨ ∃ c rest, s.pending = c :: rest ∧ exec c { s with pending := rest } = .next t := by
  unfold step at h
  split at h
  · injection h with h
    exact .inl h.symm
  · rename_i c rest queued
    exact .inr ⟨c, rest, queued, h⟩

/-- Settles O2: each kind of change only appends to what is sent, and so do the two edges of RST_N. -/
theorem outputsOnlyGrow : Obligations.OutputsOnlyGrow := by
  intro s t h
  have grow : OutputsGrow s t := by
    rcases of_step h with rfl | ⟨c, rest, -, run⟩
    · exact .refl t
    · have queue : OutputsGrow s { s with pending := rest } := .of_eq rfl rfl
      exact queue.trans (outputs_exec run)
  exact ⟨grow.requests, fun p => ⟨(grow.streams p).access, (grow.streams p).control⟩⟩

end Sys2Proof.Machine
end

section
/-! PROOFS. The law of the frame lists (R4, R110): outside device reset each kind of change keeps it, and within device reset
nothing but a pin's level and what is sent can change. -/

namespace Sys2Proof.Machine

open Sys2Proof

/-! ## The reclaim exit (R106, R108, R110) -/

/-- The reclaim exit by the frame's state and mark: to RETIRED, or to SCRUB and the tail of the scrub queue, from which an IDLE
engine takes the head. -/
theorem reclaimExit_eq (s : State) (f : Frame) :
    reclaimExit s f =
      if (s.frame f).state ≠ .reclaim then s
      else if (s.frame f).errorMark = true then { s with frames := s.frames.set f { s.frame f with state := .retired } }
      else
        { s with
          frames := s.frames.set f { s.frame f with state := .scrub }
          scrubQueue := s.scrubQueue ++ [f]
          scrub := if s.scrub = .idle then .ready ((s.scrubQueue ++ [f]).headD f) 0 else s.scrub } := by
  unfold reclaimExit
  refine ite_congr rfl (fun _ => rfl) fun _ => ite_congr rfl (fun _ => rfl) fun _ => ?_
  unfold enqueueScrub scrubNext
  rw [modFrame_eq]
  dsimp only
  split_ifs with idle
  · cases s.scrubQueue <;> rfl
  · rfl

/-! ## The lists outside device reset -/

/-- Outside device reset the scrub engine is on the queue's head, with progress below 32, and IDLE exactly when the queue is
empty (R110). -/
def EngineOn (x : ScrubState) (queue : List Frame) : Prop :=
  match x with
  | .idle => queue = []
  | .ready f k => queue.head? = some f ∧ k < Config.scrubWrites
  | .outstanding f k _ => queue.head? = some f ∧ k < Config.scrubWrites

/-- A frame that joins the queue leaves a running engine on its frame, and is taken by an IDLE one (R110). -/
theorem EngineOn.append {x : ScrubState} {queue : List Frame} (h : EngineOn x queue) (f : Frame) :
    EngineOn (if x = .idle then .ready ((queue ++ [f]).headD f) 0 else x) (queue ++ [f]) := by
  cases x with
  | idle =>
    obtain rfl : queue = [] := h
    exact ⟨rfl, by decide⟩
  | ready g k =>
    rw [if_neg nofun]
    exact ⟨by rw [List.head?_append, h.1]; rfl, h.2⟩
  | outstanding g k age =>
    rw [if_neg nofun]
    exact ⟨by rw [List.head?_append, h.1]; rfl, h.2⟩

/-- The law of the frame lists where RST_N is not asserted. -/
structure ListsLaw (s : State) : Prop where
  freeNodup : s.freeList.Nodup
  free : ∀ f, f ∈ s.freeList ↔ (s.frame f).state = .free
  scrubNodup : s.scrubQueue.Nodup
  scrub : ∀ f, f ∈ s.scrubQueue ↔ (s.frame f).state = .scrub
  engine : EngineOn s.scrub s.scrubQueue

theorem FrameLists.listsLaw {s : State} (h : FrameLists s) (released : s.rstAsserted = false) : ListsLaw s :=
  ⟨h.freeNodup, h.free, h.scrubNodup, h.scrub, h.engine released⟩

theorem ListsLaw.frameLists {s : State} (h : ListsLaw s) (released : s.rstAsserted = false) : FrameLists s :=
  ⟨fun asserted => Bool.noConfusion (released.symm.trans asserted), h.freeNodup, h.free, h.scrubNodup, h.scrub,
    fun _ => h.engine⟩

namespace ListsLaw

/-- The law reads the frames' states, the two lists and the engine's state. -/
theorem of_eq {s t : State} (h : ListsLaw s) (states : ∀ f, (t.frame f).state = (s.frame f).state)
    (free : t.freeList = s.freeList) (queue : t.scrubQueue = s.scrubQueue) (engine : t.scrub = s.scrub) : ListsLaw t := by
  refine ⟨free ▸ h.freeNodup, fun f => ?_, queue ▸ h.scrubNodup, fun f => ?_, ?_⟩
  · rw [free, states]
    exact h.free f
  · rw [queue, states]
    exact h.scrub f
  · rw [engine, queue]
    exact h.engine

theorem engineMove {s : State} (h : ListsLaw s) {x : ScrubState} (kept : ScrubMove s.scrub x) (gen : Byte) :
    ListsLaw { s with scrub := x, writeGen := gen } := by
  refine ⟨h.freeNodup, h.free, h.scrubNodup, h.scrub, ?_⟩
  have engine := h.engine
  generalize s.scrub = y at engine kept
  cases kept with
  | stay => exact engine
  | issued f k => exact engine
  | advanced f k age more => exact ⟨engine.1, more⟩
  | aged f k age => exact engine

/-- Frames that leave the head of the free list for HELD. -/
theorem claimed {s : State} (h : ListsLaw s) (c : Ctx) (n : Nat) :
    ListsLaw ((s.freeList.take n).foldl (fun s f => modFrame s f (claimedFrame c))
      { s with freeList := s.freeList.drop n }) := by
  have kept (fs : List Frame) (u : State) :
      (fs.foldl (fun s f => modFrame s f (claimedFrame c)) u).freeList = u.freeList ∧
        (fs.foldl (fun s f => modFrame s f (claimedFrame c)) u).scrubQueue = u.scrubQueue ∧
        (fs.foldl (fun s f => modFrame s f (claimedFrame c)) u).scrub = u.scrub :=
    foldl_keeps (P := fun v : State => v.freeList = u.freeList ∧ v.scrubQueue = u.scrubQueue ∧ v.scrub = u.scrub)
      (g := fun s f => modFrame s f (claimedFrame c)) (fun _ _ h => h) fs ⟨rfl, rfl, rfl⟩
  obtain ⟨free, queue, engine⟩ := kept (s.freeList.take n) { s with freeList := s.freeList.drop n }
  have frames := frame_foldl_modFrame (claimedFrame_claimedFrame c) (s.freeList.take n)
    { s with freeList := s.freeList.drop n }
  generalize (s.freeList.take n).foldl _ { s with freeList := s.freeList.drop n } = t at *
  have disjoint : ∀ f ∈ s.freeList.take n, f ∉ s.freeList.drop n :=
    fun f taken => List.disjoint_take_drop h.freeNodup le_rfl taken
  have member (f : Frame) : f ∈ s.freeList ↔ f ∈ s.freeList.take n ∨ f ∈ s.freeList.drop n := by
    rw [← List.mem_append, List.take_append_drop]
  refine ⟨free ▸ h.freeNodup.sublist (List.drop_sublist _ _), fun f => ?_, queue ▸ h.scrubNodup, fun f => ?_, ?_⟩
  · rw [free, frames]
    split_ifs with taken
    · exact iff_of_false (disjoint f taken) (by simp [claimedFrame])
    · show f ∈ s.freeList.drop n ↔ (s.frame f).state = .free
      rw [← h.free f, member]
      exact (or_iff_right taken).symm
  · rw [queue, frames]
    split_ifs with taken
    · have : (s.frame f).state = .free := (h.free f).1 ((member f).2 (.inl taken))
      exact iff_of_false (fun queued => by rw [(h.scrub f).1 queued] at this; cases this) (by simp [claimedFrame])
    · exact h.scrub f
  · rw [engine, queue]
    exact h.engine

/-- A frame on neither list that goes to a state of neither. -/
theorem outside {s : State} (h : ListsLaw s) {f : Frame} {r : FrameRec}
    (before : (s.frame f).state ≠ .free ∧ (s.frame f).state ≠ .scrub) (after : r.state ≠ .free ∧ r.state ≠ .scrub) :
    ListsLaw (s.setFrame f r) := by
  refine ⟨h.freeNodup, fun k => ?_, h.scrubNodup, fun k => ?_, h.engine⟩
  · rw [State.frame_setFrame]
    split_ifs with hk
    · rw [hk]
      exact iff_of_false (fun listed => before.1 ((h.free f).1 listed)) after.1
    · exact h.free k
  · rw [State.frame_setFrame]
    split_ifs with hk
    · rw [hk]
      exact iff_of_false (fun queued => before.2 ((h.scrub f).1 queued)) after.2
    · exact h.scrub k

theorem reclaimed {s : State} (h : ListsLaw s) (f : Frame) : ListsLaw (reclaimExit s f) := by
  rw [reclaimExit_eq]
  by_cases reclaim : (s.frame f).state = .reclaim
  swap
  · rw [if_pos reclaim]
    exact h
  rw [if_neg (not_not.mpr reclaim)]
  have unlisted : (s.frame f).state ≠ .free ∧ (s.frame f).state ≠ .scrub := by rw [reclaim]; decide
  by_cases mark : (s.frame f).errorMark = true
  · rw [if_pos mark]
    exact h.outside unlisted ⟨nofun, nofun⟩
  rw [if_neg mark]
  refine ⟨h.freeNodup, fun k => ?free, ?nodup, fun k => ?queue, h.engine.append f⟩
  case free =>
    show k ∈ s.freeList ↔ ((s.setFrame f _).frame k).state = .free
    rw [State.frame_setFrame]
    split_ifs with hk
    · rw [hk]
      exact iff_of_false (fun listed => unlisted.1 ((h.free f).1 listed)) nofun
    · exact h.free k
  case nodup =>
    exact List.concat_eq_append ▸ h.scrubNodup.concat fun queued => unlisted.2 ((h.scrub f).1 queued)
  case queue =>
    show k ∈ s.scrubQueue ++ [f] ↔ ((s.setFrame f _).frame k).state = .scrub
    rw [State.frame_setFrame, List.mem_append, List.mem_singleton]
    split_ifs with hk
    · exact iff_of_true (.inr hk) rfl
    · rw [h.scrub k]
      exact or_iff_left hk

/-- The engine leaves its frame, the queue's head, for the new head. -/
theorem advanced {s : State} (h : ListsLaw s) {f : Frame}
    {r : FrameRec} (notQueued : r.state ≠ .scrub) {l : List Frame} (nodup : l.Nodup)
    (listed : ∀ g, g ∈ l ↔ if g = f then r.state = .free else g ∈ s.freeList) :
    ListsLaw (scrubNext ({ s with scrubQueue := s.scrubQueue.erase f, freeList := l }.setFrame f r)) := by
  refine ⟨nodup, fun g => ?_, h.scrubNodup.erase f, fun g => ?_, ?_⟩
  · show g ∈ l ↔ ((s.setFrame f r).frame g).state = .free
    rw [listed, State.frame_setFrame]
    split_ifs
    · exact Iff.rfl
    · exact h.free g
  · show g ∈ s.scrubQueue.erase f ↔ ((s.setFrame f r).frame g).state = .scrub
    rw [h.scrubNodup.mem_erase_iff, State.frame_setFrame]
    split_ifs with hg
    · exact iff_of_false (fun queued => queued.1 hg) notQueued
    · rw [h.scrub g]
      exact and_iff_right hg
  · show EngineOn (match s.scrubQueue.erase f with | [] => .idle | g :: _ => .ready g 0) (s.scrubQueue.erase f)
    cases s.scrubQueue.erase f with
    | nil => rfl
    | cons g rest => exact ⟨rfl, by decide⟩

/-- The frame under scrub is a SCRUB frame. -/
theorem state_current {s : State} (h : ListsLaw s) {f : Frame} {k age : Nat} (current : s.scrub = .outstanding f k age) :
    (s.frame f).state = .scrub := by
  have engine := h.engine
  rw [current] at engine
  exact (h.scrub f).1 (List.mem_of_mem_head? engine.1)

theorem failed {s : State} (h : ListsLaw s) {f : Frame} {k age : Nat} (current : s.scrub = .outstanding f k age) :
    ListsLaw (scrubFail s f) := by
  refine h.advanced (r := { s.frame f with state := .retired, errorMark := true }) nofun h.freeNodup fun g => ?_
  split_ifs with hg
  · rw [hg, h.free f, h.state_current current]
    exact iff_of_false nofun nofun
  · exact Iff.rfl

theorem scrubbed {s : State} (h : ListsLaw s) {f : Frame} {k age : Nat} (current : s.scrub = .outstanding f k age) :
    ListsLaw (scrubbed s f) := by
  have absent : f ∉ s.freeList := fun listed => by
    have := (h.free f).1 listed
    rw [h.state_current current] at this
    cases this
  refine h.advanced (r := { s.frame f with state := .free, errorMark := false }) nofun
    (l := s.freeList ++ [f]) ?_ fun g => ?_
  · exact List.concat_eq_append ▸ h.freeNodup.concat absent
  · rw [List.mem_append, List.mem_singleton]
    split_ifs with hg
    · exact iff_of_true (.inr hg) rfl
    · exact or_iff_left hg

end ListsLaw

theorem Move.listsLaw {s t : State} (move : Move s t) (h : ListsLaw s) : ListsLaw t := by
  cases move with
  | ports ps each => exact h.of_eq (fun _ => rfl) rfl rfl rfl
  | frame f r kept =>
    refine h.of_eq (fun k => ?_) rfl rfl rfl
    rw [State.frame_setFrame]
    split_ifs with hk
    · rw [hk, kept.state]
    · rfl
  | claimed c n => exact h.claimed c n
  | gaveUp f held => exact h.outside (by rw [held]; decide) ⟨nofun, nofun⟩
  | reclaimed f => exact h.reclaimed f
  | failed f k age current => exact h.failed current
  | engine x gen kept => exact h.engineMove kept gen
  | left c pool => cases (s.ctx c).owner <;> exact h.of_eq (fun _ => rfl) rfl rfl rfl
  | _ => exact h.of_eq (fun _ => rfl) rfl rfl rfl

theorem Moves.listsLaw {s t : State} (moves : Moves s t) (h : ListsLaw s) : ListsLaw t := by
  induction moves with
  | refl => exact h
  | tail _ last ih => exact last.listsLaw ih

/-- No change but an edge of RST_N touches its level. -/
theorem Move.rstAsserted {s t : State} (move : Move s t) : t.rstAsserted = s.rstAsserted := by
  cases move with
  | claimed c n =>
    exact foldl_keeps (P := fun v : State => v.rstAsserted = s.rstAsserted)
      (g := fun s f => modFrame s f (claimedFrame c)) (fun _ _ h => h) _ rfl
  | reclaimed f => rw [reclaimExit_frame]
  | left c pool => cases (s.ctx c).owner <;> rfl
  | _ => rfl

theorem Moves.rstAsserted {s t : State} (moves : Moves s t) : t.rstAsserted = s.rstAsserted := by
  induction moves with
  | refl => rfl
  | tail _ last ih => exact last.rstAsserted.trans ih

end Sys2Proof.Machine
end

section
/-! PROOFS. Commands within device reset; the law of the frame lists, RETIRED frames and error marks at every step. -/

namespace Sys2Proof.Machine

open Sys2Proof

/-! ## Commands within device reset -/

/-- Which contents device reset leaves, field by field. -/
theorem resetBlocks_eq_self_iff (s : State) (asserted : Bool) (part : BitVec 2) (st : PortState) (x : ScrubState) :
    resetBlocks s asserted part st x = s ↔
      s.rstAsserted = asserted ∧ s.part = part ∧ s.usTicks = 0 ∧ s.msTicks = 0 ∧
        s.frames = Vector.replicate 4096 FrameRec.reset ∧ s.freeList = [] ∧ s.scrubQueue = resetScrubQueue ∧
        s.contexts = resetContexts part ∧ s.teardowns = Vector.replicate 16 none ∧
        s.maps = Vector.replicate 16 (Vector.replicate 128 none) ∧ s.offers = Vector.replicate 16 none ∧
        s.nextSerial = 0 ∧ s.withdrawals = [] ∧ s.ports = resetPorts s st ∧ s.pointer = .port 0 ∧ s.scrub = x ∧
        s.loadQueue = [] ∧ s.load = .idle := by
  rw [eq_comm, resetBlocks]
  conv_lhs =>
    lhs
    change State.mk s.rstAsserted s.part s.usTicks s.msTicks s.frames s.freeList s.scrubQueue s.contexts s.teardowns s.maps
      s.offers s.nextSerial s.withdrawals s.ports s.pointer s.scrub s.writeGen s.loadQueue s.load s.readGen s.memoryRequests
      s.choices s.pending
  rw [State.mk.injEq]
  tauto

/-- What is read of a state whose every block stands as device reset leaves it (R45, R89, R105, R137, R152, R169). -/
structure InReset (s : State) : Prop where
  asserted : s.rstAsserted = true
  contents : resetBlocks s true s.part .down .idle = s

/-- `t` is `s` but for one port's line level and streams, the port DOWN as device reset leaves it. -/
def StaysInReset (s t : State) : Prop :=
  t = s ∨ ∃ p level access control, t = s.setPort p (PortRec.reset .down p level access control)

namespace InReset

variable {s : State} (h : InReset s)

include h

theorem port (p : Port) : s.port p =
    PortRec.reset .down p (s.port p).prst (s.port p).accessResponses (s.port p).controlResponses := by
  conv_lhs => rw [← h.contents]
  exact port_resetBlocks _ _ _ _ _ p

theorem state (p : Port) : (s.port p).state = .down := by rw [h.port]; rfl

theorem portUp (p : Port) : portUp s p = false := by
  unfold Machine.portUp
  rw [h.state]
  rfl

theorem entry (p : Port) (i : Slot) : ((s.port p).slot i).entry = none := by
  rw [h.port]
  simp [PortRec.reset, PortRec.slot, TransitSlot.reset, Vector.get_eq_getElem]

theorem teardown (c : Ctx) : s.teardown c = none := by
  rw [← h.contents]
  simp [resetBlocks, State.teardown, Vector.get_eq_getElem]

theorem offer (i : OfferId) : s.offer i = none := by
  rw [← h.contents]
  simp [resetBlocks, State.offer, Vector.get_eq_getElem]

theorem withdrawals : s.withdrawals = [] := by rw [← h.contents]; rfl

theorem scrub : s.scrub = .idle := by rw [← h.contents]; rfl

theorem load : s.load = .idle := by rw [← h.contents]; rfl

/-- Nothing is outstanding or waits at a DOWN port. -/
theorem waitingRequest (p : Port) (t : Tag) (k : RequestKind) : waitingRequest s p t k = none := by
  unfold Machine.waitingRequest slotOf
  rw [h.port]
  rfl

theorem matching (p : Port) (i : Slot) (gen : Byte) : matching s p i gen = none := by
  unfold Machine.matching
  rw [h.entry]

theorem timedOut (p : Port) (i : Slot) : timedOut s p i = none := by
  unfold Machine.timedOut
  rw [h.entry]

theorem scrubMatching (gen : Byte) : scrubMatching s gen = none := by
  unfold Machine.scrubMatching
  rw [h.scrub]

theorem loadMatching (gen : Byte) : loadMatching s gen = false := by
  unfold Machine.loadMatching
  rw [h.load]

theorem granted : granted s = none := by
  refine List.find?_eq_none.2 fun r _ => ?_
  cases r with
  | port p => rw [requesting, h.port]; nofun
  | scrub => rw [requesting, h.scrub]; nofun
  | load => rw [requesting, h.load]; nofun

theorem completionEffect (who : BitVec 3) (i : Slot) (gen : Byte) (status : Status) (d : List Byte) :
    completionEffect s who i gen status d = none := by
  unfold Machine.completionEffect
  rw [h.scrubMatching, h.loadMatching, if_neg Bool.false_ne_true, ite_self]
  split_ifs with hport
  · rw [h.matching]
    rfl
  · rfl
  · rfl

/-- Only the ports and the queue of commands may differ in a state within reset. -/
theorem withPorts (ports : Vector PortRec 4) (queue : List Instr)
    (kept : ports = resetPorts { s with ports := ports, pending := queue } .down) :
    InReset { s with ports := ports, pending := queue } := by
  obtain ⟨asserted, part, us, ms, frames, free, scrubs, contexts, teardowns, maps, offers, serial, withdrawals, -, rest⟩ :=
    (resetBlocks_eq_self_iff s true s.part .down .idle).1 h.contents
  exact ⟨asserted, (resetBlocks_eq_self_iff _ _ _ _ _).2 ⟨asserted, part, us, ms, frames, free, scrubs, contexts, teardowns,
    maps, offers, serial, withdrawals, kept, rest⟩⟩

/-- A port of its reset contents in which only the line's level and what is sent differ leaves the state in reset. -/
theorem setPort (p : Port) (level : Bool) (access : List AccessResponse) (control : List (List Byte)) :
    InReset (s.setPort p (PortRec.reset .down p level access control)) := by
  refine h.withPorts _ s.pending (vector_ext_get fun q => ?_)
  refine Eq.trans ?_ (port_resetBlocks (s.setPort p _) true s.part .down .idle q).symm
  show (s.setPort p _).port q = _
  rw [State.port_setPort]
  split_ifs with hq
  · rw [hq]
    rfl
  · exact h.port q

/-- Within device reset a command other than its release changes no more than a line's level and what a port has sent. -/
theorem exec {c : Instr} {t : State} (run : Machine.exec c s = .next t) :
    (∃ part, c = .rstNRelease part) ∨ StaysInReset s t := by
  have same {u : State} (unchanged : u = s) (run : (.next u : Host.Outcome State Fault Refusal) = .next t) :
      (∃ part, c = .rstNRelease part) ∨ StaysInReset s t := by
    injection run with run
    exact .inr (.inl (run.symm.trans unchanged))
  have one {u : State} (p : Port) (level : Bool) (access : List AccessResponse) (control : List (List Byte))
      (changed : u = s.setPort p (PortRec.reset .down p level access control))
      (run : (.next u : Host.Outcome State Fault Refusal) = .next t) :
      (∃ part, c = .rstNRelease part) ∨ StaysInReset s t := by
    injection run with run
    exact .inr (.inr ⟨p, level, access, control, run.symm.trans changed⟩)
  have untaken {k : RequestKind} {p : Port} {tag : Tag} {serve : ControlSlot → State}
      (run : takeRequest s p tag k serve = .next t) : (∃ part, c = .rstNRelease part) ∨ StaysInReset s t :=
    same rfl ((takeRequest_of_none (h.waitingRequest p tag k) serve).symm.trans run)
  cases c with
  | rstNAssert => exact same (if_pos h.asserted) run
  | rstNRelease part => exact .inl ⟨part, rfl⟩
  | prstNAssert p =>
    by_cases level : (s.port p).prst = true
    · exact same (if_pos level) run
    · refine one p true (s.port p).accessResponses (s.port p).controlResponses ((if_neg level).trans ?_) run
      refine (if_neg (by rw [h.portUp]; nofun)).trans (congrArg (s.setPort p) ?_)
      rw [h.port p]
      rfl
  | prstNDeassert p =>
    refine one p false (s.port p).accessResponses (s.port p).controlResponses (congrArg (s.setPort p) ?_) run
    have down : ¬ ((s.port p).prst = true ∧ (s.port p).state = .teardown .ended) := by rw [h.state]; nofun
    dsimp only
    rw [if_neg down, h.port p]
    rfl
  | portTeardownLoadsEnd p => exact same (if_neg (by rw [h.state]; nofun)) run
  | portTeardownNextContext p =>
    change execPortTeardownNextContext p s = _ at run
    unfold execPortTeardownNextContext at run
    rw [h.state] at run
    exact same rfl run
  | portTeardownEnd p => exact same (if_neg (by rw [h.state]; nofun)) run
  | controlRequestArrival p m =>
    have refused : Machine.exec (.controlRequestArrival p m) s = .next (refuseArrival s p m .offline) :=
      congrArg Host.Outcome.next (if_neg (by rw [h.portUp]; nofun))
    refine one p (s.port p).prst (s.port p).accessResponses
      ((s.port p).controlResponses ++ [responseBytes m.kind (messageTag m) .offline []])
      (congrArg (s.setPort p) ?_) (refused.symm.trans run)
    rw [h.port p]
    rfl
  | withdrawalEnd c f =>
    refine same rfl (Eq.trans (Eq.symm ?_) run)
    show execWithdrawalEnd c f s = .next s
    unfold execWithdrawalEnd endedRecord
    rw [h.withdrawals]
    rfl
  | teardownOfferCancel c =>
    refine same rfl (Eq.trans (Eq.symm ?_) run)
    show execTeardownOfferCancel c s = .next s
    unfold execTeardownOfferCancel
    rw [h.teardown]
  | teardownFrameTurn c => exact same (if_neg (by rw [turnDue, h.teardown]; nofun)) run
  | accessArrival p a =>
    refine one p (s.port p).prst ((s.port p).accessResponses ++ [{ tag := a.tag, result := .offline }])
      (s.port p).controlResponses ((if_neg (by rw [h.portUp]; nofun)).trans ?_) run
    refine congrArg (s.setPort p) ?_
    rw [h.port p]
    rfl
  | accessTranslation p =>
    refine same ?_ run
    unfold acceptOne
    rw [h.portUp]
    rfl
  | memoryPortGrant =>
    refine same rfl (Eq.trans (Eq.symm ?_) run)
    show execMemoryPortGrant s = .next s
    unfold execMemoryPortGrant
    rw [h.granted]
  | transitCompletionOk p i gen d =>
    refine same rfl (Eq.trans (Eq.symm ?_) run)
    show execTransitCompletionOk p i gen d s = .next s
    unfold execTransitCompletionOk
    rw [h.matching]
  | transitCompletionError p i gen =>
    refine same rfl (Eq.trans (Eq.symm ?_) run)
    show execTransitCompletionError p i gen s = .next s
    unfold execTransitCompletionError
    rw [h.matching]
  | staleCompletion who i gen status d =>
    refine same rfl (Eq.trans (Eq.symm ?_) run)
    show execStaleCompletion who i gen status d s = .next s
    unfold execStaleCompletion
    rw [h.completionEffect]
  | transitTimeout p i =>
    refine same rfl (Eq.trans (Eq.symm ?_) run)
    show execTransitTimeout p i s = .next s
    unfold execTransitTimeout
    rw [h.timedOut]
  | switchCompletion p => exact same (if_neg (by rw [h.port p]; nofun)) run
  | scrubCompletionOk gen =>
    refine same rfl (Eq.trans (Eq.symm ?_) run)
    show execScrubCompletionOk gen s = .next s
    unfold execScrubCompletionOk
    rw [h.scrubMatching]
  | scrubCompletionError gen =>
    refine same rfl (Eq.trans (Eq.symm ?_) run)
    show execScrubCompletionError gen s = .next s
    unfold execScrubCompletionError
    rw [h.scrubMatching]
  | scrubWriteTimeout =>
    refine same rfl (Eq.trans (Eq.symm ?_) run)
    show execScrubWriteTimeout s = .next s
    unfold execScrubWriteTimeout scrubTimedOut
    rw [h.scrub]
  | loadReadCompletion gen d => exact same (if_neg (by rw [h.loadMatching]; nofun)) run
  | loadReadError gen => exact same (if_neg (by rw [h.loadMatching]; nofun)) run
  | loadReadTimeout => exact same (if_neg (by rw [loadTimedOut, h.load]; nofun)) run
  | microsecondTick => exact same (if_pos h.asserted) run
  | millisecondTick => exact same (if_pos h.asserted) run
  | offerExpiry i => exact same (if_neg (by rw [offerDue, h.offer]; nofun)) run
  | _ => exact untaken run

end InReset

/-! ## The edges of RST_N -/

/-- Reset contents are read as they are written. -/
theorem frame_resetBlocks (s : State) (asserted : Bool) (part : BitVec 2) (st : PortState) (x : ScrubState) (f : Frame) :
    (resetBlocks s asserted part st x).frame f = FrameRec.reset := by
  show (Vector.replicate 4096 FrameRec.reset).get f = _
  simp [Vector.get_eq_getElem]

theorem scrubQueue_resetBlocks (s : State) (asserted : Bool) (part : BitVec 2) (st : PortState) (x : ScrubState) :
    (resetBlocks s asserted part st x).scrubQueue = resetScrubQueue := by
  simp only [resetBlocks]

theorem inReset_resetBlocks (s : State) (part : BitVec 2) : InReset (resetBlocks s true part .down .idle) := by
  refine ⟨rfl, (resetBlocks_eq_self_iff _ _ _ _ _).2
    ⟨rfl, rfl, rfl, rfl, rfl, rfl, scrubQueue_resetBlocks .., rfl, rfl, rfl, rfl, rfl, rfl, vector_ext_get fun q => ?_, rfl,
      rfl, rfl, rfl⟩⟩
  refine Eq.trans ?_ (port_resetBlocks (resetBlocks s true part .down .idle) true part .down .idle q).symm
  show (resetBlocks s true part .down .idle).port q = _
  rw [port_resetBlocks]
  rfl

theorem head_resetScrubQueue : resetScrubQueue.head? = some 0 := by
  unfold resetScrubQueue
  rw [List.finRange_succ]
  rfl

/-- After an edge of RST_N every frame waits for its scrub, in the order of the numbers (R21, R117). -/
theorem frameLists_resetBlocks (s : State) (asserted : Bool) (part : BitVec 2) (st : PortState) (x : ScrubState)
    (held : HeldInReset (resetBlocks s asserted part st x)) (engine : asserted = false → EngineOn x resetScrubQueue) :
    FrameLists (resetBlocks s asserted part st x) := by
  refine ⟨held, List.nodup_nil, fun f => ?_, ?_, fun f => ?_, ?_⟩
  · rw [frame_resetBlocks]
    exact iff_of_false List.not_mem_nil nofun
  · rw [scrubQueue_resetBlocks]
    exact List.nodup_finRange 4096
  · rw [scrubQueue_resetBlocks, frame_resetBlocks]
    exact iff_of_true (List.mem_finRange f) rfl
  · rw [scrubQueue_resetBlocks]
    exact engine

theorem frameLists_assertReset (s : State) : FrameLists (assertReset s) :=
  frameLists_resetBlocks _ _ _ _ _ (fun _ => (inReset_resetBlocks _ _).contents) nofun

theorem frameLists_releaseReset (s : State) (part : BitVec 2) : FrameLists (releaseReset s part) := by
  have first : FrameLists (resetBlocks s false part .up (.ready 0 0)) :=
    frameLists_resetBlocks _ _ _ _ _ nofun fun _ => ⟨head_resetScrubQueue, by decide⟩
  have moves := Moves.releaseReset s part
  exact (moves.listsLaw (first.listsLaw rfl)).frameLists moves.rstAsserted

/-! ## Every command -/

theorem FrameLists.inReset_of {s : State} (h : FrameLists s) (asserted : s.rstAsserted = true) : InReset s :=
  ⟨asserted, h.inReset asserted⟩

theorem frameLists_exec {c : Instr} {s t : State} (h : FrameLists s) (run : exec c s = .next t) : FrameLists t := by
  cases asserted : s.rstAsserted with
  | true =>
    have reset := h.inReset_of asserted
    rcases reset.exec run with ⟨part, rfl⟩ | rfl | ⟨p, level, access, control, rfl⟩
    · obtain rfl : (if s.rstAsserted then releaseReset s part else s) = t := by injection run
      rw [if_pos asserted]
      exact frameLists_releaseReset s part
    · exact h
    · have kept := reset.setPort p level access control
      exact ⟨fun _ => kept.contents, h.freeNodup, h.free, h.scrubNodup, h.scrub, h.engine⟩
  | false =>
    have lists := h.listsLaw asserted
    rcases moves_of_exec run with moves | rfl | ⟨part, rfl⟩ | ⟨f, ⟨⟨k, age, -, current⟩, -⟩, rfl⟩
    · exact (moves.listsLaw lists).frameLists (moves.rstAsserted.trans asserted)
    · obtain rfl : (if s.rstAsserted then s else assertReset s) = t := by injection run
      split_ifs
      · exact h
      · exact frameLists_assertReset s
    · obtain rfl : (if s.rstAsserted then releaseReset s part else s) = t := by injection run
      rw [if_neg (by rw [asserted]; nofun)]
      exact h
    · exact (lists.scrubbed current).frameLists asserted

/-- A command leaves the queue of commands to its sender: what it finds there it does not read. -/
theorem FrameLists.withPending {s : State} (h : FrameLists s) (queue : List Instr) : FrameLists { s with pending := queue } := by
  refine ⟨fun asserted => ?_, h.freeNodup, h.free, h.scrubNodup, h.scrub, h.engine⟩
  obtain ⟨-, -, -, -, -, -, -, -, -, -, -, -, -, ports, -⟩ := (resetBlocks_eq_self_iff _ _ _ _ _).1 (h.inReset asserted)
  exact ((h.inReset_of asserted).withPorts s.ports queue ports).contents

/-- Settles O53: outside device reset by the kinds of change, within it by what commands can change there. -/
theorem frameListsKept : Obligations.FrameListsKept := by
  intro s t h run
  rcases of_step run with rfl | ⟨c, rest, -, run⟩
  · exact h
  · exact frameLists_exec (h.withPending rest) run

end Sys2Proof.Machine
end

section
/-! PROOFS. RETIRED frames and set error marks: what changes them (R8, R112, R116). -/

namespace Sys2Proof.Machine

open Sys2Proof

/-! ## Each kind of change -/

/-- No change clears a mark: a scrub's success and device reset are none of the kinds (R8). -/
theorem Move.errorMark {s t : State} (move : Move s t) (f : Frame) (mark : (s.frame f).errorMark = true) :
    (t.frame f).errorMark = true := by
  have one {u : State} {g : Frame} {r : FrameRec} (frames : u.frames = (s.setFrame g r).frames)
      (kept : (s.frame g).errorMark = true → r.errorMark = true) : (u.frame f).errorMark = true := by
    show (u.frames.get f).errorMark = true
    rw [frames]
    show ((s.setFrame g r).frame f).errorMark = true
    rw [State.frame_setFrame]
    split_ifs with hf
    · exact kept (hf ▸ mark)
    · exact mark
  cases move with
  | frame g r kept => exact one rfl kept.mark
  | claimed c n =>
    rw [frame_foldl_modFrame (claimedFrame_claimedFrame c)]
    split_ifs
    · exact mark
    · exact mark
  | gaveUp g held => exact one rfl id
  | reclaimed g =>
    rw [reclaimExit_eq]
    split
    · exact mark
    · split <;> exact one (g := g) rfl id
  | failed g k age current => exact one (g := g) rfl fun _ => rfl
  | left c pool => cases (s.ctx c).owner <;> exact mark
  | _ => exact mark

/-- A RETIRED frame is on no list and holds nobody, and no change takes it from there (R116). -/
theorem Move.retired {s t : State} (move : Move s t) (lists : ListsLaw s) (f : Frame)
    (retired : (s.frame f).state = .retired) : (t.frame f).state = .retired := by
  have one {u : State} {g : Frame} {r : FrameRec} (frames : u.frames = (s.setFrame g r).frames)
      (kept : (s.frame g).state = .retired → r.state = .retired) : (u.frame f).state = .retired := by
    show (u.frames.get f).state = .retired
    rw [frames]
    show ((s.setFrame g r).frame f).state = .retired
    rw [State.frame_setFrame]
    split_ifs with hf
    · exact kept (hf ▸ retired)
    · exact retired
  cases move with
  | frame g r kept => exact one rfl kept.state.trans
  | claimed c n =>
    rw [frame_foldl_modFrame (claimedFrame_claimedFrame c)]
    split_ifs with taken
    · have := (lists.free f).1 (List.mem_of_mem_take taken)
      rw [retired] at this
      cases this
    · exact retired
  | gaveUp g held => exact one rfl fun h => by rw [held] at h; cases h
  | reclaimed g =>
    rw [reclaimExit_eq]
    split
    · exact retired
    · rename_i reclaim
      have other (h : (s.frame g).state = .retired) : False := by rw [not_not.1 reclaim] at h; cases h
      split <;> exact one (g := g) rfl fun h => (other h).elim
  | failed g k age current => exact one (g := g) rfl fun _ => rfl
  | left c pool => cases (s.ctx c).owner <;> exact retired
  | _ => exact retired

theorem Moves.errorMark {s t : State} (moves : Moves s t) (f : Frame) (mark : (s.frame f).errorMark = true) :
    (t.frame f).errorMark = true := by
  induction moves with
  | refl => exact mark
  | tail _ last ih => exact last.errorMark f ih

theorem Moves.retired {s t : State} (moves : Moves s t) (lists : ListsLaw s) (f : Frame)
    (retired : (s.frame f).state = .retired) : (t.frame f).state = .retired := by
  induction moves with
  | refl => exact retired
  | tail earlier last ih => exact last.retired (Moves.listsLaw earlier lists) f ih

/-! ## Every command -/

theorem frame_scrubbed_of_ne {s : State} {f g : Frame} (other : f ≠ g) : (scrubbed s g).frame f = s.frame f := by
  show (s.setFrame g _).frame f = _
  rw [State.frame_setFrame, if_neg other]

theorem frame_scrubbed_same (s : State) (f : Frame) :
    (scrubbed s f).frame f = { s.frame f with state := .free, errorMark := false } := by
  show (s.setFrame f { s.frame f with state := .free, errorMark := false }).frame f = _
  rw [State.frame_setFrame, if_pos rfl]

theorem frame_assertReset (s : State) (f : Frame) : (assertReset s).frame f = ⟨.scrub, [], 0, false, 0⟩ :=
  frame_resetBlocks _ _ _ _ _ f

/-- Settles O59: outside device reset no change takes a frame from RETIRED, and within it none is RETIRED. -/
theorem retiredStays : Obligations.RetiredStays := by
  intro c s t f lists retired run
  have released : s.rstAsserted = false := by
    refine Bool.eq_false_iff.2 fun asserted => ?_
    rw [← (lists.inReset_of asserted).contents, frame_resetBlocks] at retired
    cases retired
  rcases moves_of_exec run with moves | rfl | ⟨part, rfl⟩ | ⟨g, ⟨⟨k, age, -, current⟩, -⟩, rfl⟩
  · exact .inl ⟨moves.retired (lists.listsLaw released) f retired, moves.errorMark f⟩
  · obtain rfl : (if s.rstAsserted then s else assertReset s) = t := by injection run
    rw [if_neg (by rw [released]; nofun)]
    exact .inr ⟨rfl, frame_assertReset s f⟩
  · obtain rfl : (if s.rstAsserted then releaseReset s part else s) = t := by injection run
    rw [if_neg (by rw [released]; nofun)]
    exact .inl ⟨retired, id⟩
  · have other : f ≠ g := by
      rintro rfl
      rw [(lists.listsLaw released).state_current current] at retired
      cases retired
    rw [frame_scrubbed_of_ne other]
    exact .inl ⟨retired, id⟩

/-- Settles O60: of what a command can do, only device reset and the success of the frame's own scrub clear a mark. -/
theorem errorMarkCleared : Obligations.ErrorMarkCleared := by
  intro c s t f marked cleared run
  rcases moves_of_exec run with moves | rfl | release | ⟨g, ⟨⟨k, age, last, current⟩, command⟩, rfl⟩
  · exact Bool.noConfusion (cleared.symm.trans (moves.errorMark f marked))
  · exact .inl rfl
  · exact .inr (.inl release)
  · obtain rfl : f = g := by
      by_contra other
      rw [frame_scrubbed_of_ne other, marked] at cleared
      cases cleared
    refine .inr (.inr ⟨⟨k, age, Nat.le_of_succ_le_succ last, current⟩, ?_, command⟩)
    rw [frame_scrubbed_same]

end Sys2Proof.Machine
end

section
/-! PROOFS. The law of the context table (R26, R11, R23, R24) at every step. -/

namespace Sys2Proof.Machine

open Sys2Proof

/-! ## The law by the single record and the sum of the quotas -/

/-- What the law says of one context's record. -/
structure CtxFine (c : Ctx) (r : CtxRec) : Prop where
  charged : r.charged ≤ r.quota
  free : r.state = .free ↔ r.owner = none
  freeQuota : r.state = .free → r.quota = 0
  home : ∀ p, c = homeOf p → r.state = .live ∧ r.owner = some p

theorem contextLaw_iff (s : State) : ContextLaw s ↔ quotaSum s = 4096 ∧ ∀ c, CtxFine c (s.ctx c) := by
  constructor
  · intro h
    refine ⟨h.quotaSum, fun c => ⟨h.charged c, h.free c, h.freeQuota c, ?_⟩⟩
    rintro p rfl
    exact h.home p
  · rintro ⟨sum, fine⟩
    exact ⟨sum, fun c => (fine c).charged, fun c => (fine c).free, fun c => (fine c).freeQuota,
      fun p => (fine (homeOf p)).home p rfl⟩

/-- A sum over sixteen contexts of which one is changed. -/
theorem quotaSum_setCtx (s : State) (c : Ctx) (r : CtxRec) :
    quotaSum (s.setCtx c r) + (s.ctx c).quota = quotaSum s + r.quota := by
  have sum (u : State) : quotaSum u = (u.ctx c).quota + ∑ d ∈ Finset.univ.erase c, (u.ctx d).quota := by
    rw [Finset.add_sum_erase _ (fun d => (u.ctx d).quota) (Finset.mem_univ c)]
    exact (Fin.sum_univ_def _).symm
  have rest : ∑ d ∈ Finset.univ.erase c, ((s.setCtx c r).ctx d).quota = ∑ d ∈ Finset.univ.erase c, (s.ctx d).quota :=
    Finset.sum_congr rfl fun d hd => by rw [State.ctx_setCtx, if_neg (Finset.ne_of_mem_erase hd)]
  rw [sum (s.setCtx c r), sum s, rest, State.ctx_setCtx, if_pos rfl]
  omega

namespace ContextLaw

variable {s : State} (h : ContextLaw s)

include h

theorem fine (c : Ctx) : CtxFine c (s.ctx c) := ((contextLaw_iff s).1 h).2 c

/-- The law reads the contexts alone. -/
theorem of_eq {t : State} (contexts : ∀ c, t.ctx c = s.ctx c) : ContextLaw t := by
  have sum : Machine.quotaSum t = Machine.quotaSum s :=
    congrArg List.sum (List.map_congr_left fun c _ => by rw [contexts])
  refine (contextLaw_iff t).2 ⟨sum.trans h.quotaSum, fun c => ?_⟩
  rw [contexts]
  exact h.fine c

/-- One record changes and keeps its quota. -/
theorem setCtx {c : Ctx} {r : CtxRec} (quota : r.quota = (s.ctx c).quota) (kept : CtxFine c r) :
    ContextLaw (s.setCtx c r) := by
  have sum := quotaSum_setCtx s c r
  refine (contextLaw_iff _).2 ⟨?_, fun d => ?_⟩
  · rw [quota, h.quotaSum] at sum
    omega
  · rw [State.ctx_setCtx]
    split_ifs with hd
    · rw [hd]
      exact kept
    · exact h.fine d

/-- `n` of quota pass from one context, whose record then is `r`, to another, whose record then is `r'`. -/
theorem transfer {a b : Ctx} {r r' : CtxRec} {n : Nat} (other : b ≠ a) (total : r.quota + n = (s.ctx a).quota)
    (kept : CtxFine a r) (added : r'.quota = (s.ctx b).quota + n) (kept' : CtxFine b r') :
    ContextLaw ((s.setCtx b r').setCtx a r) := by
  have fst := quotaSum_setCtx s b r'
  have snd := quotaSum_setCtx (s.setCtx b r') a r
  rw [State.ctx_setCtx, if_neg other.symm] at snd
  refine (contextLaw_iff _).2 ⟨?_, fun d => ?_⟩
  · rw [h.quotaSum] at fst
    omega
  · rw [State.ctx_setCtx, State.ctx_setCtx]
    split_ifs with ha hb
    · rw [ha]
      exact kept
    · rw [hb]
      exact kept'
    · exact h.fine d

/-- More quota for a context that is not FREE. -/
theorem fine_added (b : Ctx) (n : Nat) (owned : (s.ctx b).state ≠ .free) :
    CtxFine b { s.ctx b with quota := (s.ctx b).quota + n } :=
  ⟨(h.charged b).trans (Nat.le_add_right _ _), h.free b, fun free => absurd free owned, (h.fine b).home⟩

/-- A pooled context that is FREE again gives its quota to its port's home context (R43). -/
theorem left {c : Ctx} (pool : pooled c = true) :
    ContextLaw (State.setCtx (match (s.ctx c).owner with
      | some p => modCtx s (homeOf p) fun x => { x with quota := x.quota + (s.ctx c).quota }
      | none => s) c CtxRec.free) := by
  have home (p : Port) : c ≠ homeOf p := by
    rintro rfl
    rw [homeOf_not_pooled] at pool
    cases pool
  have free : CtxFine c CtxRec.free :=
    ⟨le_rfl, iff_of_true rfl rfl, fun _ => rfl, fun p hc => absurd hc (home p)⟩
  cases owner : (s.ctx c).owner with
  | none => exact h.setCtx ((h.freeQuota c ((h.free c).2 owner)).symm) free
  | some p =>
    exact h.transfer (home p).symm (Nat.zero_add _) free rfl (h.fine_added _ _ (by rw [(h.home p).1]; decide))

/-- CEDE moves quota out of the source's headroom (R30). -/
theorem ceded {a b : Ctx} {n : Nat} (other : b ≠ a) (target : (s.ctx b).state = .live) (room : n ≤ headroom (s.ctx a))
    (source : (s.ctx a).state = .live) : ContextLaw (moveQuota s a b n) := by
  have fine := h.fine a
  have le : n ≤ (s.ctx a).quota := room.trans (Nat.sub_le _ _)
  have swap : moveQuota s a b n =
      (s.setCtx b { s.ctx b with quota := (s.ctx b).quota + n }).setCtx a { s.ctx a with quota := (s.ctx a).quota - n } := by
    refine congrArg (fun v => { s with contexts := v }) (State.contexts_ext (s := moveQuota s a b n) (t := State.setCtx _ a _)
      fun d => ?_)
    unfold moveQuota
    rw [ctx_modCtx, ctx_modCtx, ctx_modCtx, if_neg other, State.ctx_setCtx, State.ctx_setCtx]
    split_ifs with hb ha
    · exact absurd (hb.symm.trans ha) other
    · rfl
    · rfl
    · rfl
  rw [swap]
  refine h.transfer other (Nat.sub_add_cancel le) ⟨?_, fine.free, ?_, fine.home⟩ rfl
    (h.fine_added b n (by rw [target]; decide))
  · show (s.ctx a).charged ≤ (s.ctx a).quota - n
    have := fine.charged
    unfold headroom at room
    omega
  · intro free
    exact absurd (source.symm.trans free) nofun

end ContextLaw

/-! ## Each kind of change, and device reset -/

theorem Move.contextLaw {s t : State} (move : Move s t) (h : ContextLaw s) : ContextLaw t := by
  cases move with
  | claimed c n =>
    exact h.of_eq (foldl_keeps (P := fun v : State => ∀ d, v.ctx d = s.ctx d)
      (g := fun s f => modFrame s f (claimedFrame c)) (fun _ _ h => h) _ fun _ => rfl)
  | reclaimed f => exact h.of_eq fun d => by rw [reclaimExit_frame]; rfl
  | ctx c r kept =>
    have fine := h.fine c
    exact h.setCtx kept.quota ⟨kept.quota ▸ kept.charged fine.charged, by rw [kept.state, kept.owner]; exact fine.free,
      by rw [kept.state, kept.quota]; exact fine.freeQuota, by rw [kept.state, kept.owner]; exact fine.home⟩
  | created c p classes free pool =>
    have home (q : Port) : c ≠ homeOf q := by
      rintro rfl
      rw [homeOf_not_pooled] at pool
      cases pool
    exact h.setCtx (h.freeQuota c free).symm ⟨le_rfl, iff_of_false nofun nofun, nofun, fun q hq => absurd hq (home q)⟩
  | ceded a b n other target room source => exact h.ceded other target room source
  | leaving c pool live =>
    have fine := h.fine c
    refine h.setCtx rfl ⟨fine.charged, iff_of_false nofun fun none => ?_, nofun, fun p hc => ?_⟩
    · have := fine.free.2 none
      rw [live] at this
      cases this
    · rw [hc, homeOf_not_pooled] at pool
      cases pool
  | left c pool => exact h.left pool
  | _ => exact h.of_eq fun _ => rfl

theorem Moves.contextLaw {s t : State} (moves : Moves s t) (h : ContextLaw s) : ContextLaw t := by
  induction moves with
  | refl => exact h
  | tail _ last ih => exact last.contextLaw ih

theorem ctx_resetBlocks (s : State) (asserted : Bool) (part : BitVec 2) (st : PortState) (x : ScrubState) (c : Ctx) :
    (resetBlocks s asserted part st x).ctx c = CtxRec.reset part c := by
  show (resetContexts part).get c = _
  simp [resetContexts, Vector.get_eq_getElem]

/-- The four home contexts have the straps' row of quotas, which sum to 4096, and the pooled ones are FREE (R27, R45). -/
theorem ctxFine_reset (part : BitVec 2) (c : Ctx) : CtxFine c (CtxRec.reset part c) := by
  have all : ∀ (part : BitVec 2) (c : Ctx), (CtxRec.reset part c).charged ≤ (CtxRec.reset part c).quota ∧
      ((CtxRec.reset part c).state = .free ↔ (CtxRec.reset part c).owner = none) ∧
      ((CtxRec.reset part c).state = .free → (CtxRec.reset part c).quota = 0) ∧
      ∀ p, c = homeOf p → (CtxRec.reset part c).state = .live ∧ (CtxRec.reset part c).owner = some p := by
    decide
  obtain ⟨charged, free, quota, home⟩ := all part c
  exact ⟨charged, free, quota, home⟩

theorem contextLaw_resetBlocks (s : State) (asserted : Bool) (part : BitVec 2) (st : PortState) (x : ScrubState) :
    ContextLaw (resetBlocks s asserted part st x) := by
  refine (contextLaw_iff _).2 ⟨?_, fun c => ?_⟩
  · have sum : quotaSum (resetBlocks s asserted part st x) =
        ((List.finRange 16).map fun c => (CtxRec.reset part c).quota).sum :=
      congrArg List.sum (List.map_congr_left fun c _ => by rw [ctx_resetBlocks])
    have rows : ∀ part, ((List.finRange 16).map fun c => (CtxRec.reset part c).quota).sum = 4096 := by decide
    exact sum.trans (rows part)
  · rw [ctx_resetBlocks]
    exact ctxFine_reset part c

theorem contextLaw_exec {c : Instr} {s t : State} (h : ContextLaw s) (run : exec c s = .next t) : ContextLaw t := by
  rcases moves_of_exec run with moves | rfl | ⟨part, rfl⟩ | ⟨f, -, rfl⟩
  · exact moves.contextLaw h
  · obtain rfl : (if s.rstAsserted then s else assertReset s) = t := by injection run
    split_ifs
    · exact h
    · exact contextLaw_resetBlocks _ _ _ _ _
  · obtain rfl : (if s.rstAsserted then releaseReset s part else s) = t := by injection run
    split_ifs
    · exact (Moves.releaseReset s part).contextLaw (contextLaw_resetBlocks _ _ _ _ _)
    · exact h
  · exact h.of_eq fun _ => rfl

/-- Settles O54: quota only passes from one context to another, out of its headroom, and only what has headroom is charged. -/
theorem contextLawKept : Obligations.ContextLawKept := by
  intro s t h run
  rcases of_step run with rfl | ⟨c, rest, -, run⟩
  · exact h
  · have queue : ContextLaw { s with pending := rest } := h.of_eq fun _ => rfl
    exact contextLaw_exec queue run

end Sys2Proof.Machine
end

section
/-! PROOFS. Nothing due is left by a step (R36, R99, entries 4 and 9): a command that does not settle its event makes nothing
due. -/

namespace Sys2Proof.Machine

open Sys2Proof

/-! ## What is due and what settles -/

/-- A list search finds nothing where no element passes. -/
theorem dueWithdrawal_eq_none (s : State) : dueWithdrawal s = none ↔ ∀ w ∈ s.withdrawals, w.drain ≠ [] := by
  have all : (s.withdrawals.find? fun w => w.drain.isEmpty) = none ↔ ∀ w ∈ s.withdrawals, w.drain ≠ [] := by
    simp [List.find?_eq_none]
  rw [← all]
  unfold dueWithdrawal
  split
  · rename_i w found
    refine iff_of_false nofun fun none => ?_
    have empty := List.find?_some found
    exact List.find?_eq_none.1 none w (List.mem_of_find?_eq_some found) (by simp_all)
  · exact Iff.rfl

theorem dueTeardowns_eq_nil (s : State) :
    dueTeardowns s = [] ↔ (∀ c, turnDue s c = false ∧ stepDue s c = false) ∧ ∀ p, portDue s p = false := by
  simp [dueTeardowns, List.filter_eq_nil_iff]

/-- Nothing due is left exactly where nothing can be taken. -/
theorem settled_iff (s : State) : Settled s ↔ takeDue s = none := by
  rw [takeDue_eq_none, dueWithdrawal_eq_none, dueTeardowns_eq_nil]
  constructor
  · intro h
    exact ⟨h.drains, fun c => ⟨h.turns c, h.steps c⟩, h.ports⟩
  · rintro ⟨drains, teardowns, ports⟩
    exact ⟨drains, fun c => (teardowns c).1, fun c => (teardowns c).2, ports⟩

theorem settled_settle (s : State) : Settled (settle s) := (settled_iff _).2 (takeDue_settle s)

/-! ## Changes that make nothing due -/

/-- From `s` to `t` no wait ends: the withdrawals stand, a context teardown stands or has just begun, a HELD frame stays HELD
with its holders at the head of its list, each load's target and port keep one, and no port enters a teardown. -/
structure Quiet (s t : State) : Prop where
  withdrawals : t.withdrawals = s.withdrawals
  teardowns : ∀ c, t.teardown c = s.teardown c ∨ ∃ starter, t.teardown c = some ⟨starter, .offers⟩
  frames : ∀ f, (s.frame f).state = .held → (t.frame f).state = .held ∧ (s.frame f).holders <+: (t.frame f).holders
  loads : ∀ r ∈ s.loadQueue, ∃ r' ∈ t.loadQueue, r'.target = r.target ∧ r'.port = r.port
  ports : ∀ p, (t.port p).state = (s.port p).state ∨ (t.port p).state = .up

namespace Quiet

theorem refl (s : State) : Quiet s s :=
  ⟨rfl, fun _ => .inl rfl, fun _ held => ⟨held, List.prefix_rfl⟩, fun r hr => ⟨r, hr, rfl, rfl⟩, fun _ => .inl rfl⟩

theorem trans {s t u : State} (h : Quiet s t) (k : Quiet t u) : Quiet s u where
  withdrawals := k.withdrawals.trans h.withdrawals
  teardowns c := (k.teardowns c).elim (fun same => same ▸ h.teardowns c) .inr
  frames f held :=
    have ⟨held', kept⟩ := h.frames f held
    have ⟨held'', kept'⟩ := k.frames f held'
    ⟨held'', kept.trans kept'⟩
  loads r hr :=
    have ⟨_, hr', target, port⟩ := h.loads r hr
    have ⟨r'', hr'', target', port'⟩ := k.loads _ hr'
    ⟨r'', hr'', target'.trans target, port'.trans port⟩
  ports p := (k.ports p).elim (fun same => same ▸ h.ports p) .inr

/-- The frame and its holders at a wait that has not ended. -/
theorem turnDue {s t : State} (h : Quiet s t) {c : Ctx} (waits : Machine.turnDue s c = false) :
    Machine.turnDue t c = false := by
  rcases h.teardowns c with same | ⟨starter, new⟩
  swap
  · unfold Machine.turnDue
    rw [new]
  unfold Machine.turnDue at waits ⊢
  rw [same]
  cases hc : s.teardown c with
  | none => rfl
  | some td =>
    rw [hc] at waits
    obtain ⟨starter, step⟩ := td
    cases step with
    | turn f =>
      simp only [Bool.or_eq_false_iff, bne_eq_false_iff_eq, Bool.not_eq_false'] at waits ⊢
      obtain ⟨held, rest, holders⟩ := h.frames f waits.1
      refine ⟨held, ?_⟩
      rw [← holders, anyWithdrawing, List.any_append, Bool.or_eq_true]
      exact .inl waits.2
    | departure f =>
      simp only [Bool.or_eq_false_iff, bne_eq_false_iff_eq] at waits ⊢
      obtain ⟨held, rest, holders⟩ := h.frames f waits.1
      refine ⟨held, ?_⟩
      rw [← holders]
      have wait := waits.2
      cases hs : (s.frame f).holders with
      | nil => rw [hs] at wait; cases wait
      | cons a tail =>
        rw [hs] at wait
        cases tail with
        | nil => cases wait
        | cons b more => exact wait
    | _ => exact waits

theorem stepDue {s t : State} (h : Quiet s t) {c : Ctx} (waits : Machine.stepDue s c = false) :
    Machine.stepDue t c = false := by
  rcases h.teardowns c with same | ⟨starter, new⟩
  swap
  · unfold Machine.stepDue
    rw [new]
  unfold Machine.stepDue at waits ⊢
  rw [same]
  cases hc : s.teardown c with
  | none => rfl
  | some td =>
    rw [hc] at waits
    obtain ⟨starter, step⟩ := td
    cases step with
    | loads =>
      simp only [Bool.not_eq_false', loadTargets, List.any_eq_true, beq_iff_eq] at waits ⊢
      obtain ⟨r, hr, target⟩ := waits
      obtain ⟨r', hr', target', -⟩ := h.loads r hr
      exact ⟨r', hr', target'.trans target⟩
    | _ => rfl

theorem portDue {s t : State} (h : Quiet s t) {p : Port} (waits : Machine.portDue s p = false) :
    Machine.portDue t p = false := by
  rcases h.ports p with same | up
  swap
  · unfold Machine.portDue
    rw [up]
  unfold Machine.portDue at waits ⊢
  rw [same]
  cases hp : (s.port p).state with
  | up => rfl
  | down => rfl
  | teardown phase =>
    rw [hp] at waits
    cases phase with
    | loads =>
      simp only [Bool.not_eq_false', loadOfPort, List.any_eq_true, beq_iff_eq] at waits ⊢
      obtain ⟨r, hr, port⟩ := waits
      obtain ⟨r', hr', -, port'⟩ := h.loads r hr
      exact ⟨r', hr', port'.trans port⟩
    | contexts c =>
      rcases h.teardowns c with same | ⟨starter, new⟩
      · dsimp only at waits ⊢
        rw [same, waits]
      · dsimp only
        rw [new]
        rfl
    | ended => rfl

theorem settled {s t : State} (h : Quiet s t) (k : Settled s) : Settled t :=
  ⟨by rw [h.withdrawals]; exact k.drains, fun c => h.turnDue (k.turns c), fun c => h.stepDue (k.steps c),
    fun p => h.portDue (k.ports p)⟩

/-! ### The operations -/

theorem of_ports {s t : State} (rest : t = { s with ports := t.ports }) (states : ∀ p, (t.port p).state = (s.port p).state) :
    Quiet s t := by
  rw [rest]
  exact ⟨rfl, fun _ => .inl rfl, fun _ held => ⟨held, List.prefix_rfl⟩, fun r hr => ⟨r, hr, rfl, rfl⟩,
    fun p => .inl (states p)⟩

theorem port {s : State} {p : Port} {r : PortRec} (state : r.state = (s.port p).state ∨ r.state = .up) :
    Quiet s (s.setPort p r) := by
  refine ⟨rfl, fun _ => .inl rfl, fun _ held => ⟨held, List.prefix_rfl⟩, fun r hr => ⟨r, hr, rfl, rfl⟩, fun q => ?_⟩
  rw [State.port_setPort]
  split_ifs with hq
  · rw [hq]
    exact state
  · exact .inl rfl

theorem modPort {s : State} {p : Port} {g : PortRec → PortRec} (state : (g (s.port p)).state = (s.port p).state) :
    Quiet s (modPort s p g) := port (.inl state)

theorem setFrame {s : State} {f : Frame} {r : FrameRec}
    (kept : (s.frame f).state = .held → r.state = .held ∧ (s.frame f).holders <+: r.holders) :
    Quiet s (s.setFrame f r) := by
  refine ⟨rfl, fun _ => .inl rfl, fun k held => ?_, fun r hr => ⟨r, hr, rfl, rfl⟩, fun _ => .inl rfl⟩
  rw [State.frame_setFrame]
  split_ifs with hk
  · subst hk
    exact kept held
  · exact ⟨held, List.prefix_rfl⟩

theorem modFrame {s : State} {f : Frame} {g : FrameRec → FrameRec}
    (kept : (s.frame f).state = .held → (g (s.frame f)).state = .held ∧ (s.frame f).holders <+: (g (s.frame f)).holders) :
    Quiet s (modFrame s f g) := setFrame kept

/-- A change of a count of a frame's record. -/
theorem frameCount {s : State} {f : Frame} {g : FrameRec → FrameRec} (state : (g (s.frame f)).state = (s.frame f).state)
    (holders : (g (s.frame f)).holders = (s.frame f).holders) : Quiet s (Machine.modFrame s f g) :=
  modFrame fun held => ⟨state.trans held, holders ▸ List.prefix_rfl⟩

theorem modCtx (s : State) (c : Ctx) (g : CtxRec → CtxRec) : Quiet s (modCtx s c g) :=
  ⟨rfl, fun _ => .inl rfl, fun _ held => ⟨held, List.prefix_rfl⟩, fun r hr => ⟨r, hr, rfl, rfl⟩, fun _ => .inl rfl⟩

theorem foldl {α : Type} {g : State → α → State} (h : ∀ s a, Quiet s (g s a)) (l : List α) (s : State) :
    Quiet s (l.foldl g s) :=
  foldl_keeps (P := Quiet s) (fun u a hu => hu.trans (h u a)) l (.refl s)

theorem respond (s : State) (p : Port) (t : Tag) (v : Verdict) (rs : List Byte) : Quiet s (respond s p t v rs) :=
  modPort (g := fun r => r.responded t v rs) (by rw [responded_eq])

theorem activate (s : State) (p : Port) (t : Tag) : Quiet s (activate s p t) := modPort rfl

theorem addressOwner (s : State) (c : Ctx) (n : Notice) : Quiet s (addressOwner s c n) := by
  unfold Machine.addressOwner
  split
  · exact modPort (g := fun r => r.noticed n) (by rw [noticed_eq])
  · exact .refl s

theorem makeEntry (s : State) (c : Ctx) (g : Page) (e : MapEntry) : Quiet s (makeEntry s c g e) := by
  have entry : Quiet s (s.setEntry c g (some e)) :=
    ⟨rfl, fun _ => .inl rfl, fun _ held => ⟨held, List.prefix_rfl⟩, fun r hr => ⟨r, hr, rfl, rfl⟩, fun _ => .inl rfl⟩
  unfold Machine.makeEntry
  dsimp only
  split
  · exact (entry.trans (frameCount rfl rfl)).trans (modCtx _ _ _)
  · split
    · exact entry
    · exact (entry.trans (frameCount (g := fun x => { x with mapCount := x.mapCount - 1 }) rfl rfl)).trans
        (frameCount (g := fun x => { x with mapCount := x.mapCount + 1 }) rfl rfl)

theorem clearEntry (s : State) (c : Ctx) (g : Page) : Quiet s (clearEntry s c g) := by
  have entry : Quiet s (s.setEntry c g none) :=
    ⟨rfl, fun _ => .inl rfl, fun _ held => ⟨held, List.prefix_rfl⟩, fun r hr => ⟨r, hr, rfl, rfl⟩, fun _ => .inl rfl⟩
  unfold Machine.clearEntry
  split
  · exact .refl s
  · exact (entry.trans (frameCount rfl rfl)).trans (modCtx _ _ _)

theorem offers {s : State} (offers : Vector (Option OfferRec) 16) (serial : BitVec 16) :
    Quiet s { s with offers := offers, nextSerial := serial } :=
  ⟨rfl, fun _ => .inl rfl, fun _ held => ⟨held, List.prefix_rfl⟩, fun r hr => ⟨r, hr, rfl, rfl⟩, fun _ => .inl rfl⟩

theorem endOffer (s : State) (i : OfferId) (r : OfferEnd) (c : Ctx) : Quiet s (endOffer s i r c) := by
  cases h : s.offer i with
  | none =>
    rw [endOffer_of_none h]
    exact .refl s
  | some o =>
    rw [endOffer_of_some h, removeOffer_of_some h]
    have removed : Quiet s (Machine.modFrame { s with offers := s.offers.set i none } o.frame
        fun x => { x with pendingOffers := x.pendingOffers - 1 }) :=
      (offers (s.offers.set i none) s.nextSerial).trans (frameCount rfl rfl)
    exact removed.trans (addressOwner _ _ _)

theorem createOffer (s : State) (x : OfferOperands) (i : OfferId) : Quiet s (createOffer s x i) :=
  ((offers _ (s.nextSerial + 1)).trans (frameCount (g := fun r => { r with pendingOffers := r.pendingOffers + 1 }) rfl rfl)).trans
    (addressOwner _ _ _)

theorem expireOffer (s : State) (i : OfferId) : Quiet s (expireOffer s i) := by
  unfold Machine.expireOffer
  split
  · exact .refl s
  · dsimp only
    split
    · exact endOffer _ _ _ _
    · exact (endOffer _ _ _ _).trans (addressOwner _ _ _)

theorem appendHolder (s : State) (f : Frame) (c : Ctx) (r : Rights) : Quiet s (appendHolder s f c r) :=
  (modFrame fun held => ⟨held, List.prefix_append _ _⟩).trans (modCtx _ _ _)

theorem translate (s : State) (p : Port) (a : AccessRequest) : Quiet s (translate s p a) := by
  unfold Machine.translate
  split
  · exact (modPort (s := s) rfl).trans (modPort (g := fun r => r.noticed _) (by rw [noticed_eq]))
  · split
    · exact .refl s
    · exact modPort rfl

theorem acceptOne (s : State) (p : Port) : Quiet s (acceptOne s p) := by
  unfold Machine.acceptOne
  split
  · split
    · exact .refl s
    · exact (modPort (s := s) rfl).trans (translate _ _ _)
    · exact (modPort (s := s) rfl).trans (translate _ _ _)
    · split
      · exact (modPort (s := s) rfl).trans (translate _ _ _)
      · exact (modPort (s := s) rfl).trans (translate _ _ _)
  · exact .refl s

theorem completeSwitch (s : State) (p : Port) : Quiet s (completeSwitch s p) := by
  unfold Machine.completeSwitch
  split
  · exact .refl s
  · exact (modPort (s := s) rfl).trans (respond _ _ _ _ _)

theorem engines {s : State} (pointer : MemoryRequester) (scrub : ScrubState) (writeGen : Byte) (load : LoadState)
    (readGen : Byte) (requests : List MemoryRequest) :
    Quiet s { s with
      pointer := pointer, scrub := scrub, writeGen := writeGen, load := load, readGen := readGen,
      memoryRequests := requests } :=
  ⟨rfl, fun _ => .inl rfl, fun _ held => ⟨held, List.prefix_rfl⟩, fun r hr => ⟨r, hr, rfl, rfl⟩, fun _ => .inl rfl⟩

theorem issueHead (s : State) (p : Port) : Quiet s (issueHead s p) := by
  unfold Machine.issueHead
  split
  · exact .refl s
  · dsimp only
    split
    · exact modPort rfl
    · rename_i i rest _ _ e _
      have both : Quiet s (Machine.modPort (Machine.modPort s p fun x => { x with issueQueue := rest }) p fun x =>
          x.setSlot i ⟨(x.slot i).gen, some { e with phase := .issued 0, data := [] }⟩) :=
        (modPort rfl).trans (modPort rfl)
      exact both.trans (engines _ _ _ _ _ _)

theorem issueScrub (s : State) : Quiet s (issueScrub s) := by
  unfold Machine.issueScrub
  split
  · exact engines _ _ _ _ _ _
  · exact .refl s

/-- A frame that waits for its scrub is not HELD. -/
theorem scrubLeaves {s : State} {f : Frame} (waits : (s.frame f).state = .scrub) (r : FrameRec) (free queue : List Frame) :
    Quiet s (scrubNext ({ s with scrubQueue := queue, freeList := free }.setFrame f r)) := by
  refine ⟨rfl, fun _ => .inl rfl, fun k held => ?_, fun r hr => ⟨r, hr, rfl, rfl⟩, fun _ => .inl rfl⟩
  show ((s.setFrame f r).frame k).state = .held ∧ _ <+: ((s.setFrame f r).frame k).holders
  rw [State.frame_setFrame]
  split_ifs with hk
  · subst hk
    rw [waits] at held
    cases held
  · exact ⟨held, List.prefix_rfl⟩

/-- Claimed frames were FREE. -/
theorem claimFrames {s : State} (lists : ∀ f ∈ s.freeList, (s.frame f).state = .free) (c : Ctx) (n : Nat) :
    Quiet s (claimFrames s c n) := by
  have beside : ∀ p, (Machine.claimFrames s c n).port p = s.port p := port_claimFrames s c n
  have fields : (Machine.claimFrames s c n).withdrawals = s.withdrawals ∧
      (Machine.claimFrames s c n).teardowns = s.teardowns ∧ (Machine.claimFrames s c n).loadQueue = s.loadQueue :=
    foldl_keeps (P := fun v : State => v.withdrawals = s.withdrawals ∧ v.teardowns = s.teardowns ∧
      v.loadQueue = s.loadQueue) (g := fun s f => Machine.modFrame s f (claimedFrame c)) (fun _ _ h => h) _ ⟨rfl, rfl, rfl⟩
  obtain ⟨withdrawals, teardowns, loads⟩ := fields
  refine ⟨withdrawals, fun d => .inl ?_, fun f held => ?_, fun r hr => ⟨r, loads ▸ hr, rfl, rfl⟩, fun p => .inl ?_⟩
  · exact congrArg (fun v => Vector.get v d) teardowns
  · rw [frame_claimFrames]
    split_ifs with taken
    · rw [lists f (List.mem_of_mem_take taken)] at held
      cases held
    · exact ⟨held, List.prefix_rfl⟩
  · rw [beside]

end Quiet

end Sys2Proof.Machine
end

section
/-! PROOFS. Nothing due is left by a step: command by command. -/

namespace Sys2Proof.Machine

open Sys2Proof

/-! ## The requests -/

/-- A property of states that a request's owner block keeps by refusing it, and by its effect where the checks pass. -/
theorem kept_of_takeRequest {P : State → Prop} {s t : State} {p : Port} {tag : Tag} {k : RequestKind}
    {serve : ControlSlot → State} (untaken : P s) (served : ∀ q, P (serve q))
    (run : takeRequest s p tag k serve = .next t) : P t := by
  unfold takeRequest at run
  split at run
  · injection run with run
    exact run ▸ untaken
  · rename_i q _
    injection run with run
    exact run ▸ served q

theorem kept_of_serveChecked {P : State → Prop} {α : Type} {s : State} {p : Port} {t : Tag} {check : Except Reply α}
    {effect : α → State} (refused : ∀ v rs, P (respond s p t v rs)) (accepted : ∀ a, check = .ok a → P (effect a)) :
    P (serveChecked s p t check effect) := by
  unfold serveChecked
  split
  · exact refused _ _
  · exact accepted _ rfl

theorem of_mapLoadCheck {s : State} {p : Port} {t : Tag} {ops : List Byte} {r : LoadRec}
    (h : mapLoadCheck s p t ops = .ok r) :
    ∃ c f, operandCtx ops 4 = some c ∧ operandFrame ops 6 = some f ∧
      (1 ≤ operandByte ops 5 ∧ operandByte ops 5 ≤ 128) ∧ ((s.ctx c).owner = some p ∧ (s.ctx c).state = .live) ∧
      sourceHeld s p c f = true ∧ s.loadQueue.length < Config.loadQueueSize ∧
      r = ⟨p, t, c, f, operandWord ops 8, operandByte ops 5, operandStamp ops 12, 0, none⟩ := by
  unfold mapLoadCheck at h
  split at h
  · rename_i c f hc hf
    obtain ⟨good, h⟩ := passed_of_ok h
    obtain ⟨acting, h⟩ := acting_of_ok h
    obtain ⟨held, h⟩ := passed_of_ok h
    obtain ⟨room, h⟩ := passed_of_ok h
    cases h
    have list : ¬ _ := (goodList_eq_false_iff (operandWord ops 8) (operandByte ops 5)).not.1 (by simpa using good)
    exact ⟨c, f, hc, hf, by omega, acting, by simpa using held, not_le.1 room, rfl⟩
  · cases h

/-- An accepted load joins the queue, and no load leaves it (R140). -/
theorem Quiet.acceptLoad {s : State} {p : Port} {t : Tag} {ops : List Byte} {r : LoadRec}
    (ok : mapLoadCheck s p t ops = .ok r) : Quiet s (acceptLoad s p t r) := by
  obtain ⟨c, f, -, -, -, ⟨-, live⟩, held, -, rfl⟩ := of_mapLoadCheck ok
  rw [acceptLoad_eq rfl live held]
  refine ⟨rfl, fun _ => .inl rfl, fun _ h => ⟨h, List.prefix_rfl⟩,
    fun x hx => ⟨x, List.mem_append_left _ hx, rfl, rfl⟩, fun q => .inl ?_⟩
  show ((s.setPort p ((s.port p).carriedOn t)).port q).state = _
  rw [State.port_setPort]
  split_ifs with hq
  · rw [hq]
    rfl
  · rfl

/-- A context enters TEARDOWN: its step 2 comes at a later event (R36). -/
theorem Quiet.startPooledTeardown (s : State) (c : Ctx) (starter : Starter) :
    Quiet s (startPooledTeardown s c starter) := by
  refine ⟨rfl, fun d => ?_, fun _ held => ⟨held, List.prefix_rfl⟩, fun r hr => ⟨r, hr, rfl, rfl⟩, fun _ => .inl rfl⟩
  have step1 := State.teardown_setTeardown (Machine.modCtx s c fun x => { x with state := .teardown }) c d
    (some ⟨starter, .offers⟩)
  by_cases hd : d = c
  · exact .inr ⟨starter, step1.trans (if_pos hd)⟩
  · exact .inl (step1.trans (if_neg hd))

/-- Every request leaves nothing due. -/
theorem settled_commandOf {k : RequestKind} {p : Port} {tag : Tag} {s t : State} (h : Settled s)
    (lists : ∀ f ∈ s.freeList, (s.frame f).state = .free) (run : exec (commandOf k p tag) s = .next t) : Settled t := by
  have refused (v : Verdict) (rs : List Byte) : Settled (respond s p tag v rs) := (Quiet.respond ..).settled h
  have done {u : State} (v : Verdict) (rs : List Byte) (quiet : Quiet s u) : Settled (respond u p tag v rs) :=
    (quiet.trans (Quiet.respond ..)).settled h
  have one {α : Type} {check : ControlSlot → Except Reply α} {effect : ControlSlot → α → State}
      (accepted : ∀ q a, check q = .ok a → Settled (effect q a))
      (run : takeRequest s p tag k (fun q => serveChecked s p tag (check q) (effect q)) = .next t) : Settled t :=
    kept_of_takeRequest (serve := fun q => serveChecked s p tag (check q) (effect q)) h
      (fun q => kept_of_serveChecked (P := Settled) refused (accepted q)) run
  cases k with
  | claim => exact one (fun _ _ _ => done _ _ (Quiet.claimFrames lists ..)) run
  | release => exact one (fun _ _ _ => settled_settle _) run
  | frameInfo => exact kept_of_takeRequest (P := Settled) h (fun _ => refused _ _) run
  | deviceInfo => exact kept_of_takeRequest (P := Settled) h (fun _ => refused _ _) run
  | create => exact one (fun _ c _ => done _ _ (Quiet.modCtx s c fun _ => createdCtx p _)) run
  | destroy =>
    exact one (fun _ _ _ => ((Quiet.activate s p tag).trans (Quiet.startPooledTeardown ..)).settled h) run
  | cede =>
    refine one (fun _ x _ => done _ _ ?_) run
    have moved : Quiet s (moveQuota s x.1 x.2.1 x.2.2) := (Quiet.modCtx ..).trans (Quiet.modCtx ..)
    refine moved.trans ?_
    unfold announceQuota
    split
    · exact .refl _
    · exact Quiet.addressOwner ..
  | contextInfo => exact kept_of_takeRequest (P := Settled) h (fun _ => refused _ _) run
  | bind =>
    refine one (fun _ c _ => ?_) run
    unfold bindTo
    split_ifs
    · exact refused _ _
    · exact done _ _ (Quiet.modPort rfl)
    · exact ((Quiet.activate s p tag).trans (Quiet.modPort rfl)).settled h
  | mapSet => exact one (fun _ _ _ => done _ _ (Quiet.makeEntry ..)) run
  | mapClear => exact one (fun _ _ _ => done _ _ (Quiet.clearEntry ..)) run
  | probe => exact one (fun _ _ _ => refused _ _) run
  | mapLoad => exact one (fun _ _ ok => (Quiet.acceptLoad ok).settled h) run
  | loadCancel => exact one (fun _ _ _ => settled_settle _) run
  | offer => exact one (fun _ _ _ => done _ _ (Quiet.createOffer ..)) run
  | accept => exact one (fun _ _ _ => done _ _ ((Quiet.endOffer ..).trans (Quiet.appendHolder ..))) run
  | decline => exact one (fun _ _ _ => done _ _ (Quiet.endOffer ..)) run
  | retract => exact one (fun _ _ _ => done _ _ (Quiet.endOffer ..)) run
  | leave => exact one (fun _ _ _ => settled_settle _) run
  | revoke => exact one (fun _ _ _ => settled_settle _) run
  | fetchNotices => exact one (fun _ _ _ => done _ _ (Quiet.modPort rfl)) run

/-! ## Ticks -/

/-- Each timeout is an event of its own and settles, or is of a frame under scrub (R132, R113, R145). -/
theorem settled_takeLate {s : State} (h : Settled s) (lists : ListsLaw s) (x : Late) : Settled (takeLate s x) := by
  cases x with
  | access p i =>
    unfold takeLate
    dsimp only
    split
    · exact h
    · exact settled_settle _
  | scrub =>
    unfold takeLate
    dsimp only
    split
    · exact h
    · rename_i f late
      obtain ⟨k, age, current, -⟩ := Moves.of_scrubTimedOut late
      exact (Quiet.scrubLeaves (lists.state_current current) _ s.freeList _).settled h
  | load =>
    unfold takeLate
    dsimp only
    split
    · exact settled_settle _
    · exact h

theorem settled_takeLateFor (n : Nat) {s : State} (h : Settled s) (lists : ListsLaw s) : Settled (takeLateFor n s) := by
  induction n generalizing s with
  | zero => exact h
  | succ n ih =>
    unfold takeLateFor
    split
    · exact h
    · rename_i s1 x chosen
      have same : s1 = { s with choices := s1.choices } := (choose_spec chosen).2
      have settled1 : Settled s1 := by rw [same]; exact ⟨h.drains, h.turns, h.steps, h.ports⟩
      have lists1 : ListsLaw s1 := by rw [same]; exact lists.of_eq (fun _ => rfl) rfl rfl rfl
      exact ih (settled_takeLate settled1 lists1 x) ((Moves.takeLate s1 x).listsLaw lists1)

theorem Quiet.raiseAges (s : State) : Quiet s (raiseAges { s with usTicks := s.usTicks + 1 }) := by
  refine ⟨rfl, fun _ => .inl rfl, fun _ held => ⟨held, List.prefix_rfl⟩, fun r hr => ⟨r, hr, rfl, rfl⟩, fun p => .inl ?_⟩
  have older := mapVec_get (fun r : PortRec => { r with transit := mapVec olderSlot r.transit }) s.ports p
  exact (congrArg PortRec.state older :)

/-! ## The completions of requests to memory -/

theorem settled_scrubAdvance {s : State} (h : Settled s) (lists : ListsLaw s) {gen : Byte} {x : Frame × Nat}
    (found : scrubMatching s gen = some x) : Settled (scrubAdvance s x.1 x.2) := by
  obtain ⟨-, age, current⟩ := Moves.of_scrubMatching found
  rw [scrubAdvance_eq]
  split
  · exact (Quiet.engines s.pointer _ s.writeGen s.load s.readGen s.memoryRequests).settled h
  · exact (Quiet.scrubLeaves (lists.state_current current) _ _ _).settled h

theorem settled_scrubFail {s : State} (h : Settled s) (lists : ListsLaw s) {f : Frame} {k age : Nat}
    (current : s.scrub = .outstanding f k age) : Settled (scrubFail s f) :=
  (Quiet.scrubLeaves (lists.state_current current) _ s.freeList _).settled h

theorem settled_completionEffect {s t : State} (h : Settled s) (lists : ListsLaw s) {who : BitVec 3} {i : Slot}
    {gen : Byte} {status : Status} {d : List Byte} (effect : completionEffect s who i gen status d = some t) :
    Settled t := by
  unfold completionEffect at effect
  split_ifs at effect with port scrub load matches'
  · obtain ⟨e, found, rfl⟩ := Option.map_eq_some_iff.1 effect
    cases status with
    | ok => exact settled_settle _
    | error => exact settled_settle _
  · obtain ⟨x, found, rfl⟩ := Option.map_eq_some_iff.1 effect
    cases status with
    | ok => exact settled_scrubAdvance h lists found
    | error =>
      obtain ⟨-, age, current⟩ := Moves.of_scrubMatching found
      exact settled_scrubFail h lists current
  · cases status with
    | ok =>
      cases effect
      exact settled_settle _
    | error =>
      cases effect
      exact settled_settle _

/-! ## Every command -/

/-- Outside device reset: a command settles its event, or is quiet. -/
theorem settled_exec_released {c : Instr} {s t : State} (h : Settled s) (lists : ListsLaw s) (released : s.rstAsserted = false)
    (run : exec c s = .next t) : c = .rstNAssert ∨ Settled t := by
  have free : ∀ f ∈ s.freeList, (s.frame f).state = .free := fun f listed => (lists.free f).1 listed
  have next {u : State} (settled : Settled u) (run : (.next u : Host.Outcome State Fault Refusal) = .next t) :
      c = .rstNAssert ∨ Settled t := by
    injection run with run
    exact .inr (run ▸ settled)
  have request {k : RequestKind} {p : Port} {tag : Tag} (command : c = commandOf k p tag) : c = .rstNAssert ∨ Settled t :=
    .inr (settled_commandOf h free (command ▸ run))
  cases c with
  | rstNAssert => exact .inl rfl
  | rstNRelease part =>
    refine next ?_ run
    rw [if_neg (by rw [released]; nofun)]
    exact h
  | prstNAssert p =>
    refine next ?_ run
    split_ifs
    · exact h
    · exact settled_settle _
    · exact (Quiet.modPort rfl).settled h
  | prstNDeassert p =>
    refine next (Quiet.settled (Quiet.port ?_) h) run
    dsimp only
    split_ifs
    · exact .inr rfl
    · exact .inl rfl
  | portTeardownLoadsEnd p =>
    refine next ?_ run
    split_ifs
    · exact settled_settle _
    · exact h
  | portTeardownNextContext p =>
    change execPortTeardownNextContext p s = _ at run
    unfold execPortTeardownNextContext at run
    split at run
    · refine next ?_ run
      split_ifs
      · exact settled_settle _
      · exact h
    · exact next h run
  | portTeardownEnd p =>
    refine next ?_ run
    split_ifs
    · exact settled_settle _
    · exact h
  | controlRequestArrival p m =>
    have refused (v : Verdict) : Settled (refuseArrival s p m v) :=
      Quiet.settled (t := modPort s p fun x => { x with controlResponses := x.controlResponses ++ [_] }) (Quiet.modPort rfl) h
    have admitted (k : RequestKind) : Settled (admitRequest s p m k) := Quiet.settled (Quiet.modPort rfl) h
    refine next ?_ run
    split_ifs
    · split
      · exact refused _
      · exact admitted _
    · exact refused _
  | claim p tag => exact request (k := .claim) rfl
  | release p tag => exact request (k := .release) rfl
  | frameInfo p tag => exact request (k := .frameInfo) rfl
  | deviceInfo p tag => exact request (k := .deviceInfo) rfl
  | create p tag => exact request (k := .create) rfl
  | destroy p tag => exact request (k := .destroy) rfl
  | cede p tag => exact request (k := .cede) rfl
  | contextInfo p tag => exact request (k := .contextInfo) rfl
  | bind p tag => exact request (k := .bind) rfl
  | mapSet p tag => exact request (k := .mapSet) rfl
  | mapClear p tag => exact request (k := .mapClear) rfl
  | probe p tag => exact request (k := .probe) rfl
  | mapLoad p tag => exact request (k := .mapLoad) rfl
  | loadCancel p tag => exact request (k := .loadCancel) rfl
  | offer p tag => exact request (k := .offer) rfl
  | accept p tag => exact request (k := .accept) rfl
  | decline p tag => exact request (k := .decline) rfl
  | retract p tag => exact request (k := .retract) rfl
  | leave p tag => exact request (k := .leave) rfl
  | revoke p tag => exact request (k := .revoke) rfl
  | fetchNotices p tag => exact request (k := .fetchNotices) rfl
  | withdrawalEnd c f =>
    change execWithdrawalEnd c f s = _ at run
    unfold execWithdrawalEnd at run
    split at run
    · exact next h run
    · exact next (settled_settle _) run
  | teardownOfferCancel c =>
    change execTeardownOfferCancel c s = _ at run
    unfold execTeardownOfferCancel at run
    split at run
    · exact next (settled_settle _) run
    · exact next h run
  | teardownFrameTurn c =>
    refine next ?_ run
    split_ifs
    · exact settled_settle _
    · exact h
  | accessArrival p a =>
    refine next ?_ run
    split_ifs
    · refine (Quiet.trans (Quiet.modPort ?_) (Quiet.acceptOne _ _)).settled h
      cases a.mode <;> rfl
    · exact (Quiet.modPort rfl).settled h
  | accessTranslation p => exact next ((Quiet.acceptOne _ _).settled h) run
  | memoryPortGrant =>
    change execMemoryPortGrant s = _ at run
    unfold execMemoryPortGrant at run
    split at run
    · exact next h run
    · rename_i who _
      refine next ?_ run
      have moved : Quiet s { s with pointer := ringAfter who } :=
        Quiet.engines (ringAfter who) s.scrub s.writeGen s.load s.readGen s.memoryRequests
      cases who with
      | port p => exact (moved.trans (Quiet.issueHead _ p)).settled h
      | scrub => exact (moved.trans (Quiet.issueScrub _)).settled h
      | load =>
        show Settled (issueLoad _)
        unfold issueLoad
        split
        · exact moved.settled h
        · split_ifs
          · exact (moved.trans (Quiet.engines _ _ _ _ _ _)).settled h
          · exact settled_settle _
  | transitCompletionOk p i gen d =>
    change execTransitCompletionOk p i gen d s = _ at run
    unfold execTransitCompletionOk at run
    split at run
    · exact next h run
    · exact next (settled_settle _) run
  | transitCompletionError p i gen =>
    change execTransitCompletionError p i gen s = _ at run
    unfold execTransitCompletionError at run
    split at run
    · exact next h run
    · exact next (settled_settle _) run
  | staleCompletion who i gen status d =>
    change execStaleCompletion who i gen status d s = _ at run
    unfold execStaleCompletion at run
    split at run
    · exact next h run
    · rename_i effect
      exact next (settled_completionEffect h lists effect) run
  | transitTimeout p i =>
    change execTransitTimeout p i s = _ at run
    unfold execTransitTimeout at run
    split at run
    · exact next h run
    · exact next (settled_settle _) run
  | switchCompletion p =>
    refine next ?_ run
    split_ifs
    · exact ((Quiet.completeSwitch _ _).trans (Quiet.acceptOne _ _)).settled h
    · exact h
  | scrubCompletionOk gen =>
    change execScrubCompletionOk gen s = _ at run
    unfold execScrubCompletionOk at run
    split at run
    · exact next h run
    · rename_i found
      exact next (settled_scrubAdvance h lists found) run
  | scrubCompletionError gen =>
    change execScrubCompletionError gen s = _ at run
    unfold execScrubCompletionError at run
    split at run
    · exact next h run
    · rename_i found
      obtain ⟨-, age, current⟩ := Moves.of_scrubMatching found
      exact next (settled_scrubFail h lists current) run
  | scrubWriteTimeout =>
    change execScrubWriteTimeout s = _ at run
    unfold execScrubWriteTimeout at run
    split at run
    · exact next h run
    · rename_i late
      obtain ⟨k, age, current, -⟩ := Moves.of_scrubTimedOut late
      exact next (settled_scrubFail h lists current) run
  | loadReadCompletion gen d =>
    refine next ?_ run
    split_ifs
    · exact settled_settle _
    · exact h
  | loadReadError gen =>
    refine next ?_ run
    split_ifs
    · exact settled_settle _
    · exact h
  | loadReadTimeout =>
    refine next ?_ run
    split_ifs
    · exact settled_settle _
    · exact h
  | microsecondTick =>
    refine next ?_ run
    split_ifs
    · exact h
    · refine settled_takeLateFor 66 ((Quiet.raiseAges s).settled h) ((Moves.raiseAges _).listsLaw ?_)
      exact lists.of_eq (fun _ => rfl) rfl rfl rfl
  | millisecondTick =>
    refine next ?_ run
    split_ifs
    · exact h
    · have lowered : Quiet s (lowerLifetimes { s with msTicks := s.msTicks + 1 }) :=
        ⟨rfl, fun _ => .inl rfl, fun _ held => ⟨held, List.prefix_rfl⟩, fun r hr => ⟨r, hr, rfl, rfl⟩, fun _ => .inl rfl⟩
      refine (lowered.trans (Quiet.foldl (fun u i => ?_) _ _)).settled h
      split_ifs
      · exact Quiet.expireOffer _ _
      · exact .refl _
  | offerExpiry i =>
    refine next ?_ run
    split_ifs
    · exact (Quiet.expireOffer _ _).settled h
    · exact h

/-- Within device reset nothing waits, and nothing is due. -/
theorem InReset.settled {s : State} (h : InReset s) : Settled s := by
  refine ⟨by rw [h.withdrawals]; nofun, fun c => ?_, fun c => ?_, fun p => ?_⟩
  · unfold turnDue
    rw [h.teardown]
  · unfold stepDue
    rw [h.teardown]
  · unfold portDue
    rw [h.state]

theorem settled_exec {c : Instr} {s t : State} (h : Settled s) (lists : FrameLists s) (run : exec c s = .next t) :
    Settled t := by
  cases asserted : s.rstAsserted with
  | true =>
    have reset := lists.inReset_of asserted
    rcases reset.exec run with ⟨part, rfl⟩ | rfl | ⟨p, level, access, control, rfl⟩
    · obtain rfl : (if s.rstAsserted then releaseReset s part else s) = t := by injection run
      rw [if_pos asserted]
      exact settled_settle _
    · exact h
    · exact (reset.setPort p level access control).settled
  | false =>
    rcases settled_exec_released h (lists.listsLaw asserted) asserted run with rfl | settled
    · obtain rfl : (if s.rstAsserted then s else assertReset s) = t := by injection run
      rw [if_neg (by rw [asserted]; nofun)]
      exact (inReset_resetBlocks _ _).settled
    · exact settled

/-- Settles O58: what an event makes due is taken within it, and an event that takes nothing makes nothing due. -/
theorem settledKept : Obligations.SettledKept := by
  intro s t lists h run
  rcases of_step run with rfl | ⟨c, rest, -, run⟩
  · exact h
  · have queue : Settled { s with pending := rest } := ⟨h.drains, h.turns, h.steps, h.ports⟩
    exact settled_exec queue (lists.withPending rest) run

end Sys2Proof.Machine
end

section
/-! PROOFS. The step, the responses, and the requests that only read: O1, O3, O7, O12, O48, FRAME_INFO, DEVICE_INFO (R18, R19),
CONTEXT_INFO (R32), PROBE (R53), with MAP_CLEAR (R52) and RELEASE's refusals (R15). -/

namespace Sys2Proof.Machine

open Sys2Proof

/-! ## Steps -/

/-- Settles O1, by the definition of a step. -/
theorem stepRunsFrontCommand : Obligations.StepRunsFrontCommand := by
  refine ⟨fun c rest s => rfl, fun s idle => ?_⟩
  unfold step
  rw [idle]

/-- A request is taken, or not, and either way a state follows. -/
theorem takeRequest_completes (s : State) (p : Port) (t : Tag) (k : RequestKind) (serve : ControlSlot → State) :
    ∃ u, takeRequest s p t k serve = .next u := by
  cases h : waitingRequest s p t k with
  | none => exact ⟨s, takeRequest_of_none h serve⟩
  | some q => exact ⟨serve q, takeRequest_of_some h serve⟩

/-- Settles O3: no command has an arm that faults or refuses. -/
theorem everyCommandCompletes : Obligations.EveryCommandCompletes := by
  intro c s
  cases c with
  | rstNAssert => exact ⟨_, rfl⟩
  | rstNRelease part => exact ⟨_, rfl⟩
  | prstNAssert p => exact ⟨_, rfl⟩
  | prstNDeassert p => exact ⟨_, rfl⟩
  | portTeardownLoadsEnd p => exact ⟨_, rfl⟩
  | portTeardownNextContext p =>
    show ∃ t, execPortTeardownNextContext p s = .next t
    unfold execPortTeardownNextContext
    split <;> exact ⟨_, rfl⟩
  | portTeardownEnd p => exact ⟨_, rfl⟩
  | controlRequestArrival p m => exact ⟨_, rfl⟩
  | withdrawalEnd c f =>
    show ∃ t, execWithdrawalEnd c f s = .next t
    unfold execWithdrawalEnd
    split <;> exact ⟨_, rfl⟩
  | teardownOfferCancel c =>
    show ∃ t, execTeardownOfferCancel c s = .next t
    unfold execTeardownOfferCancel
    split <;> exact ⟨_, rfl⟩
  | teardownFrameTurn c => exact ⟨_, rfl⟩
  | accessArrival p a => exact ⟨_, rfl⟩
  | accessTranslation p => exact ⟨_, rfl⟩
  | memoryPortGrant =>
    show ∃ t, execMemoryPortGrant s = .next t
    unfold execMemoryPortGrant
    split <;> exact ⟨_, rfl⟩
  | transitCompletionOk p i gen d =>
    show ∃ t, execTransitCompletionOk p i gen d s = .next t
    unfold execTransitCompletionOk
    split <;> exact ⟨_, rfl⟩
  | transitCompletionError p i gen =>
    show ∃ t, execTransitCompletionError p i gen s = .next t
    unfold execTransitCompletionError
    split <;> exact ⟨_, rfl⟩
  | staleCompletion who i gen status d =>
    show ∃ t, execStaleCompletion who i gen status d s = .next t
    unfold execStaleCompletion
    split <;> exact ⟨_, rfl⟩
  | transitTimeout p i =>
    show ∃ t, execTransitTimeout p i s = .next t
    unfold execTransitTimeout
    split <;> exact ⟨_, rfl⟩
  | switchCompletion p => exact ⟨_, rfl⟩
  | scrubCompletionOk gen =>
    show ∃ t, execScrubCompletionOk gen s = .next t
    unfold execScrubCompletionOk
    split <;> exact ⟨_, rfl⟩
  | scrubCompletionError gen =>
    show ∃ t, execScrubCompletionError gen s = .next t
    unfold execScrubCompletionError
    split <;> exact ⟨_, rfl⟩
  | scrubWriteTimeout =>
    show ∃ t, execScrubWriteTimeout s = .next t
    unfold execScrubWriteTimeout
    split <;> exact ⟨_, rfl⟩
  | loadReadCompletion gen d => exact ⟨_, rfl⟩
  | loadReadError gen => exact ⟨_, rfl⟩
  | loadReadTimeout => exact ⟨_, rfl⟩
  | microsecondTick => exact ⟨_, rfl⟩
  | millisecondTick => exact ⟨_, rfl⟩
  | offerExpiry i => exact ⟨_, rfl⟩
  | _ => exact takeRequest_completes ..

/-- Settles O7: of a line that stands asserted, phase ENDED alone decides. -/
theorem prstNDeassertEnds : Obligations.PrstNDeassertEnds := by
  intro p s asserted
  refine congrArg Host.Outcome.next (congrArg (withPort s p) ?_)
  simp only [asserted, true_and]

/-! ## Responses -/

/-- Settles O12: by the discard mark and the port's state. -/
theorem responseFreesSlot : Obligations.ResponseFreesSlot := by
  intro s p t q v results found
  rw [respond_eq]
  unfold PortRec.responded
  rw [found]
  dsimp only
  by_cases dropped : q.discard = true ∨ (s.port p).state ≠ .up
  · rw [if_pos dropped, if_pos (by simpa using dropped)]
    rfl
  · rw [if_neg dropped, if_neg (by simpa using dropped)]
    rfl

/-- Settles O48: the switch is due, and completing it is binding its target and answering its BIND. -/
theorem switchCompletes : Obligations.SwitchCompletes := by
  intro s p target t switching drained
  have due : switchDue (s.port p) = true := by
    unfold switchDue
    rw [switching]
    exact beq_iff_eq.2 drained
  refine congrArg Host.Outcome.next ((if_pos due).trans ?_)
  unfold completeSwitch
  rw [switching]
  rfl

/-! ## RELEASE, refused (R15) -/

/-- The checks 2 to 7 of R15 for a context and a frame in range. -/
theorem releaseCheck_of_operands {ops : List Byte} {c : Ctx} {f : Frame} (hc : operandCtx ops 4 = some c)
    (hf : operandFrame ops 6 = some f) (s : State) (p : Port) :
    releaseCheck s p ops = (releaseRefusal s p c f).elim (.ok (c, f)) fun v => .error (v, []) := by
  have shared (hs : List Holder) (holder : c ∈ hs.map Holder.ctx) : hs.tail.isEmpty = false ↔ 1 < hs.length := by
    cases hs with
    | nil => cases holder
    | cons h rest => cases rest <;> simp
  unfold releaseCheck releaseRefusal
  simp only [hc, hf, actingFault_eq, Bool.not_eq_true', ← Bool.not_eq_true, holds_iff, originOf_eq]
  by_cases howner : (s.ctx c).owner ≠ some p
  · rw [if_pos howner, if_pos howner]
    rfl
  rw [if_neg howner, if_neg howner]
  by_cases hlive : (s.ctx c).state ≠ .live
  · rw [if_pos hlive, if_pos hlive]
    rfl
  rw [if_neg hlive, if_neg hlive]
  by_cases hheld : (s.frame f).state ≠ .held
  · rw [if_pos hheld, if_pos hheld]
    rfl
  rw [if_neg hheld, if_neg hheld]
  by_cases hholder : c ∉ (s.frame f).holders.map Holder.ctx
  · rw [if_pos hholder, if_pos hholder]
    rfl
  rw [if_neg hholder, if_neg hholder]
  by_cases horigin : ((s.frame f).holders.map Holder.ctx).head? ≠ some c
  · rw [if_pos horigin, if_pos horigin]
    rfl
  rw [if_neg horigin, if_neg horigin]
  by_cases hshared : 1 < (s.frame f).holders.length
  · rw [if_pos hshared, if_pos (by rw [Bool.not_eq_true, shared _ (not_not.1 hholder)]; exact hshared)]
    rfl
  · rw [if_neg hshared, if_neg (by rw [Bool.not_eq_true, shared _ (not_not.1 hholder)]; exact hshared)]
    rfl

/-- Settles O16, by R15's checks: what refuses is answered, and nothing else is changed. -/
theorem releaseRefused : Obligations.ReleaseRefused := by
  intro s p t q c f requested hc hf
  have check := releaseCheck_of_operands hc hf s p
  cases refusal : releaseRefusal s p c f with
  | none => exact trivial
  | some v =>
    rw [refusal] at check
    refine (takeRequest_of_requested requested _).trans (congrArg _ ?_)
    rw [check]
    exact serveChecked_error_of_requested requested v [] _

/-! ## FRAME_INFO and DEVICE_INFO (R18, R19) -/

/-- A count over a table by its numbers. -/
theorem countP_toList {α : Type} {n : Nat} (v : Vector α n) (test : α → Bool) :
    v.toArray.toList.countP test = count fun i => test (v.get i) := by
  have entries : v.toArray.toList = (List.finRange n).map fun i => v.get i :=
    (List.map_id _).symm.trans (map_toList_eq v id)
  rw [entries, List.countP_map]
  rfl

theorem ownsHolder_iff (s : State) (p : Port) (hs : List Holder) :
    ownsHolder s p hs = true ↔ ∃ h ∈ hs, (s.ctx h.ctx).owner = some p := by
  unfold ownsHolder ownedBy
  simp only [List.any_eq_true, beq_iff_eq]

/-- Settles O18: both are answers by what the tables hold. -/
theorem frameAndDeviceInfoReport : Obligations.FrameAndDeviceInfoReport := by
  constructor
  · intro s p t q f requested hf
    refine (takeRequest_of_requested requested _).trans (congrArg _ ?_)
    rw [respond_of_requested requested]
    unfold frameInfoReply
    rw [hf]
    simp only [ownsHolder_iff]
    split_ifs with shown
    · unfold frameInfoResults
      rw [shown.1]
      rfl
    · rfl
  · intro s p t q requested figures
    refine (takeRequest_of_requested requested _).trans (congrArg _ ?_)
    rw [respond_of_requested requested]
    unfold deviceFigures frameCount offerCount
    simp only [countP_toList]
    rfl

/-! ## CONTEXT_INFO (R32) -/

/-- Settles O22: the record is reported, and of its owner port whether the context is bound, and whether a switch is under way. -/
theorem contextInfoReportsRecord : Obligations.ContextInfoReportsRecord := by
  intro s p t q c requested hc x binding
  have code : bindingCode s c = binding := by
    unfold bindingCode
    show (match x.owner with | none => 0 | some p => _) = binding
    dsimp only [binding]
    cases x.owner with
    | none => rfl
    | some o =>
      dsimp only
      cases way : (s.port o).binding with
      | settled =>
        dsimp only
        rw [if_pos rfl, if_neg (c := ∃ u, Binding.settled = Binding.switching c u) (by rintro ⟨u, h⟩; cases h)]
      | switching target u =>
        dsimp only
        rw [if_neg (c := Binding.switching target u = Binding.settled) nofun]
        have same : (∃ v, Binding.switching target u = Binding.switching c v) ↔ target = c :=
          ⟨by rintro ⟨v, h⟩; injection h, by rintro rfl; exact ⟨u, rfl⟩⟩
        simp only [same]
  refine (takeRequest_of_requested requested _).trans (congrArg _ ?_)
  rw [respond_of_requested requested]
  unfold contextInfoReply
  rw [hc]
  dsimp only
  rw [code]
  rfl

/-! ## MAP_CLEAR and PROBE (R52, R53) -/

/-- The checks of R52 and R53 for a context and a page in range. -/
theorem pageCheck_of_operands {ops : List Byte} {c : Ctx} {g : Page} (hc : operandCtx ops 4 = some c)
    (hg : operandPage ops 5 = some g) (s : State) (p : Port) :
    pageCheck s p ops =
      if (s.ctx c).owner ≠ some p then .error (.notOwner, [])
      else if (s.ctx c).state ≠ .live then .error (.notLive, [])
      else .ok (c, g) := by
  unfold pageCheck
  simp only [hc, hg, actingFault_eq]
  split_ifs <;> rfl

/-- Clearing a valid entry: it is invalid, and its frame's and its context's counts fall (R48). -/
theorem clearEntry_of_valid {s : State} {c : Ctx} {g : Page} {old : MapEntry} (h : s.entry c g = some old) :
    clearEntry s c g = modCtx (lowerMapCount (s.setEntry c g none) old.frame) c
      fun x => { x with validCount := x.validCount - 1 } := by
  unfold clearEntry
  rw [h]

theorem clearEntry_of_invalid {s : State} {c : Ctx} {g : Page} (h : s.entry c g = none) : clearEntry s c g = s := by
  unfold clearEntry
  rw [h]

/-- The frame that the entry named loses one of its map count (R7). -/
theorem frame_clearEntry (s : State) (c : Ctx) (g : Page) (k : Frame) :
    (clearEntry s c g).frame k = { s.frame k with mapCount :=
      (s.frame k).mapCount - (if (s.entry c g).map MapEntry.frame = some k then 1 else 0) } := by
  cases h : s.entry c g with
  | none =>
    rw [clearEntry_of_invalid h]
    rfl
  | some old =>
    rw [clearEntry_of_valid h]
    by_cases hk : k = old.frame
    · subst hk
      simp
    · simp [hk, Ne.symm hk]

/-- Beside frame records and map tables, clearing an entry only counts it, where it was valid. -/
theorem clearEntry_beside_tables (s : State) (c : Ctx) (g : Page) :
    { clearEntry s c g with frames := s.frames, maps := s.maps } =
      if s.entry c g = none then s else withCtx s c { s.ctx c with validCount := (s.ctx c).validCount - 1 } := by
  cases h : s.entry c g with
  | none =>
    rw [clearEntry_of_invalid h]
    rfl
  | some old =>
    rw [clearEntry_of_valid h]
    rfl

theorem port_clearEntry (s : State) (c : Ctx) (g : Page) (p : Port) : (clearEntry s c g).port p = s.port p := by
  rw [clearEntry_frame]
  rfl

/-- Settles O25, by R52's checks: past them the entry is invalid, and its former content answered. -/
theorem mapClearInvalidatesEntry : Obligations.MapClearInvalidatesEntry := by
  intro s p t q c g requested hc hg
  refine ⟨_, takeRequest_of_requested requested _, ?_⟩
  rw [pageCheck_of_operands hc hg]
  have refused (v : Verdict) (effect : Ctx × Page → State) := serveChecked_error_of_requested requested v [] effect
  split_ifs with howner hlive
  · exact refused .notOwner _
  · exact refused .notLive _
  · have cleared : Requested (clearEntry s c g) p t .mapClear q := requested.of_port_eq (port_clearEntry s c g p)
    rw [serveChecked_ok, respond_of_requested cleared]
    refine ⟨fun d h => entry_clearEntry s c d g h, frame_clearEntry s c g, ?_⟩
    rw [answer_beside_tables, clearEntry_beside_tables]
    cases s.entry c g <;> rfl

/-- Settles O26, by R53's checks: past them the entry is answered, with its frame's state and the context's holder rights. -/
theorem probeReadsEntry : Obligations.ProbeReadsEntry := by
  intro s p t q c g requested hc hg
  refine (takeRequest_of_requested requested _).trans (congrArg _ ?_)
  rw [pageCheck_of_operands hc hg]
  refine serveChecked_ite_of_requested requested fun _ => serveChecked_ite_of_requested requested fun _ => ?_
  rw [serveChecked_ok, respond_of_requested requested]
  unfold probeReply holderRightsCode holderOf
  cases s.entry c g <;> rfl

end Sys2Proof.Machine
end

section
/-! PROOFS. The forms of requests (11.1, 11.2): operand fields at their offsets, and operands out of the ranges of their
fields. -/

namespace Sys2Proof.Machine

open Sys2Proof

/-! ## Fields -/

theorem toNat_byteOf (n : Nat) : (byteOf n).toNat = n % 256 := BitVec.toNat_ofNat n 8

/-- A 16-bit field is read as it is written (R184). -/
theorem le16_read {n : Nat} (h : n < 65536) : (byteOf n).toNat + 256 * (byteOf (n / 256)).toNat = n := by
  rw [toNat_byteOf, toNat_byteOf]
  omega

theorem operandByte_eq (ops : List Byte) (i : Nat) : operandByte ops i = (ops.getD (i - 4) 0).toNat := rfl

theorem operandWord_eq (ops : List Byte) (i : Nat) (le : 4 ≤ i) :
    operandWord ops i = operandByte ops i + 256 * operandByte ops (i + 1) := by
  unfold operandWord wordAt operandByte
  rw [Nat.sub_add_comm le]

theorem operandCtx_of_byte {ops : List Byte} {i : Nat} {c : Ctx} (h : operandByte ops i = c.val) :
    operandCtx ops i = some c := by
  unfold operandCtx
  simp only [h, c.isLt, dite_true]

theorem operandTag_of_byte {ops : List Byte} {i : Nat} {t : Tag} (h : operandByte ops i = t.val) :
    operandTag ops i = some t := by
  unfold operandTag
  simp only [h, t.isLt, dite_true]

theorem operandPage_of_byte {ops : List Byte} {i : Nat} {g : Page} (h : operandByte ops i = g.val) :
    operandPage ops i = some g := by
  unfold operandPage
  simp only [h, g.isLt, dite_true]

theorem operandFrame_of_word {ops : List Byte} {i : Nat} {f : Frame} (h : operandWord ops i = f.val) :
    operandFrame ops i = some f := by
  unfold operandFrame
  simp only [h, f.isLt, dite_true]

/-! ## The table of request codes (11.2) -/

theorem kindOfCode_code (k : RequestKind) : kindOfCode k.code = some k := by cases k <;> rfl

/-- Only a kind's own code names it. -/
theorem code_of_kindOfCode {b : Byte} {k : RequestKind} (h : kindOfCode b = some k) : b = k.code := by
  apply BitVec.eq_of_toNat_eq
  unfold kindOfCode at h
  split at h <;> first | (cases h; assumption) | cases h

/-- Settles O10, field by field. -/
theorem requestFormsOfTheTable : Obligations.RequestFormsOfTheTable := by
  refine ⟨fun b k => ⟨code_of_kindOfCode, fun h => h ▸ kindOfCode_code k⟩, fun k => by cases k <;> decide, ?_, ?_⟩
  · intro c d f g r n tail
    have small {m k : Nat} (h : m < k) (hk : k ≤ 256) : (byteOf m).toNat = m := by
      rw [toNat_byteOf, Nat.mod_eq_of_lt (by omega)]
    have ctx (e : Ctx) : (ctxCode e).toNat = e.val := small e.isLt (by decide)
    have frame : (byteOf f.val).toNat + 256 * (byteOf (f.val / 256)).toNat = f.val := le16_read (by have := f.isLt; omega)
    have word : (byteOf n.toNat).toNat + 256 * (byteOf (n.toNat / 256)).toNat = n.toNat := le16_read n.isLt
    refine ⟨operandCtx_of_byte (ctx c), operandCtx_of_byte (ctx d), operandPage_of_byte (small g.isLt (by decide)),
      operandFrame_of_word frame, ?_, word, ?_⟩
    · cases r <;> rfl
    · refine (congrArg (BitVec.ofNat 16) word).trans ?_
      exact BitVec.ofNat_toNat 16 n |>.trans (BitVec.setWidth_eq n)
  · intro b4 b5 b6 b7 b8 b9 b10 b11 b12 b13 b14 b15 i classes n tail
    have word : (byteOf n.toNat).toNat + 256 * (byteOf (n.toNat / 256)).toNat = n.toNat := le16_read n.isLt
    refine ⟨operandTag_of_byte ?_, ?_, rfl, rfl, word, word, ?_⟩
    · show (byteOf i.val).toNat = i.val
      rw [toNat_byteOf, Nat.mod_eq_of_lt (by omega)]
    · apply BitVec.eq_of_toNat_eq
      show (BitVec.ofNat 4 (classes.setWidth 8).toNat).toNat = _
      rw [BitVec.toNat_ofNat, BitVec.toNat_setWidth]
      omega
    · apply BitVec.eq_of_toNat_eq
      show (BitVec.ofNat 32 (b12.toNat + 256 * b13.toNat + 65536 * (b14.toNat + 256 * b15.toNat))).toNat = _
      simp only [BitVec.toNat_ofNat, BitVec.toNat_append, Nat.shiftLeft_eq]
      rw [← Nat.shiftLeft_eq, ← Nat.shiftLeft_eq, ← Nat.shiftLeft_eq]
      rw [← Nat.shiftLeft_add_eq_or_of_lt b12.isLt, ← Nat.shiftLeft_add_eq_or_of_lt b13.isLt,
        ← Nat.shiftLeft_add_eq_or_of_lt b14.isLt]
      simp only [Nat.shiftLeft_eq]
      omega

/-! ## Operands out of range (R184) -/

theorem operandCtx_eq_none (ops : List Byte) (i : Nat) : operandCtx ops i = none ↔ 16 ≤ operandByte ops i := by
  unfold operandCtx
  split <;> simp <;> omega

theorem operandTag_eq_none (ops : List Byte) (i : Nat) : operandTag ops i = none ↔ 16 ≤ operandByte ops i := by
  unfold operandTag
  split <;> simp <;> omega

theorem operandPage_eq_none (ops : List Byte) (i : Nat) : operandPage ops i = none ↔ 128 ≤ operandByte ops i := by
  unfold operandPage
  split <;> simp <;> omega

theorem operandFrame_eq_none (ops : List Byte) (i : Nat) : operandFrame ops i = none ↔ 4096 ≤ operandWord ops i := by
  unfold operandFrame
  split <;> simp <;> omega

theorem operandRights_eq_none (ops : List Byte) (i : Nat) :
    operandRights ops i = none ↔ operandByte ops i < 1 ∨ 2 < operandByte ops i := by
  unfold operandRights
  generalize operandByte ops i = n
  match n with
  | 0 => simp [rightsOfCode]
  | 1 => simp [rightsOfCode]
  | 2 => simp [rightsOfCode]
  | n + 3 => simp [rightsOfCode]

/-- The tests of `operandsOutOfRange` in terms of the fields. -/
theorem operandsOutOfRange_iff (k : RequestKind) (ops : List Byte) :
    operandsOutOfRange k ops = true ↔
      match k with
      | .claim => operandCtx ops 4 = none ∨ operandByte ops 5 < 1 ∨ 8 < operandByte ops 5
      | .release | .leave => operandCtx ops 4 = none ∨ operandFrame ops 6 = none
      | .frameInfo => operandFrame ops 6 = none
      | .deviceInfo | .create => False
      | .destroy => operandByte ops 4 < 4 ∨ 15 < operandByte ops 4
      | .cede => operandCtx ops 4 = none ∨ operandCtx ops 5 = none ∨ operandWord ops 6 < 1 ∨ 4096 < operandWord ops 6
      | .contextInfo | .bind => operandCtx ops 4 = none
      | .mapSet =>
        operandCtx ops 4 = none ∨ operandPage ops 5 = none ∨ operandFrame ops 6 = none ∨ operandRights ops 8 = none
      | .mapClear | .probe => operandCtx ops 4 = none ∨ operandPage ops 5 = none
      | .mapLoad =>
        operandCtx ops 4 = none ∨ operandFrame ops 6 = none ∨
          (operandByte ops 5 < 1 ∨ 128 < operandByte ops 5 ∨ operandWord ops 8 % 8 ≠ 0 ∨
            8192 < operandWord ops 8 + 8 * operandByte ops 5)
      | .loadCancel | .accept | .decline | .retract => operandTag ops 4 = none
      | .offer =>
        operandCtx ops 4 = none ∨ operandCtx ops 5 = none ∨ operandFrame ops 6 = none ∨ operandRights ops 8 = none ∨
          operandWord ops 10 < 1 ∨ 4095 < operandWord ops 10
      | .revoke => operandCtx ops 4 = none ∨ operandCtx ops 5 = none ∨ operandFrame ops 6 = none
      | .fetchNotices => operandByte ops 4 < 1 ∨ 4 < operandByte ops 4 := by
  have fields : operandsOutOfRange k ops =
      let b := operandByte ops
      let w := operandWord ops
      let outside (n low high : Nat) : Bool := n < low || high < n
      match k with
      | .claim => 16 ≤ b 4 || outside (b 5) 1 8
      | .release => 16 ≤ b 4 || 4096 ≤ w 6
      | .frameInfo => 4096 ≤ w 6
      | .deviceInfo => false
      | .create => false
      | .destroy => outside (b 4) 4 15
      | .cede => 16 ≤ b 4 || 16 ≤ b 5 || outside (w 6) 1 4096
      | .contextInfo => 16 ≤ b 4
      | .bind => 16 ≤ b 4
      | .mapSet => 16 ≤ b 4 || 128 ≤ b 5 || 4096 ≤ w 6 || outside (b 8) 1 2
      | .mapClear => 16 ≤ b 4 || 128 ≤ b 5
      | .probe => 16 ≤ b 4 || 128 ≤ b 5
      | .mapLoad => 16 ≤ b 4 || outside (b 5) 1 128 || 4096 ≤ w 6 || w 8 % 8 != 0 || 8192 < w 8 + 8 * b 5
      | .loadCancel => 16 ≤ b 4
      | .offer => 16 ≤ b 4 || 16 ≤ b 5 || 4096 ≤ w 6 || outside (b 8) 1 2 || outside (w 10) 1 4095
      | .accept => 16 ≤ b 4
      | .decline => 16 ≤ b 4
      | .retract => 16 ≤ b 4
      | .leave => 16 ≤ b 4 || 4096 ≤ w 6
      | .revoke => 16 ≤ b 4 || 16 ≤ b 5 || 4096 ≤ w 6
      | .fetchNotices => outside (b 4) 1 4 := by
    cases k <;> rfl
  rw [fields]
  simp only [operandCtx_eq_none, operandTag_eq_none, operandPage_eq_none, operandFrame_eq_none, operandRights_eq_none]
  cases k <;> simp only [Bool.or_eq_true, decide_eq_true_eq, bne_iff_ne, ne_eq, Bool.false_eq_true] <;> tauto

/-! ### Each check refuses them -/

variable {s : State} {p : Port} {ops : List Byte}

theorem claimCheck_of_outOfRange (h : operandsOutOfRange .claim ops = true) : claimCheck s p ops = refuse .badOperand := by
  unfold claimCheck
  cases hc : operandCtx ops 4 with
  | none => rfl
  | some c =>
    have range := ((operandsOutOfRange_iff .claim ops).1 h).resolve_left (by rw [hc]; nofun)
    exact if_pos range

theorem releaseCheck_of_outOfRange (h : operandsOutOfRange .release ops = true) :
    releaseCheck s p ops = refuse .badOperand := by
  unfold releaseCheck
  rcases (operandsOutOfRange_iff .release ops).1 h with hc | hf
  · rw [hc]
  · rw [hf]
    cases operandCtx ops 4 <;> rfl

theorem destroyCheck_of_outOfRange (h : operandsOutOfRange .destroy ops = true) :
    destroyCheck s p ops = refuse .badOperand := by
  unfold destroyCheck
  cases hc : operandCtx ops 4 with
  | none => rfl
  | some c =>
    refine if_pos ?_
    have range := (operandsOutOfRange_iff .destroy ops).1 h
    have small : operandByte ops 4 < 16 := by
      by_contra large
      rw [(operandCtx_eq_none ops 4).2 (not_lt.1 large)] at hc
      cases hc
    have value : c.val = operandByte ops 4 := by
      unfold operandCtx at hc
      rw [dif_pos small] at hc
      injection hc with hc
      exact congrArg Fin.val hc.symm
    have home : c.val < 4 := by omega
    simp [pooled, home]

theorem cedeCheck_of_outOfRange (h : operandsOutOfRange .cede ops = true) : cedeCheck s p ops = refuse .badOperand := by
  unfold cedeCheck
  cases ha : operandCtx ops 4 with
  | none => rfl
  | some a =>
    cases hb : operandCtx ops 5 with
    | none => rfl
    | some b =>
      have range := (((operandsOutOfRange_iff .cede ops).1 h).resolve_left (by rw [ha]; nofun)).resolve_left
        (by rw [hb]; nofun)
      exact if_pos range

theorem contextInfoReply_of_outOfRange (h : operandsOutOfRange .contextInfo ops = true) :
    contextInfoReply s ops = (.badOperand, []) := by
  unfold contextInfoReply
  rw [(operandsOutOfRange_iff .contextInfo ops).1 h]

theorem frameInfoReply_of_outOfRange (h : operandsOutOfRange .frameInfo ops = true) :
    frameInfoReply s p ops = (.badOperand, []) := by
  unfold frameInfoReply
  rw [(operandsOutOfRange_iff .frameInfo ops).1 h]

theorem bindCheck_of_outOfRange (h : operandsOutOfRange .bind ops = true) : bindCheck s p ops = refuse .badOperand := by
  unfold bindCheck
  rw [(operandsOutOfRange_iff .bind ops).1 h]

theorem mapSetCheck_of_outOfRange (h : operandsOutOfRange .mapSet ops = true) :
    mapSetCheck s p ops = refuse .badOperand := by
  unfold mapSetCheck
  rcases (operandsOutOfRange_iff .mapSet ops).1 h with hc | hg | hf | hr
  · rw [hc]
  · rw [hg]
    cases operandCtx ops 4 <;> rfl
  · rw [hf]
    cases operandCtx ops 4 <;> cases operandPage ops 5 <;> rfl
  · rw [hr]
    cases operandCtx ops 4 <;> cases operandPage ops 5 <;> cases operandFrame ops 6 <;> rfl

theorem pageCheck_of_outOfRange (h : operandCtx ops 4 = none ∨ operandPage ops 5 = none) :
    pageCheck s p ops = refuse .badOperand := by
  unfold pageCheck
  rcases h with hc | hg
  · rw [hc]
  · rw [hg]
    cases operandCtx ops 4 <;> rfl

theorem mapLoadCheck_of_outOfRange {t : Tag} (h : operandsOutOfRange .mapLoad ops = true) :
    mapLoadCheck s p t ops = refuse .badOperand := by
  unfold mapLoadCheck
  cases hc : operandCtx ops 4 with
  | none => rfl
  | some c =>
    cases hf : operandFrame ops 6 with
    | none => rfl
    | some f =>
      have range := (((operandsOutOfRange_iff .mapLoad ops).1 h).resolve_left (by rw [hc]; nofun)).resolve_left
        (by rw [hf]; nofun)
      have bad : goodList (operandWord ops 8) (operandByte ops 5) = false :=
        (goodList_eq_false_iff _ _).2 (by omega)
      dsimp only
      rw [bad]
      rfl

theorem loadCancelCheck_of_outOfRange (h : operandsOutOfRange .loadCancel ops = true) :
    loadCancelCheck s p ops = refuse .badOperand := by
  unfold loadCancelCheck
  rw [(operandsOutOfRange_iff .loadCancel ops).1 h]

theorem offerCheck_of_outOfRange (h : operandsOutOfRange .offer ops = true) : offerCheck s p ops = refuse .badOperand := by
  have none' : offerOperands ops = none := by
    unfold offerOperands
    rcases (operandsOutOfRange_iff .offer ops).1 h with hc | hd | hf | hr | life
    · rw [hc]
    · rw [hd]
      cases operandCtx ops 4 <;> rfl
    · rw [hf]
      cases operandCtx ops 4 <;> cases operandCtx ops 5 <;> rfl
    · rw [hr]
      cases operandCtx ops 4 <;> cases operandCtx ops 5 <;> cases operandFrame ops 6 <;> rfl
    · simp only [if_pos life]
      split <;> rfl
  unfold offerCheck
  rw [none']

theorem offerAnswerCheck_of_outOfRange {actor : OfferRec → Ctx} (h : operandTag ops 4 = none) :
    offerAnswerCheck s p actor ops = refuse .badOperand := by
  unfold offerAnswerCheck namedOffer
  rw [h]
  rfl

theorem leaveCheck_of_outOfRange (h : operandsOutOfRange .leave ops = true) : leaveCheck s p ops = refuse .badOperand := by
  unfold leaveCheck
  rcases (operandsOutOfRange_iff .leave ops).1 h with hc | hf
  · rw [hc]
  · rw [hf]
    cases operandCtx ops 4 <;> rfl

theorem revokeCheck_of_outOfRange (h : operandsOutOfRange .revoke ops = true) :
    revokeCheck s p ops = refuse .badOperand := by
  unfold revokeCheck
  rcases (operandsOutOfRange_iff .revoke ops).1 h with hc | hd | hf
  · rw [hc]
  · rw [hd]
    cases operandCtx ops 4 <;> rfl
  · rw [hf]
    cases operandCtx ops 4 <;> cases operandCtx ops 5 <;> rfl

end Sys2Proof.Machine
end

section
/-! PROOFS. Requests with operands out of range (R184). -/

namespace Sys2Proof.Machine

open Sys2Proof

/-- Settles O11, kind by kind: the first check of each is of the ranges of its operands. -/
theorem operandsOutOfRangeRefused : Obligations.OperandsOutOfRangeRefused := by
  intro k s p t q requested outside
  have refused {α : Type} {check : Except Reply α} (h : check = refuse .badOperand) (effect : α → State) :
      serveChecked s p t check effect = answer s p t k .badOperand [] := by
    rw [h]
    exact serveChecked_error_of_requested requested .badOperand [] effect
  have fields := (operandsOutOfRange_iff k q.operands).1 outside
  have taken (serve : ControlSlot → State) (served : serve q = answer s p t k .badOperand []) :
      takeRequest s p t k serve = .next (answer s p t k .badOperand []) :=
    (takeRequest_of_requested requested serve).trans (congrArg _ served)
  cases k with
  | claim => exact taken _ (refused (claimCheck_of_outOfRange outside) _)
  | release => exact taken _ (refused (releaseCheck_of_outOfRange outside) _)
  | frameInfo =>
    refine taken _ ?_
    rw [frameInfoReply_of_outOfRange outside]
    exact respond_of_requested requested _ _
  | deviceInfo => exact fields.elim
  | create => exact fields.elim
  | destroy => exact taken _ (refused (destroyCheck_of_outOfRange outside) _)
  | cede => exact taken _ (refused (cedeCheck_of_outOfRange outside) _)
  | contextInfo =>
    refine taken _ ?_
    rw [contextInfoReply_of_outOfRange outside]
    exact respond_of_requested requested _ _
  | bind => exact taken _ (refused (bindCheck_of_outOfRange outside) _)
  | mapSet => exact taken _ (refused (mapSetCheck_of_outOfRange outside) _)
  | mapClear => exact taken _ (refused (pageCheck_of_outOfRange fields) _)
  | probe => exact taken _ (refused (pageCheck_of_outOfRange fields) _)
  | mapLoad => exact taken _ (refused (mapLoadCheck_of_outOfRange outside) _)
  | loadCancel => exact taken _ (refused (loadCancelCheck_of_outOfRange outside) _)
  | offer => exact taken _ (refused (offerCheck_of_outOfRange outside) _)
  | accept => exact taken _ (refused (offerAnswerCheck_of_outOfRange fields) _)
  | decline => exact taken _ (refused (offerAnswerCheck_of_outOfRange fields) _)
  | retract => exact taken _ (refused (offerAnswerCheck_of_outOfRange fields) _)
  | leave => exact taken _ (refused (leaveCheck_of_outOfRange outside) _)
  | revoke => exact taken _ (refused (revokeCheck_of_outOfRange outside) _)
  | fetchNotices => exact taken _ (refused (if_pos fields) _)

end Sys2Proof.Machine
end

section
/-! PROOFS. Notices (R180) and the promotion of an origin departure (R86). -/

namespace Sys2Proof.Machine

open Sys2Proof

/-- A port's record put back where it stands. -/
theorem State.setPort_self (s : State) (p : Port) : s.setPort p (s.port p) = s := by
  have same : (s.setPort p (s.port p)).ports = s.ports := State.ports_ext fun q => by
    rw [State.port_setPort]
    split_ifs with hq
    · rw [hq]
    · rfl
  exact congrArg (fun ports => { s with ports := ports }) same

/-! ## The promotion (R86) -/

/-- Settles O37: the reclaim exit is `reclaimExit_eq`; a promotion writes the frame and the two contexts' records. -/
theorem reclaimExitAndPromotion : Obligations.ReclaimExitAndPromotion := by
  refine ⟨reclaimExit_eq, fun s f c d other => ?_⟩
  have kept (h : Holder) : (h.ctx != c && h.ctx != d) = decide (h.ctx ≠ c ∧ h.ctx ≠ d) := by
    rw [Bool.eq_iff_iff]
    simp
  unfold promote
  rw [modCtx_eq, ctx_modCtx, if_neg other]
  simp only [kept]
  rfl

/-! ## The order of placement (R180) -/

/-- The place of a notice in the order of its event: faults of accesses, then what end steps tell, then the offers by id. -/
def Notice.rank : Notice → Nat
  | .accessFault _ _ _ _ => 0
  | .memoryFault _ _ _ _ => 0
  | .offerArrived i _ _ _ _ _ _ => 2 + i.val
  | .offerEnded i _ _ _ => 2 + i.val
  | .shareLost _ _ _ => 1
  | .shareLeft _ _ => 1
  | .originInherited _ _ => 1
  | .quotaReceived _ _ _ => 1

theorem Notice.group_eq_one (n : Notice) : (n.group == 1) = (n.rank == 0) := by
  cases n <;> simp [group, rank]

theorem Notice.group_eq_two (n : Notice) : (n.group == 2) = (n.rank == 1) := by
  cases n <;> simp [group, rank] <;> omega

theorem Notice.offerId_eq (n : Notice) (i : OfferId) : (n.offerId == some i) = (n.rank == i.val + 2) := by
  rw [Bool.eq_iff_iff, beq_iff_eq, beq_iff_eq]
  cases n <;> simp only [offerId, rank, Option.some.injEq, Fin.ext_iff, reduceCtorEq, false_iff] <;> omega

theorem inNoticeOrder_eq (ns : List Notice) :
    inNoticeOrder ns = (List.range 18).flatMap fun k => ns.filter fun n => n.rank == k := by
  have ranks : List.range 18 = 0 :: 1 :: (List.finRange 16).map fun i => i.val + 2 := by decide
  rw [ranks, List.flatMap_cons, List.flatMap_cons, List.flatMap_map]
  unfold inNoticeOrder
  simp only [Notice.group_eq_one, Notice.group_eq_two, Notice.offerId_eq, List.append_assoc]

/-- Notices placed one after the other at a port that is UP: the queue takes what it has room for, and the rest is counted. -/
theorem foldl_noticed {r : PortRec} (up : r.state = .up) (ns : List Notice) :
    ns.foldl PortRec.noticed r =
      { r with
        notices := r.notices ++ (ns.take (16 - r.notices.length)).map Notice.record
        dropped := if ns.length ≤ 16 - r.notices.length then r.dropped
          else min 255 (r.dropped + (ns.length - (16 - r.notices.length))) } := by
  induction ns generalizing r with
  | nil => simp
  | cons n ns ih =>
    rw [List.foldl_cons]
    by_cases room : r.notices.length < 16
    · have first : r.noticed n = { r with notices := r.notices ++ [n.record] } := (if_pos up).trans (if_pos room)
      obtain ⟨k, hk⟩ : ∃ k, 16 - r.notices.length = k + 1 := ⟨15 - r.notices.length, by omega⟩
      have hk' : 16 - (r.notices ++ [n.record]).length = k := by
        rw [List.length_append, List.length_singleton]
        omega
      rw [first, ih (by exact up)]
      dsimp only
      rw [hk, hk', List.take_succ_cons, List.map_cons, List.append_assoc, List.length_cons, Nat.add_sub_add_right]
      simp only [Nat.add_le_add_iff_right]
      rfl
    · have first : r.noticed n = { r with dropped := min 255 (r.dropped + 1) } := (if_pos up).trans (if_neg room)
      have full : 16 - r.notices.length = 0 := by omega
      rw [first, ih (by exact up)]
      dsimp only
      rw [full, List.take_zero, List.take_zero, List.length_cons, if_neg (Nat.not_succ_le_zero _)]
      congr 1
      split_ifs <;> omega

/-- At a port that is not UP the notices of the event are discarded. -/
theorem foldl_noticed_of_not_up {r : PortRec} (down : r.state ≠ .up) (ns : List Notice) :
    ns.foldl PortRec.noticed r = r := by
  induction ns with
  | nil => rfl
  | cons n ns ih =>
    have first : r.noticed n = r := if_neg down
    rw [List.foldl_cons, first, ih]

theorem length_record (n : Notice) : n.record.length = 16 := by
  cases n <;> simp [Notice.record, le16, le24, zeros]

/-- Settles O13: the order of R180, and what the queue has room for. -/
theorem noticePlacedAtTail : Obligations.NoticePlacedAtTail := by
  refine ⟨?_, fun s p n => ⟨?_, length_record n, ?_⟩⟩
  · intro s p r rank inOrder room
    refine ⟨rfl, ?_⟩
    have order : inOrder = inNoticeOrder r.arriving := by
      rw [inNoticeOrder_eq]
      have ranks : rank = Notice.rank := by
        funext n
        cases n <;> rfl
      show ((List.range 18).flatMap fun k => r.arriving.filter fun n => rank n == k) = _
      rw [ranks]
    rw [port_placeNotices, order]
    unfold PortRec.placed
    by_cases up : r.state = .up
    · rw [if_neg (not_not.2 up)]
      exact foldl_noticed (r := { r with arriving := [] }) up _
    · rw [if_pos up]
      exact foldl_noticed_of_not_up (r := { r with arriving := [] }) up _
  · show s.setPort p ((s.port p).notified n) = _
    unfold PortRec.notified
    split_ifs
    · rfl
    · exact State.setPort_self s p
  · show s.setPort p ((s.port p).noticed n) = _
    unfold PortRec.noticed
    by_cases up : (s.port p).state = .up
    · rw [if_pos up, if_neg (not_not.2 up)]
      exact apply_ite (s.setPort p) ..
    · rw [if_neg up, if_pos up]
      exact State.setPort_self s p

end Sys2Proof.Machine
end

section
/-! PROOFS. The access path: arrival and acceptance (R120, R121), the arbiter (R126 to R128, R111, R142). -/

namespace Sys2Proof.Machine

open Sys2Proof

/-! ## Acceptance (R120, R121) -/

theorem freeSlot_isSome_iff (r : PortRec) : (freeSlot r).isSome = true ↔ ¬ ∀ i, (r.slot i).entry ≠ none := by
  unfold freeSlot
  rw [List.find?_isSome]
  simp [Option.isNone_iff_eq_none]

theorem openPlainLane_eq (r : PortRec) : openPlainLane r = if r.binding = .settled then r.plainLane else [] := by
  unfold openPlainLane
  cases r.binding with
  | settled => rfl
  | switching c t => rfl

/-- Settles O42: an acceptance by the port's state, its slots, its binding and the lane taken last. -/
theorem oneAccessIsAccepted : Obligations.OneAccessIsAccepted := by
  intro p s r plain
  refine congrArg Host.Outcome.next ?_
  unfold acceptOne
  have open' : openPlainLane (s.port p) = plain := openPlainLane_eq _
  have accepts : (portUp s p && (freeSlot (s.port p)).isSome) = true ↔ ¬ (r.state ≠ .up ∨ ∀ i, (r.slot i).entry ≠ none) := by
    rw [Bool.and_eq_true, portUp_iff, freeSlot_isSome_iff, not_or, not_not]
  rw [open']
  by_cases closed : r.state ≠ .up ∨ ∀ i, (r.slot i).entry ≠ none
  · rw [if_pos closed, if_neg (accepts.not.2 (not_not.2 closed))]
  · rw [if_neg closed, if_pos (accepts.2 closed)]
    clear_value plain
    dsimp only [r]
    cases plain with
    | nil => cases (s.port p).elevatedLane <;> rfl
    | cons a restA =>
      cases lane : (s.port p).elevatedLane with
      | nil =>
        dsimp only
        rw [← lane]
        rfl
      | cons b restB =>
        cases (s.port p).lastLane with
        | plain => rfl
        | elevated =>
          dsimp only
          rw [← lane]
          rfl

/-- Settles O41: an arrival at a port that is UP is an acceptance with the access at its lane. -/
theorem accessArrivalStandsAtLane : Obligations.AccessArrivalStandsAtLane := by
  intro p a s r stands
  refine ⟨fun down => ?_, fun up => ?_⟩
  · exact congrArg Host.Outcome.next (if_neg (mt (portUp_iff s p).1 down))
  · have pushed : pushLane s p a = stands := by
      unfold pushLane
      dsimp only [stands]
      cases a.mode <;> rfl
    refine ⟨acceptOne stands p, ?_, rfl⟩
    exact congrArg Host.Outcome.next ((if_pos ((portUp_iff s p).2 up)).trans (by rw [pushed]))

/-! ## The ring (R125, R126, R128) -/

theorem mem_ring (r : MemoryRequester) : r ∈ ring := by
  cases r with
  | port p => revert p; decide
  | scrub => decide
  | load => decide

theorem idxOf_ringFrom_lt (a r : MemoryRequester) : (ringFrom a).idxOf r < 6 := by
  have all : ∀ a ∈ ring, ∀ r ∈ ring, (ringFrom a).idxOf r < 6 := by decide
  exact all a (mem_ring a) r (mem_ring r)

/-- A grant to a requester nearer the pointer brings those behind it nearer (R126). -/
theorem idxOf_ringAfter_lt {a g r : MemoryRequester} (nearer : (ringFrom a).idxOf g < (ringFrom a).idxOf r) :
    (ringFrom (ringAfter g)).idxOf r < (ringFrom a).idxOf r := by
  have all : ∀ a ∈ ring, ∀ g ∈ ring, ∀ r ∈ ring, (ringFrom a).idxOf g < (ringFrom a).idxOf r →
      (ringFrom (ringAfter g)).idxOf r < (ringFrom a).idxOf r := by decide
  exact all a (mem_ring a) g (mem_ring g) r (mem_ring r) nearer

theorem mem_ringFrom (a r : MemoryRequester) : r ∈ ringFrom a := by
  have all : ∀ a ∈ ring, ∀ r ∈ ring, r ∈ ringFrom a := by decide
  exact all a (mem_ring a) r (mem_ring r)

/-- What a search finds stands before everything else that passes. -/
theorem idxOf_le_of_find? {α : Type} [DecidableEq α] {test : α → Bool} {l : List α} {g r : α} (found : l.find? test = some g)
    (passes : test r = true) (mem : r ∈ l) : l.idxOf g ≤ l.idxOf r := by
  induction l with
  | nil => cases mem
  | cons a l ih =>
    by_cases first : test a = true
    · rw [List.find?_cons_of_pos first] at found
      injection found with found
      rw [found, List.idxOf_cons_self]
      exact Nat.zero_le _
    · rw [List.find?_cons_of_neg first] at found
      have other : a ≠ r := fun e => first (e ▸ passes)
      have other' : a ≠ g := fun e => first (e ▸ List.find?_some found)
      rw [List.idxOf_cons_ne _ other, List.idxOf_cons_ne _ other']
      exact Nat.succ_le_succ (ih found ((List.mem_cons.1 mem).resolve_left (Ne.symm other)))

theorem pointer_grant (s : State) (g : MemoryRequester) : (grant s g).pointer = ringAfter g := by
  cases g with
  | port p =>
    show (issueHead { s with pointer := ringAfter (.port p) } p).pointer = _
    unfold issueHead
    split
    · rfl
    · dsimp only
      split <;> rfl
  | scrub =>
    show (issueScrub { s with pointer := ringAfter .scrub }).pointer = _
    unfold issueScrub
    split <;> rfl
  | load =>
    show (issueLoad { s with pointer := ringAfter .load }).pointer = _
    unfold issueLoad
    split
    · rfl
    · split_ifs
      · rfl
      · rw [settle_pointer, endLoad_frame]

/-- Settles O44: the requester granted is the nearest that is requesting, and the pointer moves past it. -/
theorem grantsAreFair : Obligations.GrantsAreFair := by
  intro s t r asks run
  refine ⟨idxOf_ringFrom_lt _ _, ?_⟩
  cases found : granted s with
  | none => exact absurd asks (List.find?_eq_none.1 found r (mem_ringFrom _ _))
  | some g =>
    have run' : exec .memoryPortGrant s = .next (grant s g) := by
      show execMemoryPortGrant s = _
      unfold execMemoryPortGrant
      rw [found]
    obtain rfl : grant s g = t := by
      rw [run'] at run
      injection run
    have nearest := idxOf_le_of_find? found asks (mem_ringFrom _ _)
    have same (h : (ringFrom s.pointer).idxOf g = (ringFrom s.pointer).idxOf r) : g = r :=
      (List.idxOf_inj (mem_ringFrom _ g)).1 h
    refine ⟨g, rfl, ?_, fun front => same (by omega)⟩
    rcases nearest.eq_or_lt with h | h
    · exact .inl (same h)
    · rw [pointer_grant]
      exact .inr (idxOf_ringAfter_lt h)

/-! ## What a grant issues (R127, R111, R142) -/

theorem exec_grant {s : State} {g : MemoryRequester} (h : granted s = some g) :
    exec .memoryPortGrant s = .next (grant s g) := by
  show execMemoryPortGrant s = _
  unfold execMemoryPortGrant
  rw [h]

/-- The head of a port's issue queue is issued: its slot's entry is ISSUED at age 0, without its data. -/
theorem issueHead_of_entry {s : State} {p : Port} {i : Slot} {rest : List Slot} {e : TransitEntry}
    (head : (s.port p).issueQueue = i :: rest) (entry : ((s.port p).slot i).entry = some e) :
    issueHead s p =
      { withPort s p { s.port p with
          issueQueue := rest
          transit := (s.port p).transit.set i ⟨((s.port p).slot i).gen, some { e with phase := .issued 0, data := [] }⟩ } with
        memoryRequests := s.memoryRequests ++ [portRequest p i ((s.port p).slot i).gen e] } := by
  unfold issueHead
  rw [head]
  dsimp only
  rw [entry]
  dsimp only
  rw [modPort_modPort]
  rfl

/-- Settles O45, requester by requester. -/
theorem grantIssues : Obligations.GrantIssues := by
  intro s
  refine ⟨fun none' => ?_, fun p i rest e found head entry => ?_, fun f k found ready => ?_, fun r rest found queue => ?_⟩
  · show execMemoryPortGrant s = _
    unfold execMemoryPortGrant
    rw [none']
  · refine (exec_grant found).trans (congrArg Host.Outcome.next ?_)
    exact issueHead_of_entry (s := { s with pointer := ringAfter (.port p) }) head entry
  · refine (exec_grant found).trans (congrArg Host.Outcome.next ?_)
    show issueScrub { s with pointer := ringAfter .scrub } = _
    unfold issueScrub
    rw [ready]
    rfl
  · refine (exec_grant found).trans (congrArg Host.Outcome.next ?_)
    show issueLoad { s with pointer := ringAfter .load } = _
    unfold issueLoad
    rw [queue]
    refine ite_congr (propext (sourceHeld_iff _ _ _ _)) (fun _ => rfl) fun _ => ?_
    exact congrArg settle (congrArg runLoads rfl)

end Sys2Proof.Machine
end

section
/-! PROOFS. Completions (R129 to R136): the ends of accesses, of scrub writes (R112, R113) and what matches nothing (R129, R114). -/

namespace Sys2Proof.Machine

open Sys2Proof

/-! ## What matches nothing (R129, R114, R145) -/

/-- A completion matches an entry by its phase and the slot's generation. -/
theorem matching_eq_none {s : State} {p : Port} {i : Slot} {gen : Byte}
    (h : ((s.port p).slot i).entry = none ∨ ((s.port p).slot i).entry.map TransitEntry.phase = some .waiting ∨
      ((s.port p).slot i).gen ≠ gen) : matching s p i gen = none := by
  unfold matching
  cases entry : ((s.port p).slot i).entry with
  | none => rfl
  | some e =>
    rw [entry] at h
    cases phase : e.phase with
    | waiting => simp only [phase]
    | issued age =>
      have stale : ((s.port p).slot i).gen ≠ gen := by simpa [phase] using h
      simp only [phase, if_neg stale]

theorem scrubMatching_eq_none {s : State} {gen : Byte} (h : ∀ f k age, s.scrub = .outstanding f k age → s.writeGen ≠ gen) :
    scrubMatching s gen = none := by
  unfold scrubMatching
  cases engine : s.scrub with
  | outstanding f k age => exact if_neg (h f k age engine)
  | _ => rfl

theorem loadMatching_eq_false {s : State} {gen : Byte} (h : ∀ age, s.load = .outstanding age → s.readGen ≠ gen) :
    loadMatching s gen = false := by
  unfold loadMatching
  cases engine : s.load with
  | outstanding age => exact beq_eq_false_iff_ne.2 (h age engine)
  | _ => rfl

theorem exec_staleCompletion_of_none {s : State} {who : BitVec 3} {i : Slot} {gen : Byte} {status : Status} {d : List Byte}
    (h : completionEffect s who i gen status d = none) : exec (.staleCompletion who i gen status d) s = .next s := by
  show execStaleCompletion who i gen status d s = _
  unfold execStaleCompletion
  rw [h]

/-- A port's completion is matched at its own transit table (R189). -/
theorem completionEffect_port (s : State) (p : Port) (i : Slot) (gen : Byte) (status : Status) (d : List Byte) :
    completionEffect s (BitVec.ofNat 3 p.val) i gen status d =
      (matching s p i gen).map fun e =>
        match status with
        | .ok => completeEntry s p i e d
        | .error => failEntry s p i e .error := by
  have number : (BitVec.ofNat 3 p.val).toNat = p.val := by
    rw [BitVec.toNat_ofNat]
    omega
  have same (h : (BitVec.ofNat 3 p.val).toNat < 4) : (⟨(BitVec.ofNat 3 p.val).toNat, h⟩ : Port) = p := Fin.ext number
  unfold completionEffect
  rw [dif_pos (by omega : (BitVec.ofNat 3 p.val).toNat < 4), same]
  cases status <;> rfl

/-- Settles O47, requester by requester. -/
theorem staleCompletionsDiscarded : Obligations.StaleCompletionsDiscarded := by
  intro s i gen status d
  refine ⟨fun p h => ?_, fun h => ?_, fun h => ?_, ?_, ?_⟩
  · have none' := matching_eq_none h
    refine ⟨?_, ?_, exec_staleCompletion_of_none ?_⟩
    · show execTransitCompletionOk p i gen d s = _
      unfold execTransitCompletionOk
      rw [none']
    · show execTransitCompletionError p i gen s = _
      unfold execTransitCompletionError
      rw [none']
    · rw [completionEffect_port, none']
      rfl
  · have none' := scrubMatching_eq_none h
    refine ⟨?_, ?_, exec_staleCompletion_of_none ?_⟩
    · show execScrubCompletionOk gen s = _
      unfold execScrubCompletionOk
      rw [none']
    · show execScrubCompletionError gen s = _
      unfold execScrubCompletionError
      rw [none']
    · show (scrubMatching s gen).map _ = none
      rw [none']
      rfl
  · have none' := loadMatching_eq_false h
    have unmatched : ¬ loadMatching s gen = true := by
      rw [none']
      nofun
    exact ⟨congrArg Host.Outcome.next (if_neg unmatched), congrArg Host.Outcome.next (if_neg unmatched),
      exec_staleCompletion_of_none (if_neg unmatched)⟩
  · exact exec_staleCompletion_of_none rfl
  · exact exec_staleCompletion_of_none rfl

/-! ## Scrub writes (R112, R113) -/

theorem scrubMatching_of_outstanding {s : State} {f : Frame} {k age : Nat} (h : s.scrub = .outstanding f k age) :
    scrubMatching s s.writeGen = some (f, k) := by
  unfold scrubMatching
  rw [h]
  exact if_pos rfl

/-- Settles O49: the engine's one outstanding write, by how it ends. -/
theorem scrubWriteEnds : Obligations.ScrubWriteEnds := by
  intro s f k age current rest next retires
  have found := scrubMatching_of_outstanding current
  refine ⟨?_, ?_, fun late => ?_⟩
  · show execScrubCompletionOk s.writeGen s = _
    unfold execScrubCompletionOk
    rw [found]
    rfl
  · show execScrubCompletionError s.writeGen s = _
    unfold execScrubCompletionError
    rw [found]
    rfl
  · have timed : scrubTimedOut s = some f := by
      unfold scrubTimedOut
      rw [current]
      exact if_pos late
    show execScrubWriteTimeout s = _
    unfold execScrubWriteTimeout
    rw [timed]
    rfl

/-! ## Accesses in transit (R130 to R135) -/

/-- The port's plain entry count once entry `e` has left the transit table (R133). -/
def plainLeft (s : State) (p : Port) (e : TransitEntry) : Nat :=
  if e.mode = .plain then (s.port p).plainCount - 1 else (s.port p).plainCount

/-- `u`, which has the transit table and the withdrawals of `s`, after the entry in slot `i` is freed (R96, R133). -/
def entryFreed (s u : State) (p : Port) (i : Slot) (e : TransitEntry) : State :=
  { withPort u p
      { u.port p with
        transit := (s.port p).transit.set i ⟨((s.port p).slot i).gen, none⟩
        plainCount := plainLeft s p e } with
    withdrawals := s.withdrawals.map fun w => { w with drain := w.drain.filter fun x => x != (p, i) } }

/-- The switch that waited for the last plain entry completes on `u` (R133, R161). -/
def switchTaken (s u : State) (p : Port) (e : TransitEntry) : State :=
  match (s.port p).binding with
  | .settled => u
  | .switching target t =>
    if e.mode = .plain ∧ plainLeft s p e = 0 then
      respond (withPort u p { u.port p with bound := target, binding := .settled }) p t .done
        [byteOf (s.port p).bound.val, 0, 0, 0]
    else u

/-- The freeing of an entry reads, beside what stands in the state, only the port's transit table, count and binding, and the
withdrawals. -/
theorem freeEntry_eq {s u : State} {p : Port} {i : Slot} {e : TransitEntry}
    (transit : (u.port p).transit = (s.port p).transit) (plainCount : (u.port p).plainCount = (s.port p).plainCount)
    (binding : (u.port p).binding = (s.port p).binding) (bound : (u.port p).bound = (s.port p).bound)
    (withdrawals : u.withdrawals = s.withdrawals) :
    freeEntry u p i e = settle (acceptOne (switchTaken s (entryFreed s u p i e) p e) p) := by
  have dropped : leaveDrains (dropEntry u p i e) p i = entryFreed s u p i e := by
    rw [leaveDrains_eq, dropEntry_eq]
    unfold PortRec.slot PortRec.setSlot entryFreed plainLeft
    rw [transit, plainCount, ← withdrawals]
    rfl
  have record : (entryFreed s u p i e).port p =
      { u.port p with
        transit := (s.port p).transit.set i ⟨((s.port p).slot i).gen, none⟩
        plainCount := plainLeft s p e } := (State.port_setPort u p p _).trans (if_pos rfl)
  have count : ((entryFreed s u p i e).port p).plainCount = plainLeft s p e := by rw [record]
  have binding' : ((entryFreed s u p i e).port p).binding = (s.port p).binding := by rw [record, binding]
  have bound' : ((entryFreed s u p i e).port p).bound = (s.port p).bound := by rw [record, bound]
  unfold freeEntry
  rw [dropped]
  unfold switchAfter completeSwitch switchTaken
  rw [count, binding', bound']
  cases (s.port p).binding with
  | settled => rw [ite_self]
  | switching target t => rfl

/-- A response decided for an access leaves all of the port but its access stream. -/
theorem port_answerAccess (s : State) (p : Port) (x : AccessResponse) :
    (answerAccess s p x).port p = { s.port p with accessResponses := ((answerAccess s p x).port p).accessResponses } := by
  rw [answerAccess_eq, State.port_setPort, if_pos rfl]
  split_ifs <;> rfl

/-- The response is sent where the port is UP (R135). -/
theorem answerAccess_eq_ite (s : State) (p : Port) (x : AccessResponse) :
    answerAccess s p x =
      if (s.port p).state = .up then
        withPort s p { s.port p with accessResponses := (s.port p).accessResponses ++ [x] }
      else s := by
  rw [answerAccess_eq]
  split_ifs
  · rfl
  · exact State.setPort_self s p

theorem completeEntry_eq (s : State) (p : Port) (i : Slot) (e : TransitEntry) (d : List Byte) :
    completeEntry s p i e d =
      settle (acceptOne (switchTaken s
        (entryFreed s (answerAccess s p ⟨e.tag, .ok (if e.dir = .read then d else [])⟩) p i e) p e) p) := by
  have record := port_answerAccess s p ⟨e.tag, .ok (if e.dir = .read then d else [])⟩
  exact freeEntry_eq (by rw [record]) (by rw [record]) (by rw [record]) (by rw [record]) rfl

/-- The state in which a failing access is freed: answered, its frame marked, its port told (R131, R132). -/
def accessFailed (s : State) (p : Port) (e : TransitEntry) (x : AccessResult) (kind : MemoryFaultKind) : State :=
  address (setErrorMark (answerAccess s p ⟨e.tag, x⟩) e.frame) p (.memoryFault kind e.mode (logicalAddress e) e.frame)

theorem freeEntry_accessFailed (s : State) (p : Port) (i : Slot) (e : TransitEntry) (x : AccessResult)
    (kind : MemoryFaultKind) :
    freeEntry (accessFailed s p e x kind) p i e =
      settle (acceptOne (switchTaken s (entryFreed s (accessFailed s p e x kind) p i e) p e) p) := by
  have noted : (accessFailed s p e x kind).port p =
      ((answerAccess s p ⟨e.tag, x⟩).port p).noticed (.memoryFault kind e.mode (logicalAddress e) e.frame) :=
    (port_modPort ..).trans (if_pos rfl)
  rw [noticed_eq, port_answerAccess] at noted
  exact freeEntry_eq (by rw [noted]) (by rw [noted]) (by rw [noted]) (by rw [noted]) rfl

theorem matching_of_issued {s : State} {p : Port} {i : Slot} {e : TransitEntry} {age : Nat}
    (held : ((s.port p).slot i).entry = some e) (phase : e.phase = .issued age) :
    matching s p i ((s.port p).slot i).gen = some e := by
  unfold matching
  simp only [held, phase, if_true]

theorem timedOut_of_issued {s : State} {p : Port} {i : Slot} {e : TransitEntry} {age : Nat}
    (held : ((s.port p).slot i).entry = some e) (phase : e.phase = .issued age) (late : 200 ≤ age) :
    timedOut s p i = some e := by
  unfold timedOut
  simp only [held, phase]
  exact if_pos late

/-- Settles O46: by how the access ends, and then its entry is freed alike. -/
theorem accessEnds : Obligations.AccessEnds := by
  intro s p i e age d held phase gen answers fails left freed switched ends
  have found := matching_of_issued held phase
  have answered (x : AccessResult) : answerAccess s p ⟨e.tag, x⟩ = answers x := answerAccess_eq_ite s p ⟨e.tag, x⟩
  have failed (x : AccessResult) (kind : MemoryFaultKind) : accessFailed s p e x kind = fails x kind := by
    unfold accessFailed
    rw [answered, setErrorMark_eq]
    have frames : (answers x).frames = s.frames := by
      dsimp only [answers]
      split_ifs <;> rfl
    unfold State.frame
    rw [frames]
    rfl
  have freedBy (u : State) : settle (acceptOne (switchTaken s (entryFreed s u p i e) p e) p) = ends u := rfl
  refine ⟨?_, ?_, fun late => ?_⟩
  · have run : exec (.transitCompletionOk p i gen d) s = .next (completeEntry s p i e d) := by
      show execTransitCompletionOk p i gen d s = _
      unfold execTransitCompletionOk
      rw [found]
    rw [run, completeEntry_eq, answered, freedBy]
  · have run : exec (.transitCompletionError p i gen) s = .next (freeEntry (accessFailed s p e .memoryError .error) p i e) := by
      show execTransitCompletionError p i gen s = _
      unfold execTransitCompletionError
      rw [found]
      rfl
    rw [run, freeEntry_accessFailed, failed, freedBy]
  · have run : exec (.transitTimeout p i) s = .next (freeEntry (accessFailed s p e .memoryTimeout .timeout) p i e) := by
      show execTransitTimeout p i s = _
      unfold execTransitTimeout
      rw [timedOut_of_issued held phase late]
      rfl
    rw [run, freeEntry_accessFailed, failed, freedBy]

end Sys2Proof.Machine
end

section
/-! PROOFS. The load engine: LOAD_CANCEL (R147, R148) and the ends of a descriptor read (R143 to R146, R188). -/

namespace Sys2Proof.Machine

open Sys2Proof

/-! ## Descriptors (R188) -/

/-- A descriptor by its three fields. -/
theorem descriptorAction_of_fields {d : List Byte} {g : Page} {n : Nat} (page : byteAt d 4 = g.val) (zero : byteAt d 5 = 0)
    (bits : wordAt d 6 = n) :
    descriptorAction d =
      if n / 16384 = 1 then
        (rightsOfCode (n / 4096 % 4)).map fun r => .set g ⟨⟨n % 4096, Nat.mod_lt _ (by decide)⟩, r⟩
      else if n / 16384 = 2 then some (.clear g) else none := by
  subst bits
  unfold descriptorAction
  have small : byteAt d 4 < 128 := page ▸ g.isLt
  have same : (⟨byteAt d 4, small⟩ : Page) = g := Fin.ext page
  rw [dif_pos small, if_neg (not_not.2 zero), same]
  generalize wordAt d 6 / 16384 = action
  match action with
  | 0 => rfl
  | 1 => cases rightsOfCode (wordAt d 6 / 4096 % 4) <;> rfl
  | 2 => rfl
  | _ + 3 => rfl

theorem descriptorAction_of_page_out {d : List Byte} (h : 128 ≤ byteAt d 4) : descriptorAction d = none :=
  dif_neg (not_lt.2 h)

theorem descriptorAction_of_zero_out {d : List Byte} (h : byteAt d 5 ≠ 0) : descriptorAction d = none := by
  unfold descriptorAction
  split_ifs <;> rfl

theorem rightsOfCode_code (r : Rights) : rightsOfCode r.code.toNat = some r := by cases r <;> rfl

/-- A SET or a CLEAR is read back as it is written (R188). -/
theorem descriptorAction_written (b0 b1 b2 b3 : Byte) (g : Page) {n : Nat} (h : n < 65536) :
    descriptorAction ([b0, b1, b2, b3, byteOf g.val, 0] ++ le16 n) =
      if n / 16384 = 1 then
        (rightsOfCode (n / 4096 % 4)).map fun r => .set g ⟨⟨n % 4096, Nat.mod_lt _ (by decide)⟩, r⟩
      else if n / 16384 = 2 then some (.clear g) else none := by
  refine descriptorAction_of_fields ?_ rfl (le16_read h)
  show (byteOf g.val).toNat = g.val
  rw [toNat_byteOf, Nat.mod_eq_of_lt (by omega)]

/-- What is no descriptor: a byte out of range, an action other than SET and CLEAR, or a SET without rights (R188). -/
theorem descriptorAction_eq_none {b0 b1 b2 b3 page zero b6 b7 : Byte}
    (h : 128 ≤ page.toNat ∨ zero ≠ 0 ∨ b7.toNat / 64 = 0 ∨ b7.toNat / 64 = 3 ∨
      (b7.toNat / 64 = 1 ∧ (b7.toNat / 16 % 4 = 0 ∨ b7.toNat / 16 % 4 = 3))) :
    descriptorAction [b0, b1, b2, b3, page, zero, b6, b7] = none := by
  by_cases inRange : page.toNat < 128
  swap
  · exact descriptorAction_of_page_out (not_lt.1 inRange)
  by_cases clear : zero = 0
  swap
  · exact descriptorAction_of_zero_out fun e => clear (BitVec.eq_of_toNat_eq e)
  have b6lt : b6.toNat < 256 := b6.isLt
  have fields := descriptorAction_of_fields (d := [b0, b1, b2, b3, page, zero, b6, b7]) (g := ⟨page.toNat, inRange⟩)
    (n := b6.toNat + 256 * b7.toNat) rfl (by rw [clear]; rfl) rfl
  have action : (b6.toNat + 256 * b7.toNat) / 16384 = b7.toNat / 64 := by omega
  have rights : (b6.toNat + 256 * b7.toNat) / 4096 % 4 = b7.toNat / 16 % 4 := by omega
  rw [action, rights] at fields
  rw [fields]
  rcases h with page' | zero' | none' | both | ⟨set, none' | both⟩
  · omega
  · exact absurd clear zero'
  · rw [none']
    rfl
  · rw [both]
    rfl
  · rw [set, none']
    rfl
  · rw [set, both]
    rfl

/-! ## The end of a load (R146) -/

theorem endLoad_of_cons {s : State} {r : LoadRec} {rest : List LoadRec} (h : s.loadQueue = r :: rest) (e : LoadEnd) :
    endLoad s e = runLoads (respond { s with loadQueue := rest, load := .idle } r.port r.tag e.1 e.2) := by
  unfold endLoad
  rw [endRunning_of_cons h]

theorem loadMatching_of_outstanding {s : State} {age : Nat} (h : s.load = .outstanding age) :
    loadMatching s s.readGen = true := by
  unfold loadMatching
  rw [h]
  exact beq_self_eq_true _

theorem loadTimedOut_of_outstanding {s : State} {age : Nat} (h : s.load = .outstanding age) (late : 200 ≤ age) :
    loadTimedOut s = true := by
  unfold loadTimedOut
  rw [h]
  exact decide_eq_true late

/-- Settles O30: a failed read sets the source's mark and ends the running load. -/
theorem loadReadFails : Obligations.LoadReadFails := by
  intro s age r rest reading queue u
  have failed : settle (failRead s) = u := by
    have head : (setErrorMark s r.source).loadQueue = r :: rest := queue
    unfold failRead
    rw [queue]
    exact congrArg settle (endLoad_of_cons head _)
  refine ⟨congrArg Host.Outcome.next ((if_pos (loadMatching_of_outstanding reading)).trans failed), fun late => ?_⟩
  exact congrArg Host.Outcome.next ((if_pos (loadTimedOut_of_outstanding reading late)).trans failed)

/-! ## A descriptor read (R143, R144) -/

/-- The tests of R143 in their order. -/
theorem judge_eq (s : State) (r : LoadRec) (d : List Byte) :
    judge s r d =
      if ¬ ((s.frame r.source).state = .held ∧
          ∃ h ∈ (s.frame r.source).holders, h.ctx = r.target ∨ h.ctx = homeOf r.port) then .error .sourceLost
      else if BitVec.ofNat 32 (longAt d 0) ≠ r.stamp then .error .stampMismatch
      else
        match descriptorAction d with
        | none => .error .badDescriptor
        | some a =>
          if (s.ctx r.target).state ≠ .live then .error .contextGone
          else
            match a with
            | .clear g => .ok (.clear g)
            | .set g e =>
              if (s.frame e.frame).state ≠ .held ∨ holderOf (s.frame e.frame).holders r.target = none ∨
                  (holderOf (s.frame e.frame).holders r.target).map Holder.withdrawing = some true then .error .notHolder
              else if e.rights = .readWrite ∧
                  (holderOf (s.frame e.frame).holders r.target).map Holder.rights = some .read then .error .rightsExceeded
              else .ok (.set g e) := by
  unfold judge
  have source := sourceHeld_iff s r.port r.target r.source
  by_cases held : sourceHeld s r.port r.target r.source = true
  swap
  · rw [if_neg held, if_pos (mt source.2 held)]
  rw [if_pos held, if_neg (not_not.2 (source.1 held))]
  refine ite_congr rfl (fun _ => rfl) fun _ => ?_
  cases descriptorAction d with
  | none => rfl
  | some a =>
    dsimp only
    by_cases alive : live s r.target = true
    · rw [if_pos alive, if_neg (not_not.2 ((live_iff s _).1 alive))]
      cases a with
      | clear g => rfl
      | set g e =>
        dsimp only
        rw [holdingFault_eq]
        split_ifs <;> rfl
    · rw [if_neg alive, if_pos (mt (live_iff s _).2 alive)]

/-- A descriptor that fails a test stops the load with that test's reason. -/
theorem finishRead_of_error {s : State} {r : LoadRec} {rest : List LoadRec} {d : List Byte} {reason : StopReason}
    (queue : s.loadQueue = r :: rest) (h : judge s r d = .error reason) :
    finishRead s d = runLoads (respond { s with loadQueue := rest, load := .idle } r.port r.tag .loadStopped
      [reason.code, byteOf r.next, byteOf r.next, 0]) := by
  have split : finishRead s d = endLoad s (stopped reason r.next) := by
    unfold finishRead
    rw [queue]
    dsimp only
    rw [h]
  exact split.trans (endLoad_of_cons queue _)

/-- An application of a descriptor leaves the loads. -/
theorem loadQueue_applyAction (s : State) (c : Ctx) (a : DescriptorAction) :
    (applyAction s c a).loadQueue = s.loadQueue := by
  cases a with
  | set g e =>
    show (makeEntry s c g e).loadQueue = _
    rw [makeEntry_frame]
  | clear g =>
    show (clearEntry s c g).loadQueue = _
    rw [clearEntry_frame]

/-- A descriptor that passes is applied; its load ends after the last one, and else goes on. -/
theorem finishRead_of_ok {s : State} {r : LoadRec} {rest : List LoadRec} {d : List Byte} {a : DescriptorAction}
    (queue : s.loadQueue = r :: rest) (h : judge s r d = .ok a) :
    let u := applyAction { s with loadQueue := { r with next := r.next + 1 } :: rest } r.target a
    finishRead s d =
      if r.next + 1 = r.count then
        runLoads (respond { u with loadQueue := rest, load := .idle } r.port r.tag .done [0, byteOf (r.next + 1), 0, 0])
      else runLoads u := by
  intro u
  have head : u.loadQueue = { r with next := r.next + 1 } :: rest := loadQueue_applyAction _ _ _
  have split : finishRead s d =
      if r.next + 1 = r.count then endLoad u (.done, loadDoneResults (r.next + 1)) else runLoads u := by
    unfold finishRead
    rw [queue]
    dsimp only
    rw [h]
  rw [split, endLoad_of_cons head]
  rfl

/-- Settles O29: the bytes of R188, then the tests of R143 in their order. -/
theorem descriptorReadIsJudged : Obligations.DescriptorReadIsJudged := by
  refine ⟨fun b0 b1 b2 b3 g f r low small => ?_, fun _ _ _ _ _ _ _ _ h => descriptorAction_eq_none h, ?_⟩
  · intro setBits
    have code : 1 ≤ r.code.toNat ∧ r.code.toNat ≤ 2 := by cases r <;> decide
    have frame := f.isLt
    constructor
    · have action : setBits / 16384 = 1 := by omega
      have rights : setBits / 4096 % 4 = r.code.toNat := by omega
      have number : setBits % 4096 = f.val := by omega
      rw [descriptorAction_written b0 b1 b2 b3 g (by omega), if_pos action]
      simp only [rights, rightsOfCode_code, Option.map_some, number]
    · rw [descriptorAction_written b0 b1 b2 b3 g (by omega), if_neg (by omega), if_pos (by omega)]
  · intro s gen d age r rest reading gen' queue n stops goesOn s1 source
    have run : exec (.loadReadCompletion gen d) s = .next (settle (finishRead s d)) := by
      refine congrArg Host.Outcome.next (if_pos ?_)
      rw [← gen']
      exact loadMatching_of_outstanding reading
    have stopped' {reason : StopReason} (h : judge s r d = .error reason) :
        exec (.loadReadCompletion gen d) s = .next (stops reason) := by
      rw [run, finishRead_of_error queue h]
    have applied {a : DescriptorAction} (h : judge s r d = .ok a) :
        exec (.loadReadCompletion gen d) s = .next (goesOn (applyAction s1 r.target a)) := by
      rw [run, finishRead_of_ok queue h]
      exact congrArg Host.Outcome.next (apply_ite settle _ _ _)
    clear_value stops goesOn
    have tests := judge_eq s r d
    by_cases held : source
    swap
    · rw [if_pos held] at tests ⊢
      exact stopped' tests
    rw [if_neg (not_not.2 held)] at tests ⊢
    by_cases stamp : BitVec.ofNat 32 (longAt d 0) ≠ r.stamp
    · rw [if_pos stamp] at tests ⊢
      exact stopped' tests
    rw [if_neg stamp] at tests ⊢
    cases form : descriptorAction d with
    | none =>
      rw [form] at tests
      exact stopped' tests
    | some a =>
      rw [form] at tests
      dsimp only at tests ⊢
      by_cases gone : (s.ctx r.target).state ≠ .live
      · rw [if_pos gone] at tests ⊢
        exact stopped' tests
      rw [if_neg gone] at tests ⊢
      cases a with
      | clear g => exact applied tests
      | set g e =>
        dsimp only at tests
        by_cases holder : (s.frame e.frame).state ≠ .held ∨ holderOf (s.frame e.frame).holders r.target = none ∨
          (holderOf (s.frame e.frame).holders r.target).map Holder.withdrawing = some true
        · rw [if_pos holder] at tests
          exact (stopped' tests).trans (congrArg Host.Outcome.next (if_pos holder).symm)
        rw [if_neg holder] at tests
        by_cases rights : e.rights = .readWrite ∧
          (holderOf (s.frame e.frame).holders r.target).map Holder.rights = some .read
        · rw [if_pos rights] at tests
          exact (stopped' tests).trans (congrArg Host.Outcome.next ((if_neg holder).trans (if_pos rights)).symm)
        · rw [if_neg rights] at tests
          exact (applied tests).trans (congrArg Host.Outcome.next ((if_neg holder).trans (if_neg rights)).symm)

/-! ## LOAD_CANCEL (R147, R148) -/

theorem loadNamed_iff (p : Port) (u : Tag) (r : LoadRec) : loadNamed p u r = true ↔ r.port = p ∧ r.tag = u := by
  simp [loadNamed]

theorem responded_of_free {r : PortRec} {t : Tag} (free : slotOf r t = none) (v : Verdict) (rs : List Byte) :
    r.responded t v rs = r := by
  unfold PortRec.responded
  rw [free]

theorem slotOf_responded (r : PortRec) (t : Tag) (v : Verdict) (rs : List Byte) : slotOf (r.responded t v rs) t = none := by
  cases found : slotOf r t with
  | none => rw [responded_of_free found, found]
  | some q =>
    unfold PortRec.responded
    rw [found]
    dsimp only
    split <;> (unfold slotOf; simp [List.find?_eq_none])

/-- The slot is FREE after its response, and a further response under its tag finds none. -/
theorem respond_respond (s : State) (p : Port) (t : Tag) (v v' : Verdict) (rs rs' : List Byte) :
    respond (respond s p t v rs) p t v' rs' = respond s p t v rs := by
  exact (modPort_modPort s p (fun r => r.responded t v rs) fun r => r.responded t v' rs').trans
    (congrArg (withPort s p) (responded_of_free (slotOf_responded ..) v' rs'))

/-- Several loads of one tag have one response. -/
theorem foldl_respond_same {p : Port} {u : Tag} (v : Verdict) (rs : List Byte) {l : List LoadRec}
    (named : ∀ r ∈ l, r.port = p ∧ r.tag = u) (some' : l ≠ []) (s : State) :
    l.foldl (fun s q => respond s q.port q.tag v rs) s = respond s p u v rs := by
  induction l generalizing s with
  | nil => exact absurd rfl some'
  | cons r l ih =>
    obtain ⟨rfl, rfl⟩ := named r List.mem_cons_self
    rw [List.foldl_cons]
    cases l with
    | nil => rfl
    | cons r' l =>
      rw [ih (fun x hx => named x (List.mem_cons_of_mem _ hx)) (List.cons_ne_nil _ _), respond_respond]

/-- A stop request in READY is taken at once, in place of the start check (R148). -/
theorem placeStop_of_ready {s : State} {r : LoadRec} {rest : List LoadRec} (queue : s.loadQueue = r :: rest)
    (free : r.stop = none) (ready : s.load = .ready) (q : StopRequest) :
    placeStop s q = runLoads (respond { s with loadQueue := rest, load := .idle } r.port r.tag
      (stopRequestEnd q r.next).1 (stopRequestEnd q r.next).2) := by
  have step : placeStop s q = runLoads { s with loadQueue := { r with stop := some q } :: rest } := by
    unfold placeStop
    rw [queue]
    dsimp only
    rw [free, if_neg (by nofun), if_pos ready]
  rw [step, runLoads_ended (r := { r with stop := some q }) rfl rfl, endRunning_of_cons rfl]

/-- Else it waits on the record; one already placed stands (R148). -/
theorem placeStop_of_not_ready {s : State} {r : LoadRec} {rest : List LoadRec} (queue : s.loadQueue = r :: rest)
    (free : r.stop = none) (reading : s.load ≠ .ready) (q : StopRequest) :
    placeStop s q = { s with loadQueue := { r with stop := some q } :: rest } := by
  unfold placeStop
  rw [queue]
  dsimp only
  rw [free, if_neg (by nofun), if_neg reading]

theorem placeStop_of_stopped {s : State} {r : LoadRec} {rest : List LoadRec} (queue : s.loadQueue = r :: rest)
    (placed : r.stop ≠ none) (q : StopRequest) : placeStop s q = s := by
  unfold placeStop
  rw [queue]
  dsimp only
  rw [if_pos (Option.isSome_iff_ne_none.2 placed)]

/-- Settles O28: the running load takes a stop request, a queued one is removed. -/
theorem loadCancelEndsNamedLoad : Obligations.LoadCancelEndsNamedLoad := by
  intro s p t q u requested hu named s1
  have check : loadCancelCheck s p q.operands =
      if s.loadQueue.any (loadNamed p u) = true then .ok u else .error (.badOperand, []) := by
    unfold loadCancelCheck
    rw [hu]
    rfl
  have any' : s.loadQueue.any (loadNamed p u) = true ↔ ∃ r ∈ s.loadQueue, named r := by
    simp only [List.any_eq_true, loadNamed_iff]
    exact Iff.rfl
  have taken (ok : ∃ r ∈ s.loadQueue, named r) : exec (.loadCancel p t) s = .next (settle (cancelLoad s1 p u)) := by
    refine (takeRequest_of_requested requested _).trans (congrArg _ ?_)
    rw [check, if_pos (any'.2 ok), serveChecked_ok, respond_of_requested requested]
  refine ⟨fun none' => ?_, fun r rest queue => ?_⟩
  · refine (takeRequest_of_requested requested _).trans (congrArg _ ?_)
    rw [check, if_neg (any'.not.2 none')]
    exact serveChecked_error_of_requested requested .badOperand [] _
  · have queue1 : s1.loadQueue = r :: rest := queue
    refine ⟨fun running => ?_, fun other queued => ?_⟩
    · rw [taken ⟨r, queue ▸ List.mem_cons_self, running⟩]
      refine congrArg Host.Outcome.next (congrArg settle ?_)
      have stop : cancelLoad s1 p u = placeStop s1 .cancelled := by
        unfold cancelLoad
        rw [queue1]
        dsimp only
        rw [if_pos ((loadNamed_iff p u r).2 running)]
      rw [stop]
      by_cases placed : r.stop ≠ none
      · rw [if_pos placed, placeStop_of_stopped queue1 placed]
      rw [if_neg placed]
      by_cases reading : s.load ≠ .ready
      · rw [if_pos reading, placeStop_of_not_ready queue1 (not_not.1 placed) reading]
      · rw [if_neg reading, placeStop_of_ready queue1 (not_not.1 placed) (not_not.1 reading), running.1, running.2]
        rfl
    · obtain ⟨x, hx, hnamed⟩ := queued
      rw [taken ⟨x, queue ▸ List.mem_cons_of_mem _ hx, hnamed⟩]
      refine congrArg Host.Outcome.next (congrArg settle ?_)
      have removed : cancelLoad s1 p u = removeQueued s1 (loadNamed p u) (.cancelled, loadCancelledResults 0) := by
        unfold cancelLoad
        rw [queue1]
        dsimp only
        rw [if_neg (mt (loadNamed_iff p u r).1 other)]
      rw [removed]
      unfold removeQueued
      rw [queue1]
      exact foldl_respond_same .cancelled _ (fun y hy => (loadNamed_iff p u y).1 (List.mem_filter.1 hy).2)
        (List.ne_nil_of_mem (List.mem_filter.2 ⟨hx, (loadNamed_iff p u x).2 hnamed⟩)) _

end Sys2Proof.Machine
end

section
/-! PROOFS. Withdrawals: the invalidation (R55), the start (R93, R94) and the end (R99); LEAVE and REVOKE (R79, R81). -/

namespace Sys2Proof.Machine

open Sys2Proof

/-! ## The invalidation (R55) -/

/-- The entry of page `g` of context `c` is valid and, where only one frame is concerned, names it. -/
def loses (s : State) (c : Ctx) (only : Option Frame) (g : Page) : Bool :=
  (s.entry c g).any fun e => only == none || only == some e.frame

/-- One page of the invalidation of a withdrawal. -/
def dropEntryIf (c : Ctx) (only : Option Frame) (s : State) (g : Page) : State :=
  if loses s c only g then clearEntry s c g else s

theorem invalidate_eq_foldl (s : State) (c : Ctx) (only : Option Frame) :
    invalidate s c only = (List.finRange 128).foldl (dropEntryIf c only) s := by
  unfold invalidate
  congr 1
  funext u g
  unfold dropEntryIf loses
  cases u.entry c g with
  | none => rfl
  | some e => simp only [Option.any_some, Bool.or_eq_true, beq_iff_eq]

theorem entry_dropEntryIf (s : State) (c d : Ctx) (only : Option Frame) (g h : Page) :
    (dropEntryIf c only s g).entry d h = if d = c ∧ h = g ∧ loses s c only g = true then none else s.entry d h := by
  unfold dropEntryIf
  by_cases lost : loses s c only g = true
  · rw [if_pos lost, entry_clearEntry]
    simp only [lost, and_true]
  · rw [if_neg lost, if_neg (fun h => lost h.2.2)]

theorem frame_dropEntryIf (s : State) (c : Ctx) (only : Option Frame) (g : Page) (k : Frame) :
    (dropEntryIf c only s g).frame k = { s.frame k with mapCount := (s.frame k).mapCount -
      (if (s.entry c g).map MapEntry.frame = some k ∧ loses s c only g = true then 1 else 0) } := by
  unfold dropEntryIf
  by_cases lost : loses s c only g = true
  · rw [if_pos lost, frame_clearEntry]
    simp only [lost, and_true]
  · rw [if_neg lost, if_neg (fun h => lost h.2)]
    rfl

/-- Beside frame records and map tables, clearing an entry only counts it, where it was valid. -/
theorem ctx_clearEntry (s : State) (c d : Ctx) (g : Page) :
    (clearEntry s c g).ctx d =
      if d = c ∧ (s.entry c g).isSome = true then { s.ctx c with validCount := (s.ctx c).validCount - 1 } else s.ctx d := by
  have beside : (clearEntry s c g).ctx d =
      ({ clearEntry s c g with frames := s.frames, maps := s.maps } : State).ctx d := rfl
  rw [beside, clearEntry_beside_tables]
  cases s.entry c g with
  | none => simp
  | some e =>
    simp only [Option.isSome_some, and_true]
    exact vector_get_set _ _ _ _

theorem ctx_dropEntryIf (s : State) (c d : Ctx) (only : Option Frame) (g : Page) :
    (dropEntryIf c only s g).ctx d =
      if d = c then { s.ctx c with validCount := (s.ctx c).validCount - (if loses s c only g = true then 1 else 0) }
      else s.ctx d := by
  unfold dropEntryIf
  by_cases lost : loses s c only g = true
  · have valid : (s.entry c g).isSome = true := by
      unfold loses at lost
      cases entry : s.entry c g with
      | none =>
        rw [entry] at lost
        cases lost
      | some e => rfl
    rw [if_pos lost, ctx_clearEntry]
    simp only [valid, lost, and_true, if_true]
  · rw [if_neg lost]
    split_ifs with hd
    · subst hd
      rfl
    · rfl

/-- The entries that the pages in front of others concern do not change what those concern. -/
theorem loses_dropEntryIf {s : State} {c : Ctx} {only : Option Frame} {g h : Page} (other : h ≠ g) :
    loses (dropEntryIf c only s g) c only h = loses s c only h := by
  unfold loses
  rw [entry_dropEntryIf, if_neg (fun k => other k.2.1)]

/-- What the invalidation of a list of pages leaves (R55): the entries, the map counts, the valid entry count, and the rest. -/
structure Invalidated (s : State) (c : Ctx) (only : Option Frame) (l : List Page) (u : State) : Prop where
  entry : ∀ d g, u.entry d g = if d = c ∧ g ∈ l ∧ loses s c only g = true then none else s.entry d g
  frame : ∀ k, u.frame k = { s.frame k with mapCount := (s.frame k).mapCount -
    (l.countP fun g => (s.entry c g).map MapEntry.frame == some k && loses s c only g) }
  ctx : ∀ d, u.ctx d =
    if d = c then { s.ctx c with validCount := (s.ctx c).validCount - l.countP (loses s c only) } else s.ctx d
  rest : { u with frames := s.frames, contexts := s.contexts, maps := s.maps } = s

theorem invalidated_foldl (c : Ctx) (only : Option Frame) {l : List Page} (nodup : l.Nodup) (s : State) :
    Invalidated s c only l (l.foldl (dropEntryIf c only) s) := by
  induction l generalizing s with
  | nil =>
    refine ⟨fun d g => by simp, fun k => rfl, fun d => ?_, rfl⟩
    split_ifs with hd
    · subst hd
      rfl
    · rfl
  | cons a l ih =>
    obtain ⟨fresh, nodup⟩ := List.nodup_cons.1 nodup
    have later := ih nodup (dropEntryIf c only s a)
    have entries (g : Page) (hg : g ∈ l) : (dropEntryIf c only s a).entry c g = s.entry c g := by
      rw [entry_dropEntryIf, if_neg]
      rintro ⟨-, rfl, -⟩
      exact fresh hg
    have same (g : Page) (hg : g ∈ l) : loses (dropEntryIf c only s a) c only g = loses s c only g :=
      loses_dropEntryIf fun h => fresh (h ▸ hg)
    rw [List.foldl_cons]
    refine ⟨fun d g => ?_, fun k => ?_, fun d => ?_, ?_⟩
    · rw [later.entry, entry_dropEntryIf]
      by_cases hg : g ∈ l
      · have other : g ≠ a := fun h => fresh (h ▸ hg)
        simp [hg, same g hg, other]
      · by_cases ha : g = a
        · subst ha
          simp [hg]
        · simp [hg, ha]
    · rw [later.frame, frame_dropEntryIf, List.countP_cons]
      have count : (l.countP fun g => ((dropEntryIf c only s a).entry c g).map MapEntry.frame == some k &&
            loses (dropEntryIf c only s a) c only g) =
          l.countP fun g => (s.entry c g).map MapEntry.frame == some k && loses s c only g :=
        List.countP_congr fun g hg => by rw [entries g hg, same g hg]
      rw [count]
      simp only [Bool.and_eq_true, beq_iff_eq, Nat.sub_sub, Nat.add_comm]
    · rw [later.ctx, ctx_dropEntryIf, ctx_dropEntryIf, if_pos rfl, List.countP_cons]
      have count : l.countP (loses (dropEntryIf c only s a) c only) = l.countP (loses s c only) :=
        List.countP_congr fun g hg => by rw [same g hg]
      rw [count]
      split_ifs with hd <;> simp [Nat.sub_sub, Nat.add_comm]
    · have first : { dropEntryIf c only s a with frames := s.frames, contexts := s.contexts, maps := s.maps } = s := by
        unfold dropEntryIf
        split
        · rw [clearEntry_frame]
        · rfl
      have second := later.rest
      calc { l.foldl (dropEntryIf c only) (dropEntryIf c only s a) with
              frames := s.frames, contexts := s.contexts, maps := s.maps }
          = { ({ l.foldl (dropEntryIf c only) (dropEntryIf c only s a) with
                frames := (dropEntryIf c only s a).frames, contexts := (dropEntryIf c only s a).contexts,
                maps := (dropEntryIf c only s a).maps } : State) with
              frames := s.frames, contexts := s.contexts, maps := s.maps } := rfl
        _ = { dropEntryIf c only s a with frames := s.frames, contexts := s.contexts, maps := s.maps } := by rw [second]
        _ = s := first

theorem invalidated (s : State) (c : Ctx) (only : Option Frame) :
    Invalidated s c only (List.finRange 128) (invalidate s c only) := by
  rw [invalidate_eq_foldl]
  exact invalidated_foldl c only (List.nodup_finRange 128) s

end Sys2Proof.Machine
end

section
/-! PROOFS. The start of a withdrawal (R55, R93, R94): LEAVE and REVOKE (R79, R81), step 4 of a teardown (R40); DECLINE and
RETRACT (R74, R75). -/

namespace Sys2Proof.Machine

open Sys2Proof

/-! ## The drain set (R94) -/

/-- The drain set rests on the transit tables alone. -/
theorem drainSet_congr {s u : State} (same : ∀ p, (u.port p).transit = (s.port p).transit) (c : Ctx) (only : Option Frame) :
    drainSet u c only = drainSet s c only := by
  unfold drainSet PortRec.slot
  simp only [same]

theorem drainSet_eq (s : State) (c : Ctx) (only : Option Frame) :
    drainSet s c only = (List.finRange 4).flatMap fun p =>
      ((List.finRange 16).filter fun i => ((s.port p).slot i).entry.any fun e =>
        e.ctx == c && (only == none || only == some e.frame)).map fun i => (p, i) := by
  unfold drainSet
  congr 1
  funext p
  congr 2
  funext i
  cases ((s.port p).slot i).entry <;> rfl

theorem mem_drainSet {s : State} {c : Ctx} {only : Option Frame} {p : Port} {i : Slot} :
    (p, i) ∈ drainSet s c only ↔
      ∃ e, ((s.port p).slot i).entry = some e ∧ e.ctx = c ∧ (only = none ∨ only = some e.frame) := by
  rw [drainSet_eq]
  simp only [List.mem_flatMap, List.mem_finRange, true_and, List.mem_map, List.mem_filter, Prod.mk.injEq]
  constructor
  · rintro ⟨q, j, drained, rfl, rfl⟩
    obtain ⟨e, held, named⟩ := (Option.any_eq_true _ _).1 drained
    simp only [Bool.and_eq_true, Bool.or_eq_true, beq_iff_eq] at named
    exact ⟨e, held, named⟩
  · rintro ⟨e, held, named⟩
    refine ⟨p, i, (Option.any_eq_true _ _).2 ⟨e, held, ?_⟩, rfl, rfl⟩
    simpa only [Bool.and_eq_true, Bool.or_eq_true, beq_iff_eq] using named

theorem nodup_drainSet (s : State) (c : Ctx) (only : Option Frame) : (drainSet s c only).Nodup := by
  refine List.nodup_flatMap.2 ⟨fun p _ => ?_, ?_⟩
  · exact ((List.nodup_finRange 16).filter _).map fun i j h => (Prod.ext_iff.1 h).2
  · refine (List.nodup_finRange 4).imp fun {p q} other => ?_
    intro x hp hq
    obtain ⟨i, -, rfl⟩ := List.mem_map.1 hp
    obtain ⟨j, -, h⟩ := List.mem_map.1 hq
    exact other (Prod.ext_iff.1 h).1.symm

/-! ## What the invalidation loses (R55) -/

theorem loses_iff (s : State) (c : Ctx) (only : Option Frame) (g : Page) :
    loses s c only g = true ↔ ∃ f, (s.entry c g).map MapEntry.frame = some f ∧ (only = none ∨ only = some f) := by
  unfold loses
  cases s.entry c g with
  | none => simp
  | some e => simp only [Option.any_some, Bool.or_eq_true, beq_iff_eq, Option.map_some, Option.some.injEq, exists_eq_left']

/-- The entries lost that name a frame. -/
theorem loses_naming (s : State) (c : Ctx) (only : Option Frame) (f : Frame) (g : Page) :
    ((s.entry c g).map MapEntry.frame == some f && loses s c only g) =
      ((s.entry c g).map MapEntry.frame == some f && (only == none || only == some f)) := by
  unfold loses
  cases s.entry c g with
  | none => rfl
  | some e =>
    by_cases h : e.frame = f
    · simp only [Option.any_some, h]
    · simp only [Option.map_some, beq_eq_false_iff_ne.2 fun k => h (Option.some.inj k), Bool.false_and]

/-- The entries that the withdrawal of one frame loses. -/
theorem loses_frame (s : State) (c : Ctx) (f : Frame) (g : Page) :
    loses s c (some f) g = ((s.entry c g).map MapEntry.frame == some f) := by
  unfold loses
  cases s.entry c g with
  | none => rfl
  | some e =>
    change (false || some f == some e.frame) = (some e.frame == some f)
    rw [Bool.false_or, BEq.comm]

/-- The invalidation leaves every table but three alone, so it goes past a change of the others. -/
theorem invalidate_setTeardown (s : State) (d : Ctx) (x : Option Teardown) (c : Ctx) (only : Option Frame) :
    invalidate (s.setTeardown d x) c only = (invalidate s c only).setTeardown d x := by
  have started := invalidated (s.setTeardown d x) c only
  have plain := invalidated s c only
  have frames : (invalidate (s.setTeardown d x) c only).frames = (invalidate s c only).frames :=
    State.frames_ext fun k => (started.frame k).trans (plain.frame k).symm
  have contexts : (invalidate (s.setTeardown d x) c only).contexts = (invalidate s c only).contexts :=
    State.contexts_ext fun k => (started.ctx k).trans (plain.ctx k).symm
  have maps : (invalidate (s.setTeardown d x) c only).maps = (invalidate s c only).maps :=
    State.maps_ext fun k g => (started.entry k g).trans (plain.entry k g).symm
  rw [invalidate_frame, frames, contexts, maps]
  obtain ⟨a, b, m, h⟩ : ∃ a b m, invalidate s c only = { s with frames := a, contexts := b, maps := m } :=
    ⟨_, _, _, invalidate_frame s c only⟩
  rw [h]
  rfl

/-! ## Step 4 of a teardown (R40) -/

/-- The start of step 4, as the one event it is. -/
theorem startContextWithdrawal_eq {s : State} {c : Ctx} {st : Starter} {x : TeardownStep}
    (teardown : s.teardown c = some ⟨st, x⟩) :
    startContextWithdrawal s c =
      { invalidate s c none with
        teardowns := s.teardowns.set c (some ⟨st, .drain⟩)
        withdrawals := s.withdrawals ++ [⟨c, none, .teardown, drainSet s c none⟩] } := by
  have moved : setStep s c .drain = s.setTeardown c (some ⟨st, .drain⟩) := setStep_of_some teardown _
  unfold startContextWithdrawal
  have drain : drainSet (s.setTeardown c (some ⟨st, .drain⟩)) c none = drainSet s c none := drainSet_congr (fun _ => rfl) _ _
  rw [moved, startWithdrawal_eq, invalidate_setTeardown, drain]
  obtain ⟨a, b, m, h⟩ : ∃ a b m, invalidate s c none = { s with frames := a, contexts := b, maps := m } :=
    ⟨_, _, _, invalidate_frame s c none⟩
  rw [h]
  rfl

/-- Where only one teardown can go on, it goes on. -/
theorem takeDue_of_context {s : State} {c : Ctx} (drains : ∀ w ∈ s.withdrawals, w.drain ≠ [])
    (due : turnDue s c = true ∨ stepDue s c = true) (others : ∀ d, d ≠ c → turnDue s d = false ∧ stepDue s d = false)
    (ports : ∀ p, portDue s p = false) : takeDue s = some (takeStep s c) := by
  have contexts : ((List.finRange 16).filter fun d => turnDue s d || stepDue s d) = [c] := by
    have same : ∀ d ∈ List.finRange 16, (turnDue s d || stepDue s d) = (d == c) := by
      intro d _
      by_cases hd : d = c
      · subst hd
        rcases due with due | due <;> simp [due]
      · simp [others d hd, hd]
    have single : ∀ c : Ctx, (List.finRange 16).filter (fun d => d == c) = [c] := by decide
    rw [List.filter_congr same, single c]
  have dues : dueTeardowns s = [.context c] := by
    unfold dueTeardowns
    rw [contexts, List.filter_eq_nil_iff.2 fun p _ => by simp [ports p]]
    rfl
  unfold takeDue
  rw [(dueWithdrawal_eq_none s).2 drains, dues, choose_singleton]
  rfl

/-- Settles O36: R55 page by page, R93 and R94 from it, and R40 where step 3 has nothing left to wait for. -/
theorem invalidationDropsEntriesAndCounts : Obligations.InvalidationDropsEntriesAndCounts := by
  refine ⟨fun s c only q => ⟨startWithdrawal_eq s c only q, nodup_drainSet s c only, fun p i => mem_drainSet⟩, ?_, ?_⟩
  · intro s c st teardown noLoads drains others ports
    have due : stepDue s c = true := by
      unfold stepDue loadTargets
      rw [teardown]
      simpa using noLoads
    have step : takeStep s c = startContextWithdrawal s c := by
      unfold takeStep
      rw [teardown]
    rw [settle_of_some (takeDue_of_context drains (.inr due) others ports), step, startContextWithdrawal_eq teardown]
  · intro s c only lost lostOf u
    have start := invalidated s c only
    have lostOf_eq : lostOf = loses s c only := by
      funext g
      change ((s.entry c g).any fun e => (s.entry c g).map MapEntry.frame == some e.frame && _) = _
      unfold loses
      cases s.entry c g with
      | none => rfl
      | some e => simp
    refine ⟨fun d g => ?_, fun f => ?_, fun d => ?_, start.rest⟩
    · have any : (∃ f, lost g f = true) ↔ loses s c only g = true := by
        rw [loses_iff]
        simp [lost]
      rw [start.entry]
      simp only [any, List.mem_finRange, true_and]
    · refine (start.frame f).trans ?_
      simp only [loses_naming]
      rfl
    · rw [lostOf_eq]
      exact start.ctx d

/-! ## The withdrawal of a co-holder (R79, R81, R93) -/

/-- The start of a co-holder's withdrawal: its flag, its entries, its record. -/
theorem withdrawsHolder (s : State) (c : Ctx) (f : Frame) (who : Requester) :
    WithdrawsHolder s s (withdrawHolder s c f who) c f who := by
  have start := invalidated (markWithdrawing s f c) c (some f)
  have drain : drainSet (markWithdrawing s f c) c (some f) = drainSet s c (some f) := drainSet_congr (fun p => rfl) _ _
  have loses_eq : loses (markWithdrawing s f c) c (some f) = fun g => (s.entry c g).map MapEntry.frame == some f :=
    funext fun g => loses_frame (markWithdrawing s f c) c f g
  rw [withdrawHolder_eq, startWithdrawal_eq, drain]
  generalize invalidate (markWithdrawing s f c) c (some f) = u at start ⊢
  obtain ⟨entry, frame, ctx, rest⟩ := start
  simp only [loses_eq, List.mem_finRange, true_and, beq_iff_eq] at entry frame ctx
  simp only [markWithdrawing, entry_modFrame, ctx_modFrame, frame_modFrame] at entry frame ctx
  refine ⟨fun k => ?_, fun d => ?_, fun d g => ?_, ?_⟩
  · refine (frame k).trans ?_
    by_cases hk : k = f
    · subst hk
      simp only [if_true, Bool.and_self]
      rfl
    · have apart : ((List.finRange 128).countP fun g => (s.entry c g).map MapEntry.frame == some k &&
          (s.entry c g).map MapEntry.frame == some f) = 0 := by
        refine List.countP_eq_zero.2 fun g _ both => ?_
        simp only [Bool.and_eq_true, beq_iff_eq] at both
        exact hk (Option.some.inj (both.1.symm.trans both.2))
      rw [apart]
      simp only [if_neg hk]
      rfl
  · exact ctx d
  · exact entry d g
  · have beside : { u with frames := s.frames, contexts := s.contexts, maps := s.maps } = s :=
      congrArg (fun x : State => { x with frames := s.frames, contexts := s.contexts, maps := s.maps }) rest
    exact congrArg (fun x : State => ({ x with
        withdrawals := s.withdrawals ++ [⟨c, some f, who, drainSet s c (some f)⟩] } : State))
      beside

/-- The start of a co-holder's withdrawal for a request that is carried on. -/
theorem withdrawsHolder_carriedOn (s : State) (p : Port) (t : Tag) (c : Ctx) (f : Frame) (who : Requester) :
    WithdrawsHolder s (carriedOn s p t) (withdrawHolder (activate s p t) c f who) c f who := by
  obtain ⟨frame, ctx, entry, rest⟩ := withdrawsHolder (carriedOn s p t) c f who
  have drain : drainSet (carriedOn s p t) c (some f) = drainSet s c (some f) := drainSet_congr (fun q => by
    change ((s.ports.set p ((s.port p).carriedOn t)).get q).transit = _
    rw [vector_get_set]
    split_ifs with hq
    · rw [hq]
      rfl
    · rfl) _ _
  rw [drain] at rest
  exact ⟨frame, ctx, entry, rest⟩

/-! ## LEAVE (R79) -/

/-- The checks of R79 past those of the operands' ranges. -/
theorem leaveCheck_of_operands {ops : List Byte} {c : Ctx} {f : Frame} (hc : operandCtx ops 4 = some c)
    (hf : operandFrame ops 6 = some f) (s : State) (p : Port) :
    leaveCheck s p ops =
      if (s.ctx c).owner ≠ some p then refuse .notOwner
      else if (s.ctx c).state ≠ .live then refuse .notLive
      else if (s.frame f).state ≠ .held then refuse .notHolder
      else if holderOf (s.frame f).holders c = none then refuse .notHolder
      else if ((s.frame f).holders.map Holder.ctx).head? = some c then refuse .isOrigin
      else if (holderOf (s.frame f).holders c).map Holder.withdrawing = some true then refuse .busy
      else .ok (c, f) := by
  unfold leaveCheck
  simp only [hc, hf, actingFault_eq, originOf_eq]
  cases holderOf (s.frame f).holders c with
  | none => split_ifs <;> simp_all
  | some h => split_ifs <;> simp_all

/-- Settles O34, by the chain of R79's checks. -/
theorem leaveStartsWithdrawal : Obligations.LeaveStartsWithdrawal := by
  intro s p t q c f requested hc hf holder
  have holder_eq : holderOf (s.frame f).holders c = holder := rfl
  refine ⟨_, takeRequest_of_requested requested _, ?_⟩
  rw [leaveCheck_of_operands hc hf, holder_eq]
  have refused (v : Verdict) (effect : Ctx × Frame → State) :
      serveChecked s p t (refuse v) effect = answer s p t .leave v [] :=
    serveChecked_error_of_requested requested v [] effect
  split_ifs
  any_goals exact refused _ _
  exact ⟨_, rfl, withdrawsHolder_carriedOn s p t c f _⟩

/-! ## REVOKE (R81) -/

/-- The checks of R81 past those of the operands' ranges. -/
theorem revokeCheck_of_operands {ops : List Byte} {c d : Ctx} {f : Frame} (hc : operandCtx ops 4 = some c)
    (hd : operandCtx ops 5 = some d) (hf : operandFrame ops 6 = some f) (s : State) (p : Port) :
    revokeCheck s p ops =
      if (s.ctx c).owner ≠ some p then refuse .notOwner
      else if (s.ctx c).state ≠ .live then refuse .notLive
      else if (s.frame f).state ≠ .held then refuse .notHolder
      else if c ∉ (s.frame f).holders.map Holder.ctx then refuse .notHolder
      else if ((s.frame f).holders.map Holder.ctx).head? ≠ some c then refuse .notOrigin
      else if holderOf (s.frame f).holders.tail d = none then refuse .notHolder
      else if (holderOf (s.frame f).holders.tail d).map Holder.withdrawing = some true then refuse .busy
      else .ok (d, f) := by
  unfold revokeCheck
  have notHolder : (!holds (s.frame f).holders c) = true ↔ c ∉ (s.frame f).holders.map Holder.ctx := by
    rw [← holds_iff, Bool.not_eq_true', Bool.not_eq_true]
  simp only [hc, hd, hf, actingFault_eq, originOf_eq, notHolder]
  cases holderOf (s.frame f).holders.tail d with
  | none => split_ifs <;> simp_all
  | some h => split_ifs <;> simp_all

/-- Settles O35, by the chain of R81's checks. -/
theorem revokeStartsWithdrawal : Obligations.RevokeStartsWithdrawal := by
  intro s p t q c d f requested hc hd hf holders coHolder
  have coHolder_eq : holderOf (s.frame f).holders.tail d = coHolder := rfl
  refine ⟨_, takeRequest_of_requested requested _, ?_⟩
  rw [revokeCheck_of_operands hc hd hf, coHolder_eq]
  have refused (v : Verdict) (effect : Ctx × Frame → State) :
      serveChecked s p t (refuse v) effect = answer s p t .revoke v [] :=
    serveChecked_error_of_requested requested v [] effect
  split_ifs
  any_goals exact refused _ _
  exact ⟨_, rfl, withdrawsHolder_carriedOn s p t d f _⟩

/-! ## DECLINE and RETRACT (R74, R75) -/

/-- The answer to a request that ends an offer and tells the other party. -/
theorem respond_endOffer {s : State} {p : Port} {t : Tag} {k : RequestKind} {q : ControlSlot} (h : Requested s p t k q)
    {i : OfferId} {o : OfferRec} (offer : s.offer i = some o) (reason : OfferEnd) (party : Ctx) (v : Verdict)
    (results : List Byte) :
    respond (endOffer s i reason party) p t v results =
      answer (addressOwner
        { s with
          offers := s.offers.set i none
          frames := s.frames.set o.frame
            { s.frame o.frame with pendingOffers := (s.frame o.frame).pendingOffers - 1 } }
        party (.offerEnded i o.serial o.frame reason)) p t k v results := by
  have taken : Requested (removeOffer s i) p t k q := h.of_port_eq (port_removeOffer s i p)
  rw [endOffer_of_some offer, respond_of_requested (taken.addressOwner ..), removeOffer_of_some offer]

/-- Settles O33, by the chains of R74's and R75's checks. -/
theorem declineAndRetractRemoveOffer : Obligations.DeclineAndRetractRemoveOffer := by
  intro s p t q i hi removed
  constructor
  · intro requested
    refine (takeRequest_of_requested requested _).trans (congrArg _ ?_)
    rw [offerAnswerCheck_of_tag hi]
    cases hoffer : s.offer i with
    | none => exact serveChecked_error_of_requested requested .noSuchOffer [] _
    | some o =>
      iterate 3 refine serveChecked_ite_of_requested requested fun _ => ?_
      exact respond_endOffer requested hoffer _ _ _ _
  · intro requested
    refine (takeRequest_of_requested requested _).trans (congrArg _ ?_)
    rw [offerAnswerCheck_of_tag hi]
    cases hoffer : s.offer i with
    | none => exact serveChecked_error_of_requested requested .noSuchOffer [] _
    | some o =>
      iterate 3 refine serveChecked_ite_of_requested requested fun _ => ?_
      exact respond_endOffer requested hoffer _ _ _ _

end Sys2Proof.Machine
end

section
/-! PROOFS. The end of a withdrawal (R99), the turns of a teardown's step 5 and its end (R41 to R43, R85 to R88). -/

namespace Sys2Proof.Machine

open Sys2Proof

/-! ## The end of a withdrawal (R99) -/

/-- WITHDRAWAL_END of a record at its end. -/
theorem exec_withdrawalEnd {s : State} {w : Withdrawal} (ended : endedRecord s w.ctx w.frame = some w) {f : Option Frame}
    (hf : w.frame = f) : exec (.withdrawalEnd w.ctx f) s = .next (settle (endWithdrawal s w)) := by
  subst hf
  change execWithdrawalEnd _ _ _ = _
  unfold execWithdrawalEnd
  rw [ended]

/-- Settles O38, by the requester of the record. -/
theorem withdrawalEnds : Obligations.WithdrawalEnds := by
  intro s w found c gone left
  refine ⟨fun f p t hf hwho => ?_, fun f p t hf hwho => ?_, fun f p t hf hwho => ?_, fun f o hf hwho => ?_,
    fun st hf hwho teardown => ?_⟩
  all_goals
    refine (exec_withdrawalEnd found hf).trans (congrArg (fun u => Host.Outcome.next (settle u)) ?_)
    unfold endWithdrawal
    rw [hwho, hf]
  case refine_1 => rfl
  case refine_2 => exact congrArg (fun u => respond (notifyOrigin u f _) p t .done []) (removeHolder_eq _ _ _)
  case refine_3 => exact congrArg (fun u => respond (notifyOwner u c _) p t .done []) (removeHolder_eq _ _ _)
  case refine_4 => exact congrArg (fun u => notifyOwner u c _) (removeHolder_eq _ _ _)
  case refine_5 =>
    have teardown' : (removeRecord s w).teardown w.ctx = some ⟨st, .drain⟩ := teardown
    change endDrain (removeRecord s w) w.ctx = _
    unfold endDrain
    rw [teardown']
    exact setStep_of_some teardown' .frames

/-! ## The lowest-numbered frame (R41) -/

theorem frame_getElem (s : State) (n : Nat) (h : n < s.frames.toArray.toList.length) :
    s.frames.toArray.toList[n] = s.frame ⟨n, by simpa using h⟩ := by
  simp [State.frame, Vector.get_eq_getElem]

theorem lowestHeld_eq_some {s : State} {c : Ctx} {f : Frame} (stands : standsOn c (s.frame f) = true)
    (lowest : ∀ g, g < f → standsOn c (s.frame g) = false) : lowestHeld s c = some f := by
  have found : s.frames.toArray.toList.findIdx? (standsOn c) = some f.val := by
    refine List.findIdx?_eq_some_iff_getElem.2 ⟨by simp, ?_, fun g hg => ?_⟩
    · rw [frame_getElem]
      exact stands
    · rw [frame_getElem, lowest _ hg]
      decide
  unfold lowestHeld
  rw [found]
  exact dif_pos f.isLt

theorem lowestHeld_eq_none {s : State} {c : Ctx} (none : ∀ f, standsOn c (s.frame f) = false) : lowestHeld s c = .none := by
  cases found : lowestHeld s c with
  | none => rfl
  | some f => exact absurd (standsOn_lowestHeld found) (by simp [none f])

/-! ## A turn (R41, R42, R85, R86) -/

/-- A step of a teardown after changes that leave the teardowns alone. -/
theorem setStep_of_same {s u : State} (same : u.teardowns = s.teardowns) {c : Ctx} {st : Starter} {x : TeardownStep}
    (h : s.teardown c = some ⟨st, x⟩) (y : TeardownStep) :
    setStep u c y = { u with teardowns := s.teardowns.set c (some ⟨st, y⟩) } := by
  have hu : u.teardown c = some ⟨st, x⟩ := by
    unfold State.teardown
    rw [same]
    exact h
  rw [setStep_of_some hu, same]

theorem teardowns_reclaimExit (s : State) (f : Frame) : (reclaimExit s f).teardowns = s.teardowns := by
  rw [reclaimExit_frame]

theorem teardowns_notifyOwner (s : State) (c : Ctx) (n : Notice) : (notifyOwner s c n).teardowns = s.teardowns := by
  rw [notifyOwner_eq]

theorem teardowns_notifyOrigin (s : State) (f : Frame) (n : Notice) : (notifyOrigin s f n).teardowns = s.teardowns := by
  rw [notifyOrigin_eq]

/-- A sole holder has no other behind it. -/
theorem length_eq_one_iff_tail {hs : List Holder} (h : hs ≠ []) : hs.length = 1 ↔ hs.tail.isEmpty = true := by
  cases hs with
  | nil => exact absurd rfl h
  | cons a l => simp

theorem not_holds_iff (hs : List Holder) (c : Ctx) : (!holds hs c) = true ↔ c ∉ hs.map Holder.ctx := by
  rw [← holds_iff, Bool.not_eq_true', Bool.not_eq_true]

/-- The turn of step 5 on a frame where the context stands and no holder is under withdrawal, by its cases (R42, R86, R87). -/
theorem examineTurn_deals {s : State} {c : Ctx} {f : Frame} {st : Starter} {x : TeardownStep}
    (teardown : s.teardown c = some ⟨st, x⟩) (held : (s.frame f).state = .held) (stands : c ∈ (s.frame f).holders.map Holder.ctx)
    (free : anyWithdrawing (s.frame f).holders = false) :
    examineTurn s c f =
      if ((s.frame f).holders.map Holder.ctx).head? ≠ some c then
        { notifyOrigin (removeHolder s f c) f (.shareLeft f c) with teardowns := s.teardowns.set c (some ⟨st, .frames⟩) }
      else if (s.frame f).holders.length = 1 then
        { reclaimExit (giveUp s f c) f with teardowns := s.teardowns.set c (some ⟨st, .frames⟩) }
      else
        match (s.frame f).holders.tail.find? fun h => 1 ≤ headroom (s.ctx h.ctx) with
        | some h =>
          { notifyOwner (promote s f c h.ctx) h.ctx (.originInherited f h.ctx) with
            teardowns := s.teardowns.set c (some ⟨st, .frames⟩) }
        | none => { markWithdrawing s f c with teardowns := s.teardowns.set c (some ⟨st, .departure f⟩) } := by
  have nonempty : (s.frame f).holders ≠ [] := by
    rintro h
    rw [h] at stands
    cases stands
  have here : ¬ ((s.frame f).state ≠ .held ∨ (!holds (s.frame f).holders c) = true) := by
    rw [not_holds_iff]
    exact not_or.2 ⟨fun h => h held, fun h => h stands⟩
  have quiet : anyWithdrawing (s.frame f).holders.tail = false := by
    unfold anyWithdrawing at free ⊢
    rw [List.any_eq_false] at free ⊢
    exact fun h hh => free h (List.mem_of_mem_tail hh)
  unfold examineTurn
  rw [if_neg here, free, if_neg Bool.false_ne_true, originOf_eq]
  by_cases origin : ((s.frame f).holders.map Holder.ctx).head? = some c
  · rw [if_neg (not_not.2 origin), if_neg (not_not.2 origin)]
    by_cases sole : (s.frame f).holders.tail.isEmpty = true
    · have same : (reclaimExit (giveUp s f c) f).teardowns = s.teardowns := (teardowns_reclaimExit _ _).trans rfl
      rw [if_pos sole, if_pos ((length_eq_one_iff_tail nonempty).2 sole)]
      exact setStep_of_same same teardown _
    · rw [if_neg sole, if_neg fun h => sole ((length_eq_one_iff_tail nonempty).1 h)]
      unfold examineDeparture heirOf
      rw [quiet, if_neg Bool.false_ne_true, if_neg sole]
      cases (s.frame f).holders.tail.find? fun h => 1 ≤ headroom (s.ctx h.ctx) with
      | none =>
        have same : (markWithdrawing s f c).teardowns = s.teardowns := rfl
        exact setStep_of_same same teardown _
      | some h =>
        have same : (notifyOwner (promote s f c h.ctx) h.ctx (.originInherited f h.ctx)).teardowns = s.teardowns :=
          (teardowns_notifyOwner _ _ _).trans rfl
        exact setStep_of_same same teardown _
  · have same : (notifyOrigin (removeHolder s f c) f (.shareLeft f c)).teardowns = s.teardowns :=
      (teardowns_notifyOrigin _ _ _).trans rfl
    rw [if_pos origin, if_pos origin]
    exact setStep_of_same same teardown _

/-- The turn of step 5 on a frame where the context stands no longer. -/
theorem examineTurn_gone {s : State} {c : Ctx} {f : Frame} {st : Starter} {x : TeardownStep}
    (teardown : s.teardown c = some ⟨st, x⟩) (gone : (s.frame f).state ≠ .held ∨ c ∉ (s.frame f).holders.map Holder.ctx) :
    examineTurn s c f = { s with teardowns := s.teardowns.set c (some ⟨st, .frames⟩) } := by
  unfold examineTurn
  rw [if_pos (gone.imp id (not_holds_iff _ _).2)]
  exact setStep_of_some teardown _

/-- The turn of step 5 on a frame where a holder is under withdrawal. -/
theorem examineTurn_waits {s : State} {c : Ctx} {f : Frame} {st : Starter} {x : TeardownStep}
    (teardown : s.teardown c = some ⟨st, x⟩) (held : (s.frame f).state = .held) (stands : c ∈ (s.frame f).holders.map Holder.ctx)
    (waits : anyWithdrawing (s.frame f).holders = true) :
    examineTurn s c f = { s with teardowns := s.teardowns.set c (some ⟨st, .turn f⟩) } := by
  have here : ¬ ((s.frame f).state ≠ .held ∨ (!holds (s.frame f).holders c) = true) := by
    rw [not_holds_iff]
    exact not_or.2 ⟨fun h => h held, fun h => h stands⟩
  unfold examineTurn
  rw [if_neg here, if_pos waits]
  exact setStep_of_some teardown _

/-! ## TEARDOWN_FRAME_TURN -/

theorem exec_teardownFrameTurn (s : State) (c : Ctx) :
    exec (.teardownFrameTurn c) s = .next (if turnDue s c then settle (takeTurn s c) else s) := rfl

theorem exec_teardownFrameTurn_frames {s : State} {c : Ctx} {st : Starter} (teardown : s.teardown c = some ⟨st, .frames⟩) :
    exec (.teardownFrameTurn c) s = .next (settle (frameTurn s c)) := by
  rw [exec_teardownFrameTurn]
  unfold turnDue takeTurn
  rw [teardown]
  rfl

theorem exec_teardownFrameTurn_turn {s : State} {c : Ctx} {st : Starter} {f : Frame}
    (teardown : s.teardown c = some ⟨st, .turn f⟩) :
    exec (.teardownFrameTurn c) s = .next (
      if (s.frame f).state ≠ .held ∨ anyWithdrawing (s.frame f).holders = false then settle (examineTurn s c f) else s) := by
  rw [exec_teardownFrameTurn]
  unfold turnDue takeTurn
  rw [teardown]
  refine congrArg Host.Outcome.next (if_congr ?_ rfl rfl)
  simp

theorem turnDue_departure {s : State} {c : Ctx} {st : Starter} {f : Frame}
    (teardown : s.teardown c = some ⟨st, .departure f⟩) :
    turnDue s c = ((s.frame f).state != .held || !(s.frame f).holders.tail.head?.any Holder.withdrawing) := by
  unfold turnDue
  rw [teardown]
  cases h : (s.frame f).holders.tail <;> simp [h]

theorem exec_teardownFrameTurn_departure {s : State} {c : Ctx} {st : Starter} {f : Frame}
    (teardown : s.teardown c = some ⟨st, .departure f⟩) :
    exec (.teardownFrameTurn c) s = .next (
      if (s.frame f).state != .held || !(s.frame f).holders.tail.head?.any Holder.withdrawing then
        settle (nextCoHolder s c f)
      else s) := by
  rw [exec_teardownFrameTurn, turnDue_departure teardown]
  unfold takeTurn
  rw [teardown]

theorem nextCoHolder_of_not_held {s : State} {c : Ctx} {st : Starter} {x : TeardownStep} {f : Frame}
    (teardown : s.teardown c = some ⟨st, x⟩) (gone : (s.frame f).state ≠ .held) :
    nextCoHolder s c f = { s with teardowns := s.teardowns.set c (some ⟨st, .frames⟩) } := by
  unfold nextCoHolder
  rw [if_pos gone, setStep_of_some teardown]

theorem nextCoHolder_of_nil {s : State} {c : Ctx} {st : Starter} {x : TeardownStep} {f : Frame}
    (teardown : s.teardown c = some ⟨st, x⟩) (held : (s.frame f).state = .held) (nil : (s.frame f).holders.tail = []) :
    nextCoHolder s c f = { reclaimExit (giveUp s f c) f with teardowns := s.teardowns.set c (some ⟨st, .frames⟩) } := by
  have same : (reclaimExit (giveUp s f c) f).teardowns = s.teardowns := (teardowns_reclaimExit _ _).trans rfl
  unfold nextCoHolder
  rw [if_neg (not_not.2 held), nil]
  exact setStep_of_same same teardown _

theorem nextCoHolder_of_cons {s : State} {c : Ctx} {f : Frame} {h : Holder} {rest : List Holder}
    (held : (s.frame f).state = .held) (cons : (s.frame f).holders.tail = h :: rest) :
    nextCoHolder s c f = withdrawHolder s h.ctx f (.departure c) := by
  unfold nextCoHolder
  rw [if_neg (not_not.2 held), cons]

/-- Step 5 of a teardown whose context stands nowhere has come to its end (R43). -/
theorem frameTurn_of_none {s : State} {c : Ctx} (none : ∀ f, ∀ h ∈ (s.frame f).holders, h.ctx ≠ c) :
    frameTurn s c = finishTeardown s c := by
  have nowhere : lowestHeld s c = .none := lowestHeld_eq_none fun f => by
    unfold standsOn
    rw [Bool.and_eq_false_iff, ← Bool.not_eq_true, ← Bool.not_eq_true, holds_iff]
    exact .inr fun h => by
      obtain ⟨x, hx, hc⟩ := List.mem_map.1 h
      exact none f x hx hc
  unfold frameTurn
  rw [nowhere]

/-- Settles O40, by the step the teardown stands at and the cases of its examination. -/
theorem teardownTurnDealsWithFrame : Obligations.TeardownTurnDealsWithFrame := by
  refine ⟨?_, ?_⟩
  · intro s c st now f teardown hs flagged goes givesUp deals
    have deals_eq (held : (s.frame f).state = .held) (stands : c ∈ hs.map Holder.ctx) (free : anyWithdrawing hs = false) :
        examineTurn s c f = deals := (examineTurn_deals teardown held stands free).trans rfl
    refine ⟨?_, ?_, ?_, ?_⟩
    · intro before
      rw [exec_teardownFrameTurn]
      unfold turnDue
      rw [teardown]
      rcases before with rfl | rfl | rfl <;> rfl
    · rintro rfl held lowest
      rw [← Fin.find?_eq_find?_finRange, Fin.find?_eq_some_iff] at lowest
      obtain ⟨stands, lower⟩ := lowest
      have here : lowestHeld s c = some f := lowestHeld_eq_some
        (by unfold standsOn holds; rw [held, stands]; rfl) fun g hg => by
          unfold standsOn holds
          rw [lower g hg, Bool.and_false]
      have turn : frameTurn s c = examineTurn s c f := by
        unfold frameTurn
        rw [here]
      have member : c ∈ hs.map Holder.ctx := (holds_iff _ _).1 stands
      rw [exec_teardownFrameTurn_frames teardown, turn]
      cases waits : hs.any Holder.withdrawing
      · rw [deals_eq held member waits, if_neg Bool.false_ne_true]
      · rw [examineTurn_waits teardown held member waits, if_pos rfl]
    · rintro rfl
      rw [exec_teardownFrameTurn_turn teardown]
      refine congrArg Host.Outcome.next ?_
      by_cases held : (s.frame f).state = .held
      · rw [if_neg (not_not.2 held)]
        cases waits : hs.any Holder.withdrawing
        · rw [if_neg Bool.false_ne_true, if_pos (.inr waits)]
          by_cases stands : c ∈ hs.map Holder.ctx
          · rw [if_neg (not_not.2 stands), deals_eq held stands waits]
          · rw [if_pos stands, examineTurn_gone teardown (.inr stands)]
        · rw [if_pos rfl, if_neg (not_or.2 ⟨not_not.2 held, fun free => Bool.false_ne_true (free.symm.trans waits)⟩)]
      · rw [if_pos held, if_pos (.inl held), examineTurn_gone teardown (.inl held)]
    · rintro rfl
      refine ⟨_, exec_teardownFrameTurn_departure teardown, ?_⟩
      by_cases held : (s.frame f).state = .held
      · rw [if_neg (not_not.2 held)]
        cases tail : hs.tail with
        | nil =>
          have due : ((s.frame f).state != .held || !([] : List Holder).head?.any Holder.withdrawing) = true := by simp
          exact (if_pos due).trans (congrArg settle (nextCoHolder_of_nil teardown held tail))
        | cons h rest =>
          have due : ((s.frame f).state != .held || !(h :: rest).head?.any Holder.withdrawing) = true ↔
              ¬ h.withdrawing = true := by simp [held]
          by_cases leaves : h.withdrawing = true
          · exact (if_pos leaves).mpr (if_neg fun h => due.1 h leaves)
          · refine (if_neg leaves).mpr ⟨_, ?_, withdrawsHolder s h.ctx f (.departure c)⟩
            exact (if_pos (due.2 leaves)).trans (congrArg settle (nextCoHolder_of_cons held tail))
      · rw [if_pos held, if_pos (by simp [held]), nextCoHolder_of_not_held teardown held]
  · intro s c st teardown
    have ends : (∀ f, ∀ h ∈ (s.frame f).holders, h.ctx ≠ c) →
        exec (.teardownFrameTurn c) s = .next (settle (finishTeardown s c)) := fun none => by
      rw [exec_teardownFrameTurn_frames teardown, frameTurn_of_none none]
    refine ⟨fun none p hpooled owner => (ends none).trans ?_, fun none home => (ends none).trans ?_⟩
    · unfold finishTeardown pooled
      rw [owner, teardown, if_pos (decide_eq_true hpooled)]
      cases st <;> rfl
    · unfold finishTeardown pooled
      rw [if_neg (by simpa using home)]
      rfl

end Sys2Proof.Machine
end

section
/-! PROOFS. The ends of several offers at one event (R68, R69, R76): at a RELEASE (R16), at step 2 of a teardown (R38), and at a
millisecond tick. -/

namespace Sys2Proof.Machine

open Sys2Proof

/-! ## What a notice changes -/

/-- The telling of a notice changes the ports alone, and looks at ports and owners alone. -/
structure Tells (tell : State → State) : Prop where
  only : ∀ u, tell u = { u with ports := (tell u).ports }
  congr : ∀ u v : State, u.ports = v.ports → (∀ c, (u.ctx c).owner = (v.ctx c).owner) → (tell u).ports = (tell v).ports

theorem Tells.notifyOwner (c : Ctx) (n : Notice) : Tells fun u => notifyOwner u c n where
  only u := notifyOwner_eq u c n
  congr u v ports owners := by
    unfold Machine.notifyOwner
    rw [owners]
    cases (v.ctx c).owner with
    | none => exact ports
    | some p =>
      change u.ports.set p _ = v.ports.set p _
      unfold State.port
      rw [ports]

theorem Tells.addressOwner (c : Ctx) (n : Notice) : Tells fun u => addressOwner u c n where
  only u := addressOwner_eq u c n
  congr u v ports owners := by
    unfold Machine.addressOwner
    rw [owners]
    cases (v.ctx c).owner with
    | none => exact ports
    | some p =>
      change u.ports.set p _ = v.ports.set p _
      unfold State.port
      rw [ports]

theorem Tells.contexts {tell : State → State} (h : Tells tell) (u : State) : (tell u).contexts = u.contexts := by
  rw [h.only u]

theorem Tells.comp {tell more : State → State} (h : Tells tell) (k : Tells more) : Tells fun u => more (tell u) where
  only u := by
    have first := h.only u
    have second := k.only (tell u)
    calc more (tell u) = { tell u with ports := (more (tell u)).ports } := second
      _ = { ({ u with ports := (tell u).ports } : State) with ports := (more (tell u)).ports } :=
        congrArg (fun x : State => { x with ports := (more (tell u)).ports }) first
      _ = { u with ports := (more (tell u)).ports } := rfl
  congr u v ports owners :=
    k.congr _ _ (h.congr u v ports owners) fun c => by
      unfold State.ctx
      rw [h.contexts u, h.contexts v]
      exact owners c

/-- Where a test of the owner ports chooses between two tellings. -/
theorem Tells.iteOwner {tell more : State → State} (c d : Ctx) (h : Tells tell) (k : Tells more) :
    Tells fun u => if (u.ctx c).owner = (u.ctx d).owner then tell u else more u where
  only u := by
    split_ifs
    · exact h.only u
    · exact k.only u
  congr u v ports owners := by
    simp only [owners]
    split_ifs
    · exact h.congr u v ports owners
    · exact k.congr u v ports owners

/-! ## The ends of the offers that a test is true of -/

/-- One offer slot: an offer that the test is true of is removed, and told of. -/
def endIf (hit : OfferRec → Bool) (tell : OfferId → OfferRec → State → State) (s : State) (i : OfferId) : State :=
  match s.offer i with
  | none => s
  | some o => if hit o then tell i o (removeOffer s i) else s

/-- What is told of one offer slot of `s`. -/
def tellIf (s : State) (hit : OfferRec → Bool) (tell : OfferId → OfferRec → State → State) (u : State) (i : OfferId) : State :=
  match s.offer i with
  | some o => if hit o then tell i o u else u
  | none => u

/-- What the ends of the offers in a list of slots leave: the offers, the pending offer counts, the ports, and the rest. -/
structure OffersEnded (s : State) (hit : OfferRec → Bool) (tell : OfferId → OfferRec → State → State) (l : List OfferId)
    (u : State) : Prop where
  offer : ∀ i, u.offer i = if i ∈ l ∧ (s.offer i).any hit = true then none else s.offer i
  frame : ∀ f, u.frame f = { s.frame f with pendingOffers := (s.frame f).pendingOffers -
    (l.countP fun i => (s.offer i).any hit && (s.offer i).map OfferRec.frame == some f) }
  ports : u.ports = (l.foldl (tellIf s hit tell) s).ports
  rest : { u with frames := s.frames, offers := s.offers, ports := s.ports } = s

section

variable {hit : OfferRec → Bool} {tell : OfferId → OfferRec → State → State} (tells : ∀ i o, Tells (tell i o))
include tells

theorem endIf_eq (s : State) (i : OfferId) :
    OffersEnded s hit tell [i] (endIf hit tell s i) := by
  unfold endIf
  cases offer : s.offer i with
  | none =>
    refine ⟨fun j => ?_, fun f => ?_, ?_, rfl⟩
    · by_cases h : j = i
      · rw [h, offer, if_neg (by simp)]
      · rw [if_neg (by simp [h])]
    · simp [offer]
    · simp [tellIf, offer]
  | some o =>
    by_cases h : hit o = true
    · simp only [h, if_true]
      have only := (tells i o).only (removeOffer s i)
      have removed := removeOffer_of_some offer
      refine ⟨fun j => ?_, fun f => ?_, ?_, ?_⟩
      · rw [only, removed]
        change (s.offers.set i none).get j = _
        rw [vector_get_set]
        by_cases hj : j = i
        · simp [hj, offer, h]
        · simp [hj]
      · rw [only, removed]
        change (s.frames.set o.frame _).get f = _
        rw [vector_get_set]
        by_cases hf : f = o.frame
        · simp [hf, offer, h]
        · simp [hf, offer, Ne.symm hf]
      · have same : (removeOffer s i).ports = s.ports ∧ (removeOffer s i).contexts = s.contexts := by
          rw [removed]
          exact ⟨rfl, rfl⟩
        rw [List.foldl_cons, List.foldl_nil]
        unfold tellIf
        rw [offer]
        simp only [h, if_true]
        exact (tells i o).congr _ _ same.1 fun c => by
          unfold State.ctx
          rw [same.2]
      · rw [only, removed]
    · simp only [h]
      refine ⟨fun j => ?_, fun f => ?_, ?_, rfl⟩
      · by_cases hj : j = i
        · simp [hj, offer, h]
        · simp [hj]
      · simp [offer, h]
      · simp [tellIf, offer, h]

omit tells in
/-- Beside the offers ended, nothing that a later end looks at is changed. -/
theorem OffersEnded.contexts {s u : State} {l : List OfferId} (h : OffersEnded s hit tell l u) : u.contexts = s.contexts := by
  have kept := congrArg State.contexts h.rest
  exact kept

/-- What is told rests on the ports, the context records and the offers told of. -/
theorem tellIf_foldl_congr {s t : State} {l : List OfferId} (offers : ∀ i ∈ l, t.offer i = s.offer i) {u v : State}
    (ports : u.ports = v.ports) (owners : ∀ c, (u.ctx c).owner = (v.ctx c).owner) :
    (l.foldl (tellIf t hit tell) u).ports = (l.foldl (tellIf s hit tell) v).ports := by
  induction l generalizing u v with
  | nil => exact ports
  | cons i l ih =>
    have one : (tellIf t hit tell u i).ports = (tellIf s hit tell v i).ports ∧
        ∀ c, ((tellIf t hit tell u i).ctx c).owner = ((tellIf s hit tell v i).ctx c).owner := by
      unfold tellIf
      rw [offers i (List.mem_cons_self ..)]
      cases s.offer i with
      | none => exact ⟨ports, owners⟩
      | some o =>
        by_cases h : hit o = true
        · simp only [h, if_true]
          refine ⟨(tells i o).congr u v ports owners, fun c => ?_⟩
          unfold State.ctx
          rw [(tells i o).contexts u, (tells i o).contexts v]
          exact owners c
        · simp only [h]
          exact ⟨ports, owners⟩
    rw [List.foldl_cons, List.foldl_cons]
    exact ih (fun j hj => offers j (List.mem_cons_of_mem _ hj)) one.1 one.2

theorem offersEnded_foldl {l : List OfferId} (nodup : l.Nodup) (s : State) :
    OffersEnded s hit tell l (l.foldl (endIf hit tell) s) := by
  induction l generalizing s with
  | nil => exact ⟨fun i => by simp, fun f => rfl, rfl, rfl⟩
  | cons a l ih =>
    obtain ⟨fresh, nodup⟩ := List.nodup_cons.1 nodup
    have first := endIf_eq (hit := hit) tells s a
    have later := ih nodup (endIf hit tell s a)
    have same (i : OfferId) (hi : i ∈ l) : (endIf hit tell s a).offer i = s.offer i := by
      rw [first.offer, if_neg]
      rintro ⟨h, -⟩
      exact fresh (List.mem_singleton.1 h ▸ hi)
    rw [List.foldl_cons]
    refine ⟨fun i => ?_, fun f => ?_, ?_, ?_⟩
    · rw [later.offer]
      by_cases hi : i ∈ l
      · simp [hi, same i hi]
      · rw [if_neg (fun h => hi h.1), first.offer]
        simp [hi]
    · have count : (l.countP fun i => ((endIf hit tell s a).offer i).any hit &&
            ((endIf hit tell s a).offer i).map OfferRec.frame == some f) =
          l.countP fun i => (s.offer i).any hit && (s.offer i).map OfferRec.frame == some f :=
        List.countP_congr fun i hi => by rw [same i hi]
      rw [later.frame, first.frame, count, List.countP_cons, List.countP_cons, List.countP_nil]
      simp only [Nat.sub_sub, Nat.zero_add, Nat.add_comm]
    · rw [later.ports, List.foldl_cons]
      have one : (endIf hit tell s a).ports = (tellIf s hit tell s a).ports := first.ports
      have contexts : (tellIf s hit tell s a).contexts = s.contexts := by
        unfold tellIf
        split
        · split
          · exact (tells _ _).contexts s
          · rfl
        · rfl
      refine tellIf_foldl_congr tells same one fun c => ?_
      unfold State.ctx
      rw [first.contexts, contexts]
    · calc { l.foldl (endIf hit tell) (endIf hit tell s a) with
              frames := s.frames, offers := s.offers, ports := s.ports }
          = { ({ l.foldl (endIf hit tell) (endIf hit tell s a) with
                frames := (endIf hit tell s a).frames, offers := (endIf hit tell s a).offers,
                ports := (endIf hit tell s a).ports } : State) with
              frames := s.frames, offers := s.offers, ports := s.ports } := rfl
        _ = { endIf hit tell s a with frames := s.frames, offers := s.offers, ports := s.ports } := by rw [later.rest]
        _ = s := first.rest

theorem offersEnded (s : State) :
    OffersEnded s hit tell (List.finRange 16) ((List.finRange 16).foldl (endIf hit tell) s) :=
  offersEnded_foldl tells (List.nodup_finRange 16) s

end

/-! ## RELEASE accepted (R16) -/

/-- What the cancellation at a RELEASE tells of an offer (R76). -/
def tellTarget (i : OfferId) (o : OfferRec) (u : State) : State :=
  notifyOwner u o.target (.offerEnded i o.serial o.frame .cancelled)

theorem cancelOffersOn_eq (s : State) (f : Frame) :
    cancelOffersOn s f = (List.finRange 16).foldl (endIf (fun o => o.frame == f) tellTarget) s := by
  unfold cancelOffersOn
  congr 1
  funext u i
  unfold endIf
  cases offer : u.offer i with
  | none => rfl
  | some o =>
    simp only [beq_iff_eq]
    split_ifs
    · exact cancelOffer_of_some offer _
    · rfl

theorem offersEnded_cancelOffersOn (s : State) (f : Frame) :
    OffersEnded s (fun o => o.frame == f) tellTarget (List.finRange 16) (cancelOffersOn s f) := by
  rw [cancelOffersOn_eq]
  exact offersEnded (fun i o => Tells.notifyOwner o.target _) s

theorem exec_release {s : State} {p : Port} {t : Tag} {q : ControlSlot} (h : Requested s p t .release q) :
    exec (.release p t) s = .next (serveChecked s p t (releaseCheck s p q.operands) fun a => acceptRelease s p t a.1 a.2) :=
  takeRequest_of_requested h _

/-- States alike beside what `settle` may change have the same transit tables. -/
theorem transit_of_apart {u s : State} (h : u.apart = s.apart) (p : Port) : (u.port p).transit = (s.port p).transit := by
  have port := congrArg (fun t : State => (t.ports.get p).transit) h
  simp only [State.apart, mapVec_get] at port
  exact port

theorem apart_cancelOffersOn (s : State) (f : Frame) : (cancelOffersOn s f).apart = s.apart :=
  State.apart_foldl (fun s i => by
    split <;> [rfl; skip]
    split <;> [exact State.apart_cancelOffer _ _ _; rfl]) _ _

/-- A frame loses no pending offer by the ends of another's. -/
theorem offersNaming_of_ne (s : State) {f k : Frame} (other : k ≠ f) (l : List OfferId) :
    (l.countP fun i => (s.offer i).any (fun o => o.frame == f) && (s.offer i).map OfferRec.frame == some k) = 0 := by
  refine List.countP_eq_zero.2 fun i _ both => ?_
  cases offer : s.offer i with
  | none => simp [offer] at both
  | some o =>
    simp only [offer, Option.any_some, Option.map_some, Bool.and_eq_true, beq_iff_eq, Option.some.injEq] at both
    exact other (both.2.symm.trans both.1)

theorem transit_carriedOn (s : State) (p q : Port) (t : Tag) : ((carriedOn s p t).port q).transit = (s.port q).transit := by
  change ((s.ports.set p ((s.port p).carriedOn t)).get q).transit = _
  rw [vector_get_set]
  split_ifs with hq
  · rw [hq]
    rfl
  · rfl

/-- The frame records after a give-up. -/
theorem frame_giveUp (s : State) (f k : Frame) (c : Ctx) :
    (giveUp s f c).frame k =
      if k = f then { s.frame f with state := .reclaim, holders := [], pendingOffers := 0 } else s.frame k := by
  unfold giveUp
  rw [frame_modCtx, frame_modFrame]

/-- The context records after a give-up. -/
theorem ctx_giveUp (s : State) (f : Frame) (c d : Ctx) :
    (giveUp s f c).ctx d = if d = c then { s.ctx c with charged := (s.ctx c).charged - 1 } else s.ctx d := by
  unfold giveUp
  rw [ctx_modCtx, ctx_modFrame, ctx_modFrame]

/-- Settles O17: the give-up, the cancellation and the start of the withdrawal, read one through the other. -/
theorem releaseAccepted : Obligations.ReleaseAccepted := by
  intro s p t q c f requested hc hf accepted k
  have given := giveUp_eq (carriedOn s p t) f c
  have bframe := fun k => frame_giveUp (carriedOn s p t) f k c
  have bctx := fun d => ctx_giveUp (carriedOn s p t) f c d
  have ended := offersEnded_cancelOffersOn (giveUp (carriedOn s p t) f c) f
  have start := invalidated (cancelOffersOn (giveUp (carriedOn s p t) f c) f) c (some f)
  have drain : drainSet (cancelOffersOn (giveUp (carriedOn s p t) f c) f) c (some f) = drainSet s c (some f) := by
    refine drainSet_congr (fun q => (transit_of_apart (apart_cancelOffersOn _ _) q).trans ?_) _ _
    rw [given]
    exact transit_carriedOn s p q t
  refine ⟨startWithdrawal (cancelOffersOn (giveUp (carriedOn s p t) f c) f) c (some f) (.release p t), ?_, ?_⟩
  · refine (exec_release requested).trans (congrArg Host.Outcome.next ?_)
    rw [releaseCheck_of_operands hc hf, accepted]
    rfl
  rw [startWithdrawal_eq, drain]
  generalize giveUp (carriedOn s p t) f c = b at given bframe bctx ended start ⊢
  generalize cancelOffersOn b f = d at ended start ⊢
  generalize invalidate d c (some f) = v at start ⊢
  have boffer (i : OfferId) : b.offer i = s.offer i := by
    rw [given]
    rfl
  have entries (e : Ctx) (g : Page) : d.entry e g = s.entry e g := by
    have kept := congrArg (fun x : State => x.entry e g) ended.rest
    refine kept.trans ?_
    rw [given]
    rfl
  have ctxs (e : Ctx) : d.ctx e = if e = c then { s.ctx c with charged := (s.ctx c).charged - 1 } else s.ctx e := by
    have kept := congrArg (fun x : State => x.ctx e) ended.rest
    exact kept.trans (bctx e)
  have frames (k : Frame) : d.frame k =
      if k = f then { s.frame f with state := .reclaim, holders := [], pendingOffers := 0 } else s.frame k := by
    rw [ended.frame]
    by_cases hk : k = f
    · rw [bframe, if_pos hk, if_pos hk, Nat.zero_sub]
      rfl
    · rw [offersNaming_of_ne _ hk, bframe, if_neg hk, if_neg hk]
      rfl
  have withdrawals : d.withdrawals = s.withdrawals := by
    have kept := congrArg State.withdrawals ended.rest
    refine kept.trans ?_
    rw [given]
    rfl
  have loses_eq : loses d c (some f) = fun g => (s.entry c g).map MapEntry.frame == some f :=
    funext fun g => (loses_frame d c f g).trans (by rw [entries])
  obtain ⟨entry, frame, ctx, rest⟩ := start
  simp only [loses_eq, entries, List.mem_finRange, true_and, beq_iff_eq] at entry frame ctx
  refine ⟨?_, fun k hk => ?_, ?_, fun e he => ?_, entry, fun i => ?_, ?_, ?_, ?_⟩
  · refine (frame f).trans ?_
    simp only [Bool.and_self, frames, if_true]
    rfl
  · refine (frame k).trans ?_
    have apart : ((List.finRange 128).countP fun g => (s.entry c g).map MapEntry.frame == some k &&
        (s.entry c g).map MapEntry.frame == some f) = 0 := by
      refine List.countP_eq_zero.2 fun g _ both => ?_
      simp only [Bool.and_eq_true, beq_iff_eq] at both
      exact hk (Option.some.inj (both.1.symm.trans both.2))
    rw [apart, frames, if_neg hk]
    rfl
  · refine (ctx c).trans ?_
    simp only [if_true, ctxs]
    rfl
  · refine (ctx e).trans ?_
    simp only [if_neg he, ctxs]
  · have kept := congrArg (fun x : State => x.offer i) rest
    refine kept.trans ((ended.offer i).trans ?_)
    rw [boffer]
    cases s.offer i with
    | none => simp
    | some o => simp
  · have kept := congrArg State.ports rest
    refine kept.trans (ended.ports.trans ?_)
    have told : (((List.finRange 16).foldl (tellIf b (fun o => o.frame == f) tellTarget) b)).ports =
        (((List.finRange 16).foldl (tellIf s (fun o => o.frame == f) tellTarget) (carriedOn s p t))).ports := by
      refine tellIf_foldl_congr (fun i o => Tells.notifyOwner o.target _) (fun i _ => boffer i) ?_ fun e => ?_
      · rw [given]
      · rw [bctx]
        by_cases he : e = c
        · rw [if_pos he, he]
        · rw [if_neg he]
    refine told.trans (congrArg (fun g => ((List.finRange 16).foldl g (carriedOn s p t)).ports) ?_)
    funext u i
    unfold tellIf
    cases s.offer i with
    | none => rfl
    | some o =>
      simp only [beq_iff_eq]
      split_ifs with h
      · unfold tellTarget
        rw [h]
      · rfl
  · rw [withdrawals]
  · have first := congrArg (fun x : State => { x with
      frames := s.frames, contexts := s.contexts, maps := s.maps, offers := s.offers, ports := s.ports,
      withdrawals := s.withdrawals }) rest
    have second := congrArg (fun x : State => { x with
      frames := s.frames, contexts := s.contexts, maps := s.maps, offers := s.offers, ports := s.ports,
      withdrawals := s.withdrawals }) ended.rest
    refine first.trans (second.trans ?_)
    rw [given]
    rfl

end Sys2Proof.Machine
end

section
/-! PROOFS. Expiry (R68, R69), step 2 of a teardown (R38) and the ends of the loads that a teardown concerns (R149, R150). -/

namespace Sys2Proof.Machine

open Sys2Proof

/-- Two folds whose steps agree wherever an invariant of the one holds. -/
theorem foldl_congr_of {α β : Type} {P : β → Prop} {g h : β → α → β} (keeps : ∀ v i, P v → P (g v i))
    (same : ∀ v i, P v → g v i = h v i) (l : List α) {v : β} (start : P v) : l.foldl g v = l.foldl h v := by
  induction l generalizing v with
  | nil => rfl
  | cons i l ih =>
    rw [List.foldl_cons, List.foldl_cons, ← same v i start]
    exact ih (keeps v i start)

/-! ## Expiry (R68, R69) -/

/-- What the expiry of an offer tells (R69): both owner ports, once where they are one. -/
def tellBoth (i : OfferId) (o : OfferRec) (u : State) : State :=
  if (u.ctx o.offerer).owner = (u.ctx o.target).owner then addressOwner u o.offerer (.offerEnded i o.serial o.frame .expired)
  else addressOwner (addressOwner u o.offerer (.offerEnded i o.serial o.frame .expired)) o.target
    (.offerEnded i o.serial o.frame .expired)

theorem tells_tellBoth (i : OfferId) (o : OfferRec) : Tells (tellBoth i o) :=
  Tells.iteOwner o.offerer o.target (Tells.addressOwner _ _) ((Tells.addressOwner _ _).comp (Tells.addressOwner _ _))

theorem expireOffer_of_some {s : State} {i : OfferId} {o : OfferRec} (offer : s.offer i = some o) :
    expireOffer s i = tellBoth i o (removeOffer s i) := by
  have ctxs (c : Ctx) : (removeOffer s i).ctx c = s.ctx c := by
    rw [removeOffer_of_some offer]
    rfl
  unfold expireOffer tellBoth
  rw [offer]
  simp only [endOffer_of_some offer, ctxs]

theorem expireDue_eq (s : State) : expireDue s = (List.finRange 16).foldl (endIf (fun o => o.remaining == 0) tellBoth) s := by
  unfold expireDue
  congr 1
  funext u i
  unfold endIf offerDue
  cases offer : u.offer i with
  | none => rfl
  | some o =>
    dsimp only
    rw [expireOffer_of_some offer]

/-- An offer one millisecond later (R68). -/
def lowered (o : OfferRec) : OfferRec := { o with remaining := o.remaining - 1 }

theorem offer_lowerLifetimes (s : State) (i : OfferId) : (lowerLifetimes s).offer i = (s.offer i).map lowered :=
  mapVec_get _ _ _

/-- Settles O51: every lifetime falls, and the offers that then have none left expire. -/
theorem offerLifetimesFallAndExpire : Obligations.OfferLifetimesFallAndExpire := by
  refine ⟨fun s => ⟨fun asserted => congrArg Host.Outcome.next (if_pos asserted), fun released => ?_⟩, ?_⟩
  · intro ends
    have offers (i : OfferId) : (lowerLifetimes { s with msTicks := s.msTicks + 1 }).offer i = (s.offer i).map lowered :=
      offer_lowerLifetimes _ i
    have ended := offersEnded (hit := fun o => o.remaining == 0) tells_tellBoth (lowerLifetimes { s with msTicks := s.msTicks + 1 })
    rw [← expireDue_eq] at ended
    refine ⟨expireDue (lowerLifetimes { s with msTicks := s.msTicks + 1 }),
      congrArg Host.Outcome.next (if_neg (by rw [released]; decide)), ?_⟩
    obtain ⟨left, later⟩ : ∃ left, lowerLifetimes { s with msTicks := s.msTicks + 1 } =
      { s with msTicks := s.msTicks + 1, offers := left } := ⟨_, rfl⟩
    generalize lowerLifetimes { s with msTicks := s.msTicks + 1 } = u at offers ended later ⊢
    generalize expireDue u = t at ended ⊢
    have hits (i : OfferId) : (u.offer i).any (fun o => o.remaining == 0) = ends i := by
      rw [offers]
      change _ = (s.offer i).any _
      cases s.offer i with
      | none => rfl
      | some o =>
        simp only [Option.map_some, Option.any_some, lowered]
        rw [Bool.eq_iff_iff, beq_iff_eq, decide_eq_true_iff]
        omega
    have named (i : OfferId) : (u.offer i).map OfferRec.frame = (s.offer i).map OfferRec.frame := by
      rw [offers]
      cases s.offer i <;> rfl
    have frames (f : Frame) : u.frame f = s.frame f := by
      rw [later]
      rfl
    refine ⟨fun i => ?_, fun f => ?_, ?_, ?_⟩
    · rw [ended.offer, hits, offers]
      simp only [List.mem_finRange, true_and]
      rfl
    · rw [ended.frame, frames]
      simp only [hits, named]
      rfl
    · refine ended.ports.trans ?_
      have from_s : ((List.finRange 16).foldl (tellIf u (fun o => o.remaining == 0) tellBoth) u).ports =
          ((List.finRange 16).foldl (tellIf u (fun o => o.remaining == 0) tellBoth) s).ports := by
        refine tellIf_foldl_congr tells_tellBoth (fun _ _ => rfl) ?_ fun c => ?_
        · rw [later]
        · rw [later]
          rfl
      refine from_s.trans (congrArg State.ports (foldl_congr_of (P := fun v => v.contexts = s.contexts) ?_ ?_ _ rfl))
      · intro v i contexts
        unfold tellIf
        split
        · split
          · exact ((tells_tellBoth _ _).contexts v).trans contexts
          · exact contexts
        · exact contexts
      · intro v i contexts
        have owners (c : Ctx) : v.ctx c = s.ctx c := by
          unfold State.ctx
          rw [contexts]
        have hit := hits i
        unfold tellIf
        rw [offers] at hit ⊢
        cases offer : s.offer i with
        | none => rfl
        | some o =>
          rw [offer] at hit
          refine if_congr (by rw [← hit]; rfl) ?_ rfl
          unfold tellBoth
          simp only [owners]
          rfl
    · refine (congrArg (fun x : State => { x with frames := s.frames, offers := s.offers, ports := s.ports }) ended.rest).trans ?_
      rw [later]
  · intro s i o offer due removed told
    have due' : offerDue s i = true := by
      unfold offerDue
      rw [offer]
      exact beq_iff_eq.2 due
    refine congrArg Host.Outcome.next ((if_pos due').trans ?_)
    rw [expireOffer_of_some offer, removeOffer_of_some offer]
    rfl

/-! ## The ends of the loads that a teardown concerns (R149, R150) -/

/-- Responses do not look at the load queue. -/
theorem foldl_respond_withQueue (v : Verdict) (rs : List Byte) (queue : List LoadRec) (l : List LoadRec) (s : State) :
    l.foldl (fun u x => respond u x.port x.tag v rs) { s with loadQueue := queue } =
      { l.foldl (fun u x => respond u x.port x.tag v rs) s with loadQueue := queue } := by
  induction l generalizing s with
  | nil => rfl
  | cons x l ih => exact ih (respond s x.port x.tag v rs)

/-- A load that a teardown ends is answered LOAD_STOPPED with CONTEXT_GONE. -/
theorem endLoadsWhere_endsLoads (s : State) (ends : LoadRec → Bool) {stop : StopRequest}
    (gone : ∀ n, stopRequestEnd stop n = stopped .contextGone n) : EndsLoads s (endLoadsWhere s ends stop) ends stop := by
  refine ⟨fun empty => ?_, fun r rest queue => ?_⟩
  · unfold endLoadsWhere removeQueued
    rw [empty]
    dsimp only
    rw [empty]
  · intro kept told
    have removed : removeQueued s ends (stopped .contextGone 0) = { told with loadQueue := r :: kept } := by
      unfold removeQueued
      rw [queue]
      exact foldl_respond_withQueue _ _ _ _ _
    have load : told.load = s.load := foldl_keeps (P := fun u => u.load = s.load)
      (g := fun u (x : LoadRec) => respond u x.port x.tag .loadStopped [7, 0, 0, 0]) (fun _ _ h => h) _ rfl
    have placed : endLoadsWhere s ends stop =
        if ends r = true then placeStop { told with loadQueue := r :: kept } stop else { told with loadQueue := r :: kept } := by
      unfold endLoadsWhere
      rw [removed]
    rw [placed]
    clear_value told
    cases concerned : ends r
    · rw [if_neg Bool.false_ne_true, if_pos (.inl rfl)]
    · rw [if_pos rfl]
      by_cases free : r.stop = none
      · rw [if_neg (not_or.2 ⟨Bool.noConfusion, not_not.2 free⟩)]
        by_cases ready : s.load = .ready
        · rw [if_pos ready, placeStop_of_ready (s := { told with loadQueue := r :: kept }) rfl free (load.trans ready), gone]
          rfl
        · rw [if_neg ready, placeStop_of_not_ready (s := { told with loadQueue := r :: kept }) rfl free
            fun h => ready (load.symm.trans h)]
      · rw [if_pos (.inr free), placeStop_of_stopped (s := { told with loadQueue := r :: kept }) rfl free]

theorem endLoadsOfCtx_endsLoads (s : State) (c : Ctx) :
    EndsLoads s (endLoadsOfCtx s c) (fun r => r.target == c) .contextGone :=
  endLoadsWhere_endsLoads s _ fun _ => rfl

theorem endLoadsOfPort_endsLoads (s : State) (p : Port) :
    EndsLoads s (endLoadsOfPort s p) (fun r => r.port == p) .portReset :=
  endLoadsWhere_endsLoads s _ fun _ => rfl

/-- Where no load is concerned nothing is changed. -/
theorem EndsLoads.eq_self {s v : State} {ends : LoadRec → Bool} {stop : StopRequest} (h : EndsLoads s v ends stop)
    (none : ∀ r ∈ s.loadQueue, ends r = false) : v = s := by
  obtain ⟨empty, cons⟩ := h
  cases queue : s.loadQueue with
  | nil => exact empty queue
  | cons r rest =>
    rw [queue] at none
    have others : rest.filter ends = [] := List.filter_eq_nil_iff.2 fun x hx => by
      simp [none x (List.mem_cons_of_mem _ hx)]
    have kept : (rest.filter fun x => !ends x) = rest := List.filter_eq_self.2 fun x hx => by
      simp [none x (List.mem_cons_of_mem _ hx)]
    have this := cons r rest queue
    rw [others, kept] at this
    refine this.trans ((if_pos (.inl (none r List.mem_cons_self))).trans ?_)
    rw [← queue]
    rfl

/-! ## Step 2 of a teardown (R38) -/

/-- What the cancellation at step 2 of the teardown of `c` tells of an offer (R76): the other party. -/
def tellOther (c : Ctx) (i : OfferId) (o : OfferRec) (u : State) : State :=
  notifyOwner u (if o.offerer = c then o.target else o.offerer) (.offerEnded i o.serial o.frame .cancelled)

theorem cancelOffersOf_eq (s : State) (c : Ctx) :
    cancelOffersOf s c = (List.finRange 16).foldl (endIf (fun o => o.offerer == c || o.target == c) (tellOther c)) s := by
  unfold cancelOffersOf
  congr 1
  funext u i
  unfold endIf
  cases offer : u.offer i with
  | none => rfl
  | some o =>
    unfold tellOther
    simp only [Bool.or_eq_true, beq_iff_eq]
    by_cases from' : o.offerer = c
    · rw [if_pos from', if_pos (.inl from'), if_pos from']
      exact cancelOffer_of_some offer _
    · by_cases toward : o.target = c
      · rw [if_neg from', if_pos toward, if_pos (.inr toward), if_neg from']
        exact cancelOffer_of_some offer _
      · rw [if_neg from', if_neg toward, if_neg (not_or.2 ⟨from', toward⟩)]

theorem offersEnded_cancelOffersOf (s : State) (c : Ctx) :
    OffersEnded s (fun o => o.offerer == c || o.target == c) (tellOther c) (List.finRange 16) (cancelOffersOf s c) := by
  rw [cancelOffersOf_eq]
  exact offersEnded (fun i o => Tells.notifyOwner _ _) s

/-- Settles O39: the cancellation offer by offer, then the ends of the context's loads. -/
theorem teardownCancelsOffers : Obligations.TeardownCancelsOffers := by
  intro s c st teardown hit fallen
  have ended := offersEnded_cancelOffersOf s c
  refine ⟨(cancelOffersOf s c).setTeardown c (some ⟨st, .loads⟩), ?_, ?_⟩
  · change execTeardownOfferCancel c s = _
    unfold execTeardownOfferCancel
    rw [teardown]
    rfl
  generalize cancelOffersOf s c = d at ended ⊢
  have teardowns (e : Ctx) : d.teardown e = s.teardown e := by
    have kept := congrArg (fun x : State => x.teardown e) ended.rest
    exact kept
  have loads : d.loadQueue = s.loadQueue := by
    have kept := congrArg State.loadQueue ended.rest
    exact kept
  refine ⟨?_, fun e he => ?_, fun i => ?_, fun f => ?_, ?_, ?_, endLoadsOfCtx_endsLoads _ c, fun none => ?_⟩
  · rw [State.teardown_setTeardown, if_pos rfl]
  · rw [State.teardown_setTeardown, if_neg he, teardowns]
  · refine (ended.offer i).trans ?_
    simp only [List.mem_finRange, true_and]
    rfl
  · exact ended.frame f
  · refine ended.ports.trans (congrArg (fun g => ((List.finRange 16).foldl g s).ports) ?_)
    funext u i
    unfold tellIf
    cases s.offer i with
    | none => rfl
    | some o =>
      unfold tellOther
      simp only [Bool.or_eq_true, beq_iff_eq]
      by_cases from' : o.offerer = c
      · rw [if_pos (.inl from'), if_pos from', if_pos from']
      · by_cases toward : o.target = c
        · rw [if_neg from', if_pos toward, if_pos (.inr toward), if_neg from']
        · rw [if_neg (not_or.2 ⟨from', toward⟩), if_neg from', if_neg toward]
  · exact congrArg (fun x : State => { x with
      frames := s.frames, teardowns := s.teardowns, offers := s.offers, ports := s.ports }) ended.rest
  · refine (endLoadsOfCtx_endsLoads _ c).eq_self fun r hr => ?_
    exact beq_eq_false_iff_ne.2 (none r (loads ▸ hr))

end Sys2Proof.Machine
end

section
/-! PROOFS. The steps of a port teardown (R166, R167). -/

namespace Sys2Proof.Machine

open Sys2Proof

/-- Where nothing is due the event is over, and its notices are placed. -/
theorem settle_of_settled {s : State} (h : Settled s) : settle s = placeNotices s := settle_of_none ((settled_iff s).1 h)

/-- What a port teardown waits for rests on its port's state, the load queue and the teardowns. -/
theorem portDue_setPort (s : State) (p q : Port) (r : PortRec) :
    portDue (s.setPort p r) q = if q = p then portDue { s with ports := s.ports.set p r } p else portDue s q := by
  by_cases h : q = p
  · rw [if_pos h, h]
    rfl
  · have same : (s.setPort p r).port q = s.port q := by rw [State.port_setPort, if_neg h]
    unfold portDue
    rw [if_neg h, same]
    rfl

theorem portDue_of_contexts {s : State} {p : Port} {c : Ctx} (h : (s.port p).state = .teardown (.contexts c)) :
    portDue s p = (s.teardown c).isNone := by
  unfold portDue
  rw [h]

theorem portDue_of_loads {s : State} {p : Port} (h : (s.port p).state = .teardown .loads) :
    portDue s p = !loadOfPort s p := by
  unfold portDue
  rw [h]

theorem portDue_congr {s u : State} {p : Port} (state : (u.port p).state = (s.port p).state)
    (loads : u.loadQueue = s.loadQueue) (teardowns : ∀ c, (u.teardown c).isNone = true → (s.teardown c).isNone = true)
    (quiet : portDue s p = false) : portDue u p = false := by
  unfold portDue loadOfPort at quiet ⊢
  rw [state, loads]
  split at quiet
  · exact quiet
  · rename_i c _
    by_contra due
    rw [Bool.not_eq_false] at due
    rw [teardowns c due] at quiet
    cases quiet
  · exact quiet

section

variable {p : Port} {s : State} (drains : ∀ w ∈ s.withdrawals, w.drain ≠ [])
  (turns : ∀ c, turnDue s c = false ∧ stepDue s c = false) (others : ∀ q, q ≠ p → portDue s q = false)
include drains turns others

/-- A change of the port's state alone leaves nothing due beside the port. -/
theorem settled_withPort {r : PortRec} (quiet : portDue (s.setPort p r) p = false) : Settled (s.setPort p r) where
  drains := drains
  turns c := (turns c).1
  steps c := (turns c).2
  ports q := by
    by_cases h : q = p
    · rw [h]
      exact quiet
    · rw [portDue_setPort, if_neg h]
      exact others q h

/-- The port teardown goes on to a pooled context, with nothing left due at the event (R166, R167). -/
theorem settle_enterContext {c : Ctx} (next : nextPooled s p = some c) :
    settle (enterContext s p) = placeNotices (
      if (s.ctx c).state = .live then
        startPooledTeardown (s.setPort p { s.port p with state := .teardown (.contexts c) }) c (.portReset p)
      else s.setPort p { s.port p with state := .teardown (.contexts c) }) := by
  have entered : enterContext s p =
      if (s.ctx c).state = .live then
        startPooledTeardown (s.setPort p { s.port p with state := .teardown (.contexts c) }) c (.portReset p)
      else s.setPort p { s.port p with state := .teardown (.contexts c) } := by
    unfold enterContext
    rw [next]
    exact if_congr (live_iff s c) rfl rfl
  rw [entered]
  refine settle_of_settled ?_
  have state : ((s.setPort p { s.port p with state := .teardown (.contexts c) }).port p).state = .teardown (.contexts c) := by
    rw [State.port_setPort, if_pos rfl]
  split_ifs with hlive
  · generalize hu : s.setPort p { s.port p with state := .teardown (.contexts c) } = u at state ⊢
    have untouched (d : Ctx) (hd : d ≠ c) : (startPooledTeardown u c (.portReset p)).teardown d = s.teardown d := by
      unfold startPooledTeardown
      rw [State.teardown_setTeardown, if_neg hd, ← hu]
      rfl
    have fresh : (startPooledTeardown u c (.portReset p)).teardown c = some ⟨.portReset p, .offers⟩ := by
      unfold startPooledTeardown
      rw [State.teardown_setTeardown, if_pos rfl]
    have frames : (startPooledTeardown u c (.portReset p)).frames = s.frames := by
      rw [← hu]
      rfl
    have loads : (startPooledTeardown u c (.portReset p)).loadQueue = s.loadQueue := by
      rw [← hu]
      rfl
    refine ⟨?_, fun d => ?_, fun d => ?_, fun q => ?_⟩
    · rw [← hu]
      exact drains
    · by_cases hd : d = c
      · unfold turnDue
        rw [hd, fresh]
      · have quiet := (turns d).1
        unfold turnDue State.frame at quiet ⊢
        rw [untouched d hd, frames]
        exact quiet
    · by_cases hd : d = c
      · unfold stepDue
        rw [hd, fresh]
      · have quiet := (turns d).2
        unfold stepDue loadTargets at quiet ⊢
        rw [untouched d hd, loads]
        exact quiet
    · by_cases hq : q = p
      · have here : ((startPooledTeardown u c (.portReset p)).port p).state = .teardown (.contexts c) := state
        rw [hq, portDue_of_contexts here, fresh]
        rfl
      · refine portDue_congr (s := s) ?_ loads (fun d none => ?_) (others q hq)
        · rw [← hu]
          change ((s.setPort p _).port q).state = _
          rw [State.port_setPort, if_neg hq]
        · by_cases hd : d = c
          · rw [hd, fresh] at none
            cases none
          · rw [← untouched d hd]
            exact none
  · refine settled_withPort drains turns others ?_
    rw [portDue_of_contexts state]
    obtain ⟨-, isLive | waits⟩ := nextPooled_spec next
    · exact absurd ((live_iff s c).1 isLive) hlive
    · rw [← Option.not_isSome, Bool.not_eq_false']
      exact waits

end

/-- Settles O8, by the place where the port teardown stands. -/
theorem portTeardownGoesOn : Obligations.PortTeardownGoesOn := by
  intro p s drains turns others enters entersHome
  have goesOn : settle (enterContext s p) =
      (match nextPooled s p with | some c => placeNotices (enters c) | none => entersHome) := by
    cases next : nextPooled s p with
    | none =>
      unfold enterContext
      rw [next]
      rfl
    | some c =>
      exact settle_enterContext drains turns others next
  refine ⟨fun state noLoads => ?_, fun d state pool ended => ?_, fun state ended => ?_⟩
  · have due : portDue s p = true := by
      rw [portDue_of_loads state]
      unfold loadOfPort
      simpa using noLoads
    exact congrArg Host.Outcome.next ((if_pos ⟨state, due⟩).trans goesOn)
  · have due : portDue s p = true := by
      rw [portDue_of_contexts state, ended]
      rfl
    change execPortTeardownNextContext p s = _
    unfold execPortTeardownNextContext
    rw [state]
    exact congrArg Host.Outcome.next ((if_pos ⟨pool, due⟩).trans goesOn)
  · have due : portDue s p = true := by
      rw [portDue_of_contexts state, ended]
      rfl
    refine congrArg Host.Outcome.next ((if_pos ⟨state, due⟩).trans ?_)
    rw [endPortTeardown_eq]
    refine settle_of_settled (settled_withPort drains turns others ?_)
    unfold portDue
    rw [State.port_setPort, if_pos rfl]
    cases (s.port p).prst <;> rfl

end Sys2Proof.Machine
end

section
/-! SUPPORT. What can be taken within an event: each thing that `takeDue` does, with what is known where it is done. -/

namespace Sys2Proof.Machine

open Sys2Proof

/-- One thing that an event takes because it is due. -/
inductive DueStep (s : State) : State → Prop where
  /-- The end of a RELEASE's withdrawal. -/
  | released {w : Withdrawal} (listed : w ∈ s.withdrawals) (empty : w.drain = []) {f : Frame} (frame : w.frame = some f)
      {p : Port} {t : Tag} (who : w.requester = .release p t) (results : List Byte) :
      DueStep s (respond (reclaimExit (removeRecord s w) f) p t .done results)
  /-- The end of a LEAVE's withdrawal. -/
  | hasLeft {w : Withdrawal} (listed : w ∈ s.withdrawals) (empty : w.drain = []) {f : Frame} (frame : w.frame = some f)
      {p : Port} {t : Tag} (who : w.requester = .leave p t) :
      DueStep s (respond (notifyOrigin (removeHolder (removeRecord s w) f w.ctx) f (.shareLeft f w.ctx)) p t .done [])
  /-- The end of a REVOKE's withdrawal. -/
  | revoked {w : Withdrawal} (listed : w ∈ s.withdrawals) (empty : w.drain = []) {f : Frame} (frame : w.frame = some f)
      {p : Port} {t : Tag} (who : w.requester = .revoke p t) :
      DueStep s (respond (notifyOwner (removeHolder (removeRecord s w) f w.ctx) w.ctx (.shareLost f w.ctx .revoked)) p t .done [])
  /-- The end of a co-holder's withdrawal for an origin departure. -/
  | departed {w : Withdrawal} (listed : w ∈ s.withdrawals) (empty : w.drain = []) {f : Frame} (frame : w.frame = some f)
      {o : Ctx} (who : w.requester = .departure o) :
      DueStep s (notifyOwner (removeHolder (removeRecord s w) f w.ctx) w.ctx (.shareLost f w.ctx .originGone))
  /-- The end of step 4. -/
  | drained {w : Withdrawal} (listed : w ∈ s.withdrawals) (empty : w.drain = []) (who : w.requester = .teardown) :
      DueStep s (endDrain (removeRecord s w) w.ctx)
  /-- The end of a record of CONTEXT kind that is no teardown's; a lawful state has none. -/
  | dropped {w : Withdrawal} (listed : w ∈ s.withdrawals) (empty : w.drain = []) (frame : w.frame = none)
      (who : w.requester ≠ .teardown) : DueStep s (removeRecord s w)
  /-- Step 4 starts. -/
  | drains {c : Ctx} {st : Starter} (teardown : s.teardown c = some ⟨st, .loads⟩) (idle : loadTargets s c = false) :
      DueStep s (startContextWithdrawal s c)
  /-- A turn, or a departure, ends on a frame where the context stands no longer. -/
  | gone {c : Ctx} {st : Starter} {x : TeardownStep} (teardown : s.teardown c = some ⟨st, x⟩) (past : pastDrain x = true)
      (due : turnDue s c = true) : DueStep s (setStep s c .frames)
  /-- A turn waits for a holder under withdrawal. -/
  | waits {c : Ctx} {st : Starter} {x : TeardownStep} (teardown : s.teardown c = some ⟨st, x⟩) (past : pastDrain x = true)
      {f : Frame} (due : turnDue s c = true) : DueStep s (setStep s c (.turn f))
  /-- A turn of a co-holder. -/
  | leaves {c : Ctx} {st : Starter} {x : TeardownStep} (teardown : s.teardown c = some ⟨st, x⟩) (past : pastDrain x = true)
      {f : Frame} (held : (s.frame f).state = .held) (stands : c ∈ (s.frame f).holders.map Holder.ctx)
      (free : anyWithdrawing (s.frame f).holders = false) (other : ((s.frame f).holders.map Holder.ctx).head? ≠ some c)
      (due : turnDue s c = true) : DueStep s (setStep (notifyOrigin (removeHolder s f c) f (.shareLeft f c)) c .frames)
  /-- A turn of a sole holder, or the end of a departure. -/
  | givesUp {c : Ctx} {st : Starter} {x : TeardownStep} (teardown : s.teardown c = some ⟨st, x⟩) (past : pastDrain x = true)
      {f : Frame} (held : (s.frame f).state = .held)
      (origin : x = .departure f ∨
        ((s.frame f).holders.map Holder.ctx).head? = some c ∧ anyWithdrawing (s.frame f).holders = false)
      (sole : (s.frame f).holders.tail = []) (due : turnDue s c = true) :
      DueStep s (setStep (reclaimExit (giveUp s f c) f) c .frames)
  /-- A turn of an origin, with an heir. -/
  | inherits {c : Ctx} {st : Starter} {x : TeardownStep} (teardown : s.teardown c = some ⟨st, x⟩) (past : pastDrain x = true)
      {f : Frame} (held : (s.frame f).state = .held) (free : anyWithdrawing (s.frame f).holders = false)
      (origin : ((s.frame f).holders.map Holder.ctx).head? = some c) {h : Holder} (heir : h ∈ (s.frame f).holders.tail)
      (room : 1 ≤ headroom (s.ctx h.ctx)) (due : turnDue s c = true) :
      DueStep s (setStep (notifyOwner (promote s f c h.ctx) h.ctx (.originInherited f h.ctx)) c .frames)
  /-- A turn of an origin, with none. -/
  | departs {c : Ctx} {st : Starter} {x : TeardownStep} (teardown : s.teardown c = some ⟨st, x⟩) (past : pastDrain x = true)
      {f : Frame} (held : (s.frame f).state = .held) (free : anyWithdrawing (s.frame f).holders = false)
      (origin : ((s.frame f).holders.map Holder.ctx).head? = some c) (due : turnDue s c = true) :
      DueStep s (setStep (markWithdrawing s f c) c (.departure f))
  /-- A departure takes its next co-holder. -/
  | takesNext {c : Ctx} {st : Starter} {f : Frame} (teardown : s.teardown c = some ⟨st, .departure f⟩)
      (held : (s.frame f).state = .held) {h : Holder} (next : (s.frame f).holders.tail.head? = some h)
      (free : h.withdrawing = false) (due : turnDue s c = true) : DueStep s (withdrawHolder s h.ctx f (.departure c))
  /-- Step 5 ends. -/
  | finishes {c : Ctx} {st : Starter} (teardown : s.teardown c = some ⟨st, .frames⟩)
      (nowhere : ∀ f, standsOn c (s.frame f) = false) : DueStep s (finishTeardown s c)
  /-- A port teardown goes on to a LIVE pooled context. -/
  | enters {p : Port} {c : Ctx} (down : (s.port p).state ≠ .up) (pool : pooled c = true) (owned : (s.ctx c).owner = some p)
      (live : (s.ctx c).state = .live) (before : (s.port p).state ≠ .teardown (.contexts (homeOf p)))
      (due : portDue s p = true) (next : nextPooled s p = some c) :
      DueStep s (startPooledTeardown (modPort s p fun x => { x with state := .teardown (.contexts c) }) c (.portReset p))
  /-- A port teardown goes on to a pooled context in teardown. -/
  | joins {p : Port} {c : Ctx} (down : (s.port p).state ≠ .up) (pool : pooled c = true) (owned : (s.ctx c).owner = some p)
      (teardown : (s.teardown c).isSome = true) (before : (s.port p).state ≠ .teardown (.contexts (homeOf p)))
      (due : portDue s p = true) (next : nextPooled s p = some c) :
      DueStep s (modPort s p fun x => { x with state := .teardown (.contexts c) })
  /-- A port teardown goes on to the home context. -/
  | entersHome {p : Port} (down : (s.port p).state ≠ .up) (before : (s.port p).state ≠ .teardown (.contexts (homeOf p)))
      (due : portDue s p = true) (next : nextPooled s p = none) :
      DueStep s (cancelThenEndLoads (modPort s p fun x => { x with state := .teardown (.contexts (homeOf p)) }) (homeOf p)
        (.portReset p))
  /-- A port teardown ends. -/
  | ends {p : Port} (state : (s.port p).state = .teardown (.contexts (homeOf p))) (ended : s.teardown (homeOf p) = none) :
      DueStep s (endPortTeardown s p)

/-- Where the context stands on no frame there is no turn to take. -/
theorem nowhere_of_lowestHeld {s : State} {c : Ctx} (h : lowestHeld s c = none) (f : Frame) :
    standsOn c (s.frame f) = false := by
  by_contra stands
  rw [Bool.not_eq_false] at stands
  have inside : f.val < s.frames.toArray.toList.length := by simp
  have here : standsOn c s.frames.toArray.toList[f.val] = true := by
    rw [frame_getElem]
    exact stands
  cases found : s.frames.toArray.toList.findIdx? (standsOn c) with
  | none =>
    have none' := List.findIdx?_eq_none_iff.1 found _ (List.getElem_mem inside)
    rw [here] at none'
    cases none'
  | some n =>
    obtain ⟨within, -⟩ := List.findIdx?_eq_some_iff_getElem.1 found
    have small : n < 4096 := by simpa using within
    unfold lowestHeld at h
    rw [found] at h
    dsimp only at h
    rw [dif_pos small] at h
    cases h

theorem empty_of_dueWithdrawal {s : State} {w : Withdrawal} (h : dueWithdrawal s = some w) : w.drain = [] := by
  unfold dueWithdrawal at h
  split at h
  · rename_i w' found
    cases h
    have passes := List.find?_some found
    rw [Bool.and_eq_true] at passes
    exact List.isEmpty_iff.1 passes.1
  · exact List.isEmpty_iff.1 (List.find?_some h :)

namespace DueStep

/-- The end of a withdrawal whose drain set is empty (R99). -/
theorem of_endWithdrawal {s : State} {w : Withdrawal} (listed : w ∈ s.withdrawals) (empty : w.drain = []) :
    DueStep s (endWithdrawal s w) := by
  unfold endWithdrawal
  cases frame : w.frame with
  | none =>
    cases who : w.requester with
    | teardown => exact drained listed empty who
    | release p t => exact dropped listed empty frame (by rw [who]; nofun)
    | leave p t => exact dropped listed empty frame (by rw [who]; nofun)
    | revoke p t => exact dropped listed empty frame (by rw [who]; nofun)
    | departure o => exact dropped listed empty frame (by rw [who]; nofun)
  | some f =>
    cases who : w.requester with
    | teardown => exact drained listed empty who
    | release p t => exact released listed empty frame who _
    | leave p t => exact hasLeft listed empty frame who
    | revoke p t => exact revoked listed empty frame who
    | departure o => exact departed listed empty frame who

/-- A turn of step 5 (R41, R42, R86, R87). -/
theorem of_examineTurn {s : State} {c : Ctx} {st : Starter} {x : TeardownStep} (teardown : s.teardown c = some ⟨st, x⟩)
    (past : pastDrain x = true) (due : turnDue s c = true) (f : Frame) : DueStep s (examineTurn s c f) := by
  unfold examineTurn
  split_ifs with away withdraws other sole
  · exact gone teardown past due
  · exact waits teardown past due
  · have ⟨held, stands⟩ := not_or.1 away
    rw [not_holds_iff, not_not] at stands
    exact leaves teardown past (not_not.1 held) stands (Bool.not_eq_true _ ▸ withdraws) (originOf_eq _ ▸ other)
      due
  · have ⟨held, stands⟩ := not_or.1 away
    exact givesUp teardown past (not_not.1 held) (.inr ⟨originOf_eq _ ▸ not_not.1 other, Bool.not_eq_true _ ▸ withdraws⟩)
      (List.isEmpty_iff.1 sole) due
  · have ⟨held, stands⟩ := not_or.1 away
    have free : anyWithdrawing (s.frame f).holders = false := Bool.not_eq_true _ ▸ withdraws
    have origin : ((s.frame f).holders.map Holder.ctx).head? = some c := originOf_eq _ ▸ not_not.1 other
    unfold examineDeparture
    split_ifs
    · exact waits teardown past due
    · cases heir : heirOf s (s.frame f).holders with
      | none => exact departs teardown past (not_not.1 held) free origin due
      | some d =>
        unfold heirOf at heir
        obtain ⟨h, found, rfl⟩ := Option.map_eq_some_iff.1 heir
        have room : decide (1 ≤ headroom (s.ctx h.ctx)) = true :=
          List.find?_some (p := fun x : Holder => decide (1 ≤ headroom (s.ctx x.ctx))) found
        exact inherits teardown past (not_not.1 held) free origin (List.mem_of_find?_eq_some found) (of_decide_eq_true room)
          due

/-- What goes on within step 5 (R36). -/
theorem of_takeTurn {s : State} {c : Ctx} (due : turnDue s c = true) : DueStep s (takeTurn s c) := by
  have begun := due
  unfold turnDue at begun
  unfold takeTurn
  cases teardown : s.teardown c with
  | none =>
    rw [teardown] at begun
    cases begun
  | some td =>
    obtain ⟨st, x⟩ := td
    rw [teardown] at begun
    cases x with
    | offers => cases begun
    | loads => cases begun
    | drain => cases begun
    | frames =>
      change DueStep s (frameTurn s c)
      unfold frameTurn
      cases here : lowestHeld s c with
      | some f => exact of_examineTurn teardown rfl due f
      | none => exact finishes teardown (nowhere_of_lowestHeld here)
    | turn f => exact of_examineTurn teardown rfl due f
    | departure f =>
      change DueStep s (nextCoHolder s c f)
      unfold nextCoHolder
      split_ifs with away
      · exact gone teardown rfl due
      · have held := not_not.1 away
        cases tail : (s.frame f).holders.tail with
        | nil => exact givesUp teardown rfl held (.inl rfl) tail due
        | cons h rest =>
          refine takesNext teardown held (by rw [tail]; rfl) ?_ due
          simp only [held, tail, bne_self_eq_false, Bool.false_or, Bool.not_eq_true'] at begun
          exact begun

/-- A teardown of a context that can go on (R36, R40). -/
theorem of_takeStep {s : State} {c : Ctx} (due : turnDue s c = true ∨ stepDue s c = true) : DueStep s (takeStep s c) := by
  unfold takeStep
  split
  · rename_i st teardown
    have waits : turnDue s c = false := by
      unfold turnDue
      rw [teardown]
    have idle := due.resolve_left (by rw [waits]; nofun)
    unfold stepDue at idle
    rw [teardown] at idle
    exact drains teardown ((Bool.not_eq_eq_eq_not ..).1 idle)
  · rename_i other
    refine of_takeTurn (due.resolve_right fun h => ?_)
    unfold stepDue at h
    split at h
    · rename_i teardown
      exact other _ teardown
    · cases h

/-- The port teardown goes on to its next context (R166, R167). -/
theorem of_enterContext {s : State} {p : Port} (due : portDue s p = true) (down : (s.port p).state ≠ .up)
    (before : (s.port p).state ≠ .teardown (.contexts (homeOf p))) : DueStep s (enterContext s p) := by
  unfold enterContext
  cases next : nextPooled s p with
  | none => exact entersHome down before due next
  | some c =>
    have found := List.find?_some next
    simp only [Bool.and_eq_true, Bool.or_eq_true, ownedBy, beq_iff_eq] at found
    obtain ⟨⟨pool, owned⟩, which⟩ := found
    dsimp only
    split_ifs with hlive
    · exact enters down pool owned ((live_iff _ _).1 hlive) before due next
    · exact joins down pool owned (which.resolve_left hlive) before due next

/-- A port teardown whose wait is over (R166, R167). -/
theorem of_portStep {s : State} {p : Port} (due : portDue s p = true) : DueStep s (portStep s p) := by
  have waited := due
  unfold portDue at waited
  unfold portStep
  split
  · rename_i state
    exact of_enterContext due (by rw [state]; nofun) (by rw [state]; nofun)
  · rename_i c state
    rw [state] at waited
    split_ifs with home
    · subst home
      exact ends state (Option.isNone_iff_eq_none.1 waited)
    · refine of_enterContext due (by rw [state]; nofun) ?_
      rw [state]
      intro same
      cases same
      exact home rfl
  · rename_i loads contexts
    split at waited
    · exact absurd ‹_› loads
    · exact absurd ‹_› (contexts _)
    · cases waited

/-- What is due and taken, after a free choice of order (entry 6). -/
theorem of_takeDue {s t : State} (h : takeDue s = some t) : ∃ n, DueStep { s with choices := n } t := by
  unfold takeDue at h
  cases due : dueWithdrawal s with
  | some w =>
    rw [due] at h
    cases h
    exact ⟨s.choices, of_endWithdrawal (mem_of_dueWithdrawal due) (empty_of_dueWithdrawal due)⟩
  | none =>
    rw [due] at h
    cases chosen : choose s (dueTeardowns s) with
    | none =>
      rw [chosen] at h
      cases h
    | some x =>
      obtain ⟨s1, d⟩ := x
      rw [chosen] at h
      cases h
      obtain ⟨mem, same⟩ := choose_spec chosen
      refine ⟨s1.choices, ?_⟩
      rw [← same]
      cases d with
      | context c =>
        refine of_takeStep (c := c) ?_
        rw [same]
        exact mem_dueTeardowns_context.1 mem
      | port p =>
        refine of_portStep (p := p) ?_
        rw [same]
        exact mem_dueTeardowns_port.1 mem

/-- A property of the state that each thing due keeps, and the placing of the notices, is kept by the rest of an event. -/
theorem kept_by_settle {P : State → Prop} (choices : ∀ s n, P s → P { s with choices := n })
    (step : ∀ s t, P s → DueStep s t → P t) (placed : ∀ s, P s → P (placeNotices s)) {s : State} (h : P s) : P (settle s) :=
  settle_induct (fun s t hs taken => by
    obtain ⟨n, due⟩ := of_takeDue taken
    exact step _ _ (choices s n hs) due) placed h

end DueStep

end Sys2Proof.Machine
end

section
/-! PROOFS. MICROSECOND_TICK (R127, R132, R113, R145): the ages, and the timeouts one by one. -/

namespace Sys2Proof.Machine

open Sys2Proof

/-! ## What the rest of an event leaves of the requests to memory -/

/-- From `s` to `t` the outstanding scrub write and the outstanding descriptor read stay as they are. -/
structure Reading (s t : State) : Prop where
  scrub : ∀ f k age, t.scrub = .outstanding f k age ↔ s.scrub = .outstanding f k age
  load : ∀ age, t.load = .outstanding age ↔ s.load = .outstanding age

namespace Reading

theorem of_eq {s t : State} (scrub : t.scrub = s.scrub) (load : t.load = s.load) : Reading s t :=
  ⟨fun _ _ _ => by rw [scrub], fun _ => by rw [load]⟩

theorem refl (s : State) : Reading s s := of_eq rfl rfl

theorem trans {s t u : State} (h : Reading s t) (k : Reading t u) : Reading s u :=
  ⟨fun f n age => (k.scrub f n age).trans (h.scrub f n age), fun age => (k.load age).trans (h.load age)⟩

theorem respond (s : State) (p : Port) (t : Tag) (v : Verdict) (rs : List Byte) : Reading s (respond s p t v rs) := of_eq rfl rfl

theorem notifyOwner (s : State) (c : Ctx) (n : Notice) : Reading s (notifyOwner s c n) := by
  rw [notifyOwner_eq]
  exact of_eq rfl rfl

theorem notifyOrigin (s : State) (f : Frame) (n : Notice) : Reading s (notifyOrigin s f n) := by
  rw [notifyOrigin_eq]
  exact of_eq rfl rfl

theorem setTeardown (s : State) (c : Ctx) (x : Option Teardown) : Reading s (s.setTeardown c x) := of_eq rfl rfl

theorem setStep (s : State) (c : Ctx) (x : TeardownStep) : Reading s (setStep s c x) := by
  unfold Machine.setStep
  split
  · exact of_eq rfl rfl
  · exact refl s

theorem reclaimExit (s : State) (f : Frame) : Reading s (reclaimExit s f) := by
  rw [reclaimExit_eq]
  split_ifs
  · exact refl s
  · exact of_eq rfl rfl
  · rename_i idle
    refine ⟨fun g k age => ?_, fun age => Iff.rfl⟩
    rw [idle]
    exact iff_of_false nofun nofun
  · exact of_eq rfl rfl

theorem startWithdrawal (s : State) (c : Ctx) (f : Option Frame) (q : Requester) : Reading s (startWithdrawal s c f q) := by
  rw [startWithdrawal_eq, invalidate_frame]
  exact of_eq rfl rfl

theorem cancelOffersOf (s : State) (c : Ctx) : Reading s (cancelOffersOf s c) := by
  have rest := (offersEnded_cancelOffersOf s c).rest
  generalize Machine.cancelOffersOf s c = u at rest ⊢
  have scrub := congrArg State.scrub rest
  have load := congrArg State.load rest
  exact of_eq scrub load

/-- Running the load queue leaves no read outstanding. -/
theorem load_runLoadsFor (n : Nat) (s : State) (age : Nat) (room : s.loadQueue.length < n) :
    (runLoadsFor n s).load ≠ .outstanding age := by
  induction n generalizing s with
  | zero => exact absurd room (Nat.not_lt_zero _)
  | succ n ih =>
    cases queue : s.loadQueue with
    | nil =>
      unfold runLoadsFor
      rw [queue]
      nofun
    | cons r rest =>
      unfold runLoadsFor
      rw [queue]
      dsimp only
      split
      · nofun
      · refine ih _ ?_
        rw [endRunning_of_cons queue]
        change rest.length < n
        rw [queue, List.length_cons] at room
        omega

theorem load_runLoads (s : State) (age : Nat) : (Machine.runLoads s).load ≠ .outstanding age :=
  load_runLoadsFor _ s age (Nat.lt_succ_self _)

theorem runLoads {s : State} (idle : ∀ age, s.load ≠ .outstanding age) : Reading s (runLoads s) := by
  refine ⟨fun f k age => by rw [runLoads_frame], fun age => iff_of_false (load_runLoads s age) (idle age)⟩

theorem placeStop (s : State) (q : StopRequest) : Reading s (placeStop s q) := by
  cases queue : s.loadQueue with
  | nil =>
    unfold Machine.placeStop
    rw [queue]
    exact refl s
  | cons r rest =>
    by_cases free : r.stop = none
    · by_cases ready : s.load = .ready
      · rw [placeStop_of_ready queue free ready]
        refine ⟨fun f k age => ?_, fun age => iff_of_false (load_runLoads _ age) ?_⟩
        · rw [runLoads_frame]
          exact Iff.rfl
        · rw [ready]
          nofun
      · rw [placeStop_of_not_ready queue free ready]
        exact of_eq rfl rfl
    · rw [placeStop_of_stopped queue free]
      exact refl s

theorem removeQueued (s : State) (w : LoadRec → Bool) (e : LoadEnd) : Reading s (removeQueued s w e) := by
  unfold Machine.removeQueued
  cases s.loadQueue with
  | nil => exact refl s
  | cons r rest =>
    exact foldl_keeps (P := Reading s) (fun u x h => h.trans (respond u x.port x.tag e.1 e.2)) _ (of_eq rfl rfl)

theorem endLoadsWhere (s : State) (w : LoadRec → Bool) (q : StopRequest) : Reading s (endLoadsWhere s w q) := by
  have removed := removeQueued s w (stopped .contextGone 0)
  unfold Machine.endLoadsWhere
  generalize Machine.removeQueued s w (stopped .contextGone 0) = u at removed ⊢
  dsimp only
  cases u.loadQueue with
  | nil => exact removed
  | cons r rest =>
    dsimp only
    split_ifs
    · exact removed.trans (placeStop u q)
    · exact removed

theorem cancelThenEndLoads (s : State) (c : Ctx) (q : Starter) : Reading s (cancelThenEndLoads s c q) := by
  unfold Machine.cancelThenEndLoads endLoadsOfCtx
  exact ((cancelOffersOf s c).trans (setTeardown _ c (some ⟨q, .loads⟩))).trans (endLoadsWhere _ _ _)

theorem finishTeardown (s : State) (c : Ctx) : Reading s (finishTeardown s c) := by
  unfold Machine.finishTeardown
  dsimp only
  split_ifs
  · cases (s.ctx c).owner with
    | none => split <;> exact of_eq rfl rfl
    | some p => split <;> exact of_eq rfl rfl
  · exact of_eq rfl rfl

theorem dueStep {s t : State} (h : DueStep s t) : Reading s t := by
  cases h with
  | @released w _ _ f _ p t _ rs =>
    have first : Reading s (removeRecord s w) := of_eq rfl rfl
    exact (first.trans (reclaimExit _ f)).trans (respond _ p t .done rs)
  | @hasLeft w _ _ f _ p t _ =>
    have first : Reading s (removeHolder (removeRecord s w) f w.ctx) := of_eq rfl rfl
    exact (first.trans (notifyOrigin _ _ _)).trans (respond _ p t .done [])
  | @revoked w _ _ f _ p t _ =>
    have first : Reading s (removeHolder (removeRecord s w) f w.ctx) := of_eq rfl rfl
    exact (first.trans (notifyOwner _ _ _)).trans (respond _ p t .done [])
  | @departed w _ _ f _ _ _ =>
    have first : Reading s (removeHolder (removeRecord s w) f w.ctx) := of_eq rfl rfl
    exact first.trans (notifyOwner _ _ _)
  | @drained w _ _ _ =>
    have first : Reading s (removeRecord s w) := of_eq rfl rfl
    unfold endDrain
    split
    · exact first.trans (setStep _ _ _)
    · exact first
  | dropped => exact of_eq rfl rfl
  | drains => exact (setStep _ _ _).trans (startWithdrawal _ _ _ _)
  | gone => exact setStep _ _ _
  | waits => exact setStep _ _ _
  | @leaves c _ _ _ _ f =>
    have first : Reading s (removeHolder s f c) := of_eq rfl rfl
    exact (first.trans (notifyOrigin _ _ _)).trans (setStep _ _ _)
  | @givesUp c _ _ _ _ f =>
    have first : Reading s (giveUp s f c) := of_eq rfl rfl
    exact (first.trans (reclaimExit _ _)).trans (setStep _ _ _)
  | @inherits c _ _ _ _ f _ _ _ h =>
    have first : Reading s (promote s f c h.ctx) := of_eq rfl rfl
    exact (first.trans (notifyOwner _ _ _)).trans (setStep _ _ _)
  | @departs c _ _ _ _ f =>
    have first : Reading s (markWithdrawing s f c) := of_eq rfl rfl
    exact first.trans (setStep _ _ _)
  | @takesNext c _ f _ _ h =>
    have first : Reading s (markWithdrawing s f h.ctx) := of_eq rfl rfl
    exact first.trans (startWithdrawal _ _ _ _)
  | finishes => exact finishTeardown _ _
  | enters => exact of_eq rfl rfl
  | joins => exact of_eq rfl rfl
  | @entersHome p =>
    have first : Reading s (modPort s p fun x => { x with state := .teardown (.contexts (homeOf p)) }) := of_eq rfl rfl
    exact first.trans (cancelThenEndLoads _ _ _)
  | ends => exact of_eq rfl rfl

theorem settle (s : State) : Reading s (settle s) :=
  DueStep.kept_by_settle (P := Reading s) (fun _ _ h => h.trans (of_eq rfl rfl)) (fun _ _ h due => h.trans (dueStep due))
    (fun _ h => h.trans (of_eq rfl rfl)) (refl s)

end Reading

end Sys2Proof.Machine
end

section
/-! PROOFS. MICROSECOND_TICK (R127, R132, R113, R145): the requests to memory that are late, and their timeouts one by one. -/

namespace Sys2Proof.Machine

open Sys2Proof

/-! ## Late requests -/

/-- The slot holds an ISSUED entry that has reached the timeout. -/
def lateSlot (x : TransitSlot) : Bool :=
  x.entry.any fun e => match e.phase with
    | .waiting => false
    | .issued age => Config.timeout ≤ age

/-- The request has reached the timeout. -/
def isLate (s : State) : Late → Bool
  | .access p i => lateSlot ((s.port p).slot i)
  | .scrub => (scrubTimedOut s).isSome
  | .load => loadTimedOut s

theorem isLate_access (s : State) (p : Port) (i : Slot) : isLate s (.access p i) = lateSlot ((s.port p).slot i) := rfl

theorem isLate_scrub (s : State) : isLate s .scrub = (scrubTimedOut s).isSome := rfl

theorem isLate_load (s : State) : isLate s .load = loadTimedOut s := rfl

theorem timedOut_isSome (s : State) (p : Port) (i : Slot) : (timedOut s p i).isSome = lateSlot ((s.port p).slot i) := by
  unfold timedOut lateSlot
  cases ((s.port p).slot i).entry with
  | none => rfl
  | some e =>
    cases phase : e.phase with
    | waiting => simp [phase]
    | issued age =>
      simp only [Option.any_some, phase]
      split_ifs with h
      · exact (decide_eq_true h).symm
      · exact (decide_eq_false h).symm

/-- All the requests to memory that there can be. -/
def allLate : List Late :=
  ((List.finRange 4).flatMap fun p => (List.finRange 16).map (Late.access p)) ++ [.scrub] ++ [.load]

theorem nodup_allLate : allLate.Nodup := by decide

/-- What is late at a time is a part of what there can be, in one order. -/
theorem lateRequests_eq (s : State) : lateRequests s = allLate.filter (isLate s) := by
  have scrub : (if (scrubTimedOut s).isSome = true then [Late.scrub] else []) = [Late.scrub].filter (isLate s) := by
    by_cases h : (scrubTimedOut s).isSome = true
    · rw [if_pos h, List.filter_cons_of_pos ((isLate_scrub s).trans h), List.filter_nil]
    · rw [if_neg h, List.filter_cons_of_neg (by rwa [isLate_scrub]), List.filter_nil]
  have load : (if loadTimedOut s = true then [Late.load] else []) = [Late.load].filter (isLate s) := by
    by_cases h : loadTimedOut s = true
    · rw [if_pos h, List.filter_cons_of_pos ((isLate_load s).trans h), List.filter_nil]
    · rw [if_neg h, List.filter_cons_of_neg (by rwa [isLate_load]), List.filter_nil]
  unfold lateRequests allLate
  rw [scrub, load, List.filter_append, List.filter_append, List.filter_flatMap]
  simp only [timedOut_isSome, List.filter_map]
  rfl

theorem nodup_lateRequests (s : State) : (lateRequests s).Nodup := by
  rw [lateRequests_eq]
  exact nodup_allLate.filter _

theorem length_lateRequests (s : State) : (lateRequests s).length ≤ 66 := by
  rw [lateRequests_eq]
  exact List.length_filter_le _ _

theorem mem_lateRequests (s : State) (x : Late) : x ∈ lateRequests s ↔ isLate s x = true := by
  have all : x ∈ allLate := by
    cases x with
    | access p i => simp [allLate]
    | scrub => simp [allLate]
    | load => simp [allLate]
  rw [lateRequests_eq, List.mem_filter]
  exact and_iff_right all

/-! ## What changes leave late -/

theorem scrubTimedOut_eq_some (s : State) (f : Frame) :
    scrubTimedOut s = some f ↔ ∃ k age, s.scrub = .outstanding f k age ∧ Config.timeout ≤ age := by
  unfold scrubTimedOut
  cases s.scrub with
  | idle => simp
  | ready f k => simp
  | outstanding g k age =>
    by_cases h : Config.timeout ≤ age
    · simp [h]
    · simp [h]

theorem loadTimedOut_iff (s : State) : loadTimedOut s = true ↔ ∃ age, s.load = .outstanding age ∧ Config.timeout ≤ age := by
  unfold loadTimedOut
  cases s.load with
  | idle => simp
  | ready => simp
  | outstanding age => simp

theorem Reading.scrubTimedOut {s t : State} (h : Reading s t) : scrubTimedOut t = Machine.scrubTimedOut s := by
  refine Option.ext fun f => ?_
  rw [scrubTimedOut_eq_some, scrubTimedOut_eq_some]
  simp only [h.scrub]

theorem Reading.loadTimedOut {s t : State} (h : Reading s t) : loadTimedOut t = Machine.loadTimedOut s := by
  rw [Bool.eq_iff_iff, loadTimedOut_iff, loadTimedOut_iff]
  simp only [h.load]

theorem isLate_congr {s t : State} (reading : Reading s t) (transit : ∀ p, (t.port p).transit = (s.port p).transit) (x : Late) :
    isLate t x = isLate s x := by
  cases x with
  | access p i =>
    rw [isLate_access, isLate_access, PortRec.slot, PortRec.slot, transit p]
  | scrub => exact congrArg Option.isSome reading.scrubTimedOut
  | load => exact reading.loadTimedOut

theorem isLate_settle (s : State) (x : Late) : isLate (settle s) x = isLate s x := by
  refine isLate_congr (Reading.settle s) (fun p => ?_) x
  have kept := congrArg PortRec.transit (settle_port s p)
  exact kept

/-- An acceptance: none, or that of one access, which leaves its lane. -/
theorem acceptOne_cases (s : State) (p : Port) :
    acceptOne s p = s ∨ ∃ plain elevated last a, (s.port p).state = .up ∧
      acceptOne s p =
        translate (modPort s p fun x => { x with plainLane := plain, elevatedLane := elevated, lastLane := last }) p a := by
  unfold acceptOne
  split_ifs with open'
  · have up : (s.port p).state = .up := (portUp_iff s p).1 (Bool.and_eq_true_iff.1 open').1
    split
    · exact .inl rfl
    · exact .inr ⟨_, _, _, _, up, rfl⟩
    · exact .inr ⟨_, _, _, _, up, rfl⟩
    · split
      · exact .inr ⟨_, _, _, _, up, rfl⟩
      · exact .inr ⟨_, _, _, _, up, rfl⟩
  · exact .inl rfl

theorem transit_modPort {s : State} {p : Port} {g : PortRec → PortRec} (same : (g (s.port p)).transit = (s.port p).transit)
    (q : Port) : ((modPort s p g).port q).transit = (s.port q).transit := by
  rw [port_modPort]
  by_cases hq : q = p
  · subst hq
    rw [if_pos rfl]
    exact same
  · rw [if_neg hq]

theorem isLate_modPort {s : State} {p : Port} {g : PortRec → PortRec}
    (same : (g (s.port p)).transit = (s.port p).transit) (x : Late) : isLate (modPort s p g) x = isLate s x :=
  isLate_congr (s := s) (t := modPort s p g) (Reading.of_eq rfl rfl) (transit_modPort same) x

/-- A translated access waits, so it is not late. -/
theorem isLate_translate (s : State) (p : Port) (a : AccessRequest) (x : Late) : isLate (translate s p a) x = isLate s x := by
  unfold translate
  split
  · unfold faultAccess address sendAccess
    rw [isLate_modPort (by rw [noticed_eq]), isLate_modPort rfl]
  · split
    · rfl
    · rename_i i free
      cases x with
      | access q j =>
        rw [isLate_access, isLate_access]
        unfold allocate
        rw [port_modPort]
        by_cases hq : q = p
        · subst hq
          rw [if_pos rfl]
          change lateSlot ((((s.port q).setSlot i _)).slot j) = _
          rw [PortRec.slot_setSlot]
          by_cases hj : j = i
          · subst hj
            rw [if_pos rfl]
            unfold lateSlot
            rw [Moves.entry_of_freeSlot free]
            rfl
          · rw [if_neg hj]
        · rw [if_neg hq]
      | scrub => rfl
      | load => rfl

theorem isLate_acceptOne (s : State) (p : Port) (x : Late) : isLate (acceptOne s p) x = isLate s x := by
  rcases acceptOne_cases s p with same | ⟨plain, elevated, last, a, -, same⟩
  · rw [same]
  · rw [same, isLate_translate, isLate_modPort]
    rfl

theorem isLate_switchAfter (s : State) (p : Port) (e : TransitEntry) (x : Late) : isLate (switchAfter s p e) x = isLate s x := by
  unfold switchAfter completeSwitch
  split_ifs
  · split
    · rfl
    · unfold respond
      rw [isLate_modPort (by rw [responded_eq]), isLate_modPort rfl]
  · rfl

/-! ## A timeout -/

/-- A timeout deals with its own request and makes no other late or leaves it late no longer. -/
theorem isLate_freeEntry (s : State) (p : Port) (i : Slot) (e : TransitEntry) (x : Late) :
    isLate (freeEntry s p i e) x = (isLate s x && x != .access p i) := by
  unfold freeEntry
  rw [isLate_settle, isLate_acceptOne, isLate_switchAfter]
  cases x with
  | access q j =>
    change lateSlot (((dropEntry s p i e).port q).slot j) = _
    unfold dropEntry
    rw [port_modPort]
    by_cases hq : q = p
    · subst hq
      rw [if_pos rfl]
      change lateSlot (((s.port q).setSlot i _).slot j) = _
      rw [PortRec.slot_setSlot]
      by_cases hj : j = i
      · subst hj
        rw [if_pos rfl]
        simp [lateSlot]
      · rw [if_neg hj]
        simp [isLate, hj]
    · rw [if_neg hq]
      simp [isLate, hq]
  | scrub => simp [isLate, scrubTimedOut, leaveDrains, dropEntry]
  | load => simp [isLate, loadTimedOut, leaveDrains, dropEntry]

theorem isLate_reported (s : State) (p : Port) (r : AccessResponse) (f : Frame) (n : Notice) (x : Late) :
    isLate (address (setErrorMark (answerAccess s p r) f) p n) x = isLate s x := by
  have reading : Reading s (address (setErrorMark (answerAccess s p r) f) p n) := Reading.of_eq rfl rfl
  refine isLate_congr reading (fun q => ?_) x
  rw [Moves.transit_address]
  exact Moves.transit_answerAccess s p q _

theorem isLate_failEntry (s : State) (p : Port) (i : Slot) (e : TransitEntry) (kind : MemoryFaultKind) (x : Late) :
    isLate (failEntry s p i e kind) x = (isLate s x && x != .access p i) := by
  unfold failEntry
  rw [isLate_freeEntry, isLate_reported]

theorem isLate_scrubFail (s : State) (f : Frame) (x : Late) : isLate (scrubFail s f) x = (isLate s x && x != .scrub) := by
  cases x with
  | access p i => exact (Bool.and_true _).symm
  | scrub =>
    unfold isLate scrubTimedOut scrubFail scrubNext
    dsimp only
    split
    · rename_i h
      split at h <;> cases h
    · simp
  | load => exact (Bool.and_true _).symm

/-- After a failed read the engine has none outstanding. -/
theorem isLate_failRead (s : State) (x : Late) : isLate (failRead s) x = (isLate s x && x != .load) := by
  cases queue : s.loadQueue with
  | nil =>
    have failed : failRead s = { s with load := .idle } := by
      unfold failRead
      rw [queue]
    rw [failed]
    cases x with
    | access p i => exact (Bool.and_true _).symm
    | scrub => exact (Bool.and_true _).symm
    | load => simp [isLate_load, loadTimedOut]
  | cons r rest =>
    have failed : failRead s = endLoad (setErrorMark s r.source) (stopped .memoryFault r.next) := by
      unfold failRead
      rw [queue]
    have apart : (endLoad (setErrorMark s r.source) (stopped .memoryFault r.next)).apart = s.apart := by
      unfold endLoad
      rw [State.apart_runLoads, State.apart_endRunning]
      rfl
    rw [failed]
    cases x with
    | access p i =>
      rw [isLate_access, isLate_access, PortRec.slot, transit_of_apart apart]
      exact (Bool.and_true _).symm
    | scrub =>
      rw [isLate_scrub, isLate_scrub, endLoad_frame]
      exact (Bool.and_true _).symm
    | load =>
      rw [isLate_load, isLate_load, bne_self_eq_false, Bool.and_false, ← Bool.not_eq_true, loadTimedOut_iff]
      rintro ⟨age, load, -⟩
      exact Reading.load_runLoads _ age load

theorem isLate_takeLate {s : State} {x : Late} (late : isLate s x = true) (y : Late) :
    isLate (takeLate s x) y = (isLate s y && y != x) := by
  unfold takeLate
  cases x with
  | access p i =>
    dsimp only
    cases found : timedOut s p i with
    | none =>
      have here := timedOut_isSome s p i
      rw [found] at here
      exact absurd (here.trans late) (by nofun)
    | some e => exact isLate_failEntry s p i e .timeout y
  | scrub =>
    dsimp only
    cases found : scrubTimedOut s with
    | none =>
      unfold isLate at late
      rw [found] at late
      cases late
    | some f => exact isLate_scrubFail s f y
  | load =>
    dsimp only
    rw [isLate_load] at late
    rw [if_pos late, isLate_settle, isLate_failRead]

/-! ## The timeouts of one tick -/

/-- A state as a free choice between several late requests leaves it (entry 6). -/
def chosenAmong (s : State) : State := if 1 < (lateRequests s).length then { s with choices := s.choices + 1 } else s

theorem isLate_chosenAmong (s : State) (x : Late) : isLate (chosenAmong s) x = isLate s x := by
  unfold chosenAmong
  split_ifs
  · exact isLate_congr (t := { s with choices := s.choices + 1 }) (Reading.of_eq rfl rfl) (fun _ => rfl) x
  · rfl

theorem choose_late {s s1 : State} {x : Late} (chosen : choose s (lateRequests s) = some (s1, x)) : s1 = chosenAmong s := by
  unfold chosenAmong
  cases l : lateRequests s with
  | nil =>
    rw [l] at chosen
    cases chosen
  | cons a rest =>
    rw [l] at chosen
    cases rest with
    | nil =>
      cases chosen
      rfl
    | cons b rest =>
      cases chosen
      exact (if_pos (by simp)).symm

/-- A timeout takes its request out of those that are late. -/
theorem lateRequests_takeLate {s : State} {x : Late} (late : isLate s x = true) :
    (x :: lateRequests (takeLate (chosenAmong s) x)).Perm (lateRequests s) := by
  have here : isLate (chosenAmong s) x = true := (isLate_chosenAmong s x).trans late
  refine (List.perm_ext_iff_of_nodup (List.nodup_cons.2 ⟨?_, nodup_lateRequests _⟩) (nodup_lateRequests s)).2 fun y => ?_
  · rw [mem_lateRequests, isLate_takeLate here]
    simp
  · rw [List.mem_cons, mem_lateRequests, mem_lateRequests, isLate_takeLate here, isLate_chosenAmong]
    by_cases h : y = x
    · simp [h, late]
    · simp [h]

/-- The timeouts of one tick: each late request times out once, in some order, and none is left. -/
theorem takeLateFor_spec (n : Nat) (s : State) (room : (lateRequests s).length ≤ n) :
    (∃ order : List Late, order.Perm (lateRequests s) ∧
      takeLateFor n s = order.foldl (fun v x => takeLate (chosenAmong v) x) s) ∧
    lateRequests (takeLateFor n s) = [] := by
  induction n generalizing s with
  | zero =>
    have none := List.length_eq_zero_iff.1 (Nat.le_zero.1 room)
    exact ⟨⟨[], by rw [none], rfl⟩, none⟩
  | succ n ih =>
    unfold takeLateFor
    cases chosen : choose s (lateRequests s) with
    | none =>
      have none := (choose_eq_none s _).1 chosen
      exact ⟨⟨[], by rw [none], rfl⟩, none⟩
    | some c =>
      obtain ⟨s1, x⟩ := c
      have taken := lateRequests_takeLate ((mem_lateRequests s x).1 (choose_spec chosen).1)
      rw [← choose_late chosen] at taken
      have fewer : (lateRequests (takeLate s1 x)).length ≤ n := by
        have same := taken.length_eq
        rw [List.length_cons] at same
        omega
      obtain ⟨⟨order, perm, run⟩, none⟩ := ih (takeLate s1 x) fewer
      refine ⟨⟨x :: order, (perm.cons x).trans taken, ?_⟩, none⟩
      rw [List.foldl_cons, ← choose_late chosen]
      exact run

/-- Settles O50: the ages rise, then the late requests time out one by one. -/
theorem microsecondTickRaisesAges : Obligations.MicrosecondTickRaisesAges := by
  intro s
  refine ⟨fun asserted => congrArg Host.Outcome.next (if_pos asserted), fun released => ?_⟩
  obtain ⟨order, none⟩ := takeLateFor_spec 66 (raiseAges { s with usTicks := s.usTicks + 1 }) (length_lateRequests _)
  refine ⟨raiseAges { s with usTicks := s.usTicks + 1 }, takeLateFor 66 (raiseAges { s with usTicks := s.usTicks + 1 }),
    congrArg Host.Outcome.next (if_neg (by rw [released]; decide)), ?_⟩
  have ports (p : Port) : (raiseAges { s with usTicks := s.usTicks + 1 }).port p =
      { s.port p with transit := mapVec olderSlot (s.port p).transit } := mapVec_get _ _ _
  have slots (p : Port) (i : Slot) : ((raiseAges { s with usTicks := s.usTicks + 1 }).port p).slot i =
      olderSlot ((s.port p).slot i) := by
    rw [ports]
    exact mapVec_get _ _ _
  refine ⟨fun p i => ?_, fun p => ?_, ?_, ?_, ?_, fun nothing => ?_, fun x one => ?_, order, none⟩
  · rw [slots]
    exact ⟨rfl, rfl⟩
  · rw [ports]
  · rfl
  · rfl
  · rfl
  · unfold takeLateFor
    rw [nothing]
    rfl
  · obtain ⟨l, perm, run⟩ := order
    rw [one] at perm
    rw [run, List.perm_singleton.1 perm, List.foldl_cons, List.foldl_nil]
    unfold chosenAmong
    rw [one]
    rfl

end Sys2Proof.Machine
end

section
/-! PROOFS. The edges of RST_N: what its assertion leaves (R45, R89, R105, R137, R152, R169), and the laws of a part in which
nothing has happened yet. -/

namespace Sys2Proof.Machine

open Sys2Proof

/-! ## The lanes at the assertion (R120) -/

/-- `t` is `s` but for the accesses of port `p` that waited at its lanes, now answered OFFLINE. -/
def LanesOffline (s t : State) (p : Port) : Prop :=
  ∃ l, (l.Perm (((s.port p).plainLane ++ (s.port p).elevatedLane).map fun a => (⟨a.tag, .offline⟩ : AccessResponse))) ∧
    t.port p = { s.port p with
      plainLane := []
      elevatedLane := []
      lastLane := .plain
      accessResponses := (s.port p).accessResponses ++ l }

theorem offlineLanes_keeps (s : State) (p : Port) :
    LanesOffline s (offlineLanes s p) p ∧ (∀ q, q ≠ p → (offlineLanes s p).port q = s.port q) ∧
      { offlineLanes s p with ports := s.ports, choices := s.choices } = s := by
  obtain ⟨l, k, perm, cleared⟩ := offlineLanes_eq s p
  rw [cleared]
  refine ⟨⟨l, perm, ?_⟩, fun q hq => ?_, rfl⟩
  · exact (State.port_setPort ..).trans (if_pos rfl)
  · exact (State.port_setPort ..).trans (if_neg hq)

/-- The lanes of the ports in a list are answered, each once; the other ports, and all else, are as before. -/
theorem foldl_offlineLanes (ps : List Port) (nodup : ps.Nodup) (s : State) :
    (∀ p ∈ ps, LanesOffline s (ps.foldl offlineLanes s) p) ∧
      (∀ q, q ∉ ps → (ps.foldl offlineLanes s).port q = s.port q) ∧
      { ps.foldl offlineLanes s with ports := s.ports, choices := s.choices } = s := by
  induction ps generalizing s with
  | nil => exact ⟨fun p h => absurd h List.not_mem_nil, fun _ _ => rfl, rfl⟩
  | cons a ps ih =>
    obtain ⟨away, nodup⟩ := List.nodup_cons.1 nodup
    obtain ⟨here, others, beside⟩ := offlineLanes_keeps s a
    obtain ⟨done, untouched, after⟩ := ih nodup (offlineLanes s a)
    refine ⟨fun p hp => ?_, fun q hq => ?_, ?_⟩
    · rcases List.mem_cons.1 hp with rfl | later
      · obtain ⟨l, perm, record⟩ := here
        exact ⟨l, perm, (untouched p away).trans record⟩
      · obtain ⟨l, perm, record⟩ := done p later
        have kept := others p fun e => away (e ▸ later)
        rw [kept] at perm record
        exact ⟨l, perm, record⟩
    · rw [List.mem_cons, not_or] at hq
      exact (untouched q hq.2).trans (others q hq.1)
    · rw [List.foldl_cons]
      generalize ps.foldl offlineLanes (offlineLanes s a) = t at after
      generalize offlineLanes s a = u at beside after
      calc { t with ports := s.ports, choices := s.choices }
          = { { t with ports := u.ports, choices := u.choices } with ports := s.ports, choices := s.choices } := rfl
        _ = s := by rw [after, beside]

/-! ## Reset contents, as they are read -/

theorem teardown_resetBlocks (s : State) (asserted : Bool) (part : BitVec 2) (st : PortState) (x : ScrubState) (c : Ctx) :
    (resetBlocks s asserted part st x).teardown c = none := by
  show (Vector.replicate 16 none).get c = _
  simp [Vector.get_eq_getElem]

theorem entry_resetBlocks (s : State) (asserted : Bool) (part : BitVec 2) (st : PortState) (x : ScrubState) (c : Ctx)
    (g : Page) : (resetBlocks s asserted part st x).entry c g = none := by
  show ((Vector.replicate 16 (Vector.replicate 128 none)).get c).get g = _
  simp [Vector.get_eq_getElem]

theorem offer_resetBlocks (s : State) (asserted : Bool) (part : BitVec 2) (st : PortState) (x : ScrubState) (i : OfferId) :
    (resetBlocks s asserted part st x).offer i = none := by
  show (Vector.replicate 16 none).get i = _
  simp [Vector.get_eq_getElem]

/-- Settles O4: the lanes are answered port by port, then every block is written with its reset contents. -/
theorem rstNAssertResets : Obligations.RstNAssertResets := by
  intro s released
  obtain ⟨lanes, -, beside⟩ := foldl_offlineLanes (List.finRange 4) (List.nodup_finRange 4) s
  have run : exec .rstNAssert s = .next (assertReset s) :=
    congrArg Host.Outcome.next (if_neg (by rw [released]; nofun))
  refine ⟨_, run, ?_⟩
  unfold assertReset
  generalize (List.finRange 4).foldl offlineLanes s = u at lanes beside
  have writes : u.writeGen = s.writeGen := by
    have kept := congrArg (fun x : State => x.writeGen) beside
    exact kept
  have reads : u.readGen = s.readGen := by
    have kept := congrArg (fun x : State => x.readGen) beside
    exact kept
  have sent : u.memoryRequests = s.memoryRequests := by
    have kept := congrArg (fun x : State => x.memoryRequests) beside
    exact kept
  refine ⟨rfl, fun _ => (inReset_resetBlocks u s.part).contents, rfl, writes, reads, sent,
    frame_resetBlocks u true s.part .down .idle, rfl, scrubQueue_resetBlocks .., fun c =>
      ⟨teardown_resetBlocks .., entry_resetBlocks u true s.part .down .idle c⟩, offer_resetBlocks u true s.part .down .idle,
    rfl, rfl, rfl, fun p => ?_⟩
  rw [port_resetBlocks]
  obtain ⟨l, perm, record⟩ := lanes p (List.mem_finRange p)
  rw [record]
  exact ⟨rfl, rfl, rfl, rfl, rfl, l, rfl, perm⟩

/-! ## A part in which nothing has happened yet -/

/-- The tables hold their reset contents: no frame has a holder, no context has an entry, a teardown or a load, and the ports'
tables are empty (R21, R45, R89, R105, R137, R152, R169). -/
structure Fresh (s : State) : Prop where
  frame : ∀ f, s.frame f = FrameRec.reset
  ctx : ∀ c, s.ctx c = CtxRec.reset s.part c
  teardown : ∀ c, s.teardown c = none
  entry : ∀ c g, s.entry c g = none
  offer : ∀ i, s.offer i = none
  withdrawals : s.withdrawals = []
  loadQueue : s.loadQueue = []
  load : s.load = .idle
  port : ∀ p, ∃ st prst access control, s.port p = PortRec.reset st p prst access control

theorem fresh_resetBlocks (s : State) (asserted : Bool) (part : BitVec 2) (st : PortState) (x : ScrubState) :
    Fresh (resetBlocks s asserted part st x) where
  frame := frame_resetBlocks s asserted part st x
  ctx := ctx_resetBlocks s asserted part st x
  teardown := teardown_resetBlocks s asserted part st x
  entry := entry_resetBlocks s asserted part st x
  offer := offer_resetBlocks s asserted part st x
  withdrawals := rfl
  loadQueue := rfl
  load := rfl
  port p := ⟨st, _, _, _, port_resetBlocks s asserted part st x p⟩

theorem slot_reset (st : PortState) (p : Port) (prst : Bool) (access : List AccessResponse) (control : List (List Byte))
    (i : Slot) : ((PortRec.reset st p prst access control).slot i).entry = none := by
  simp [PortRec.reset, PortRec.slot, TransitSlot.reset, Vector.get_eq_getElem]

theorem count_of_none {n : Nat} {test : Fin n → Bool} (h : ∀ i, test i = false) : count test = 0 :=
  List.countP_eq_zero.2 fun i _ => by rw [h]; nofun

theorem portLaw_reset (st : PortState) (p : Port) (prst : Bool) (access : List AccessResponse) (control : List (List Byte)) :
    PortLaw p (PortRec.reset st p prst access control) where
  slots := Nat.zero_le _
  slotTags := List.nodup_nil
  notices := Nat.zero_le _
  records n h := absurd h List.not_mem_nil
  dropped := Nat.zero_le _
  arriving := rfl
  issueNodup := List.nodup_nil
  issueQueue i := by
    rw [slot_reset]
    exact iff_of_false List.not_mem_nil nofun
  plainCount := (count_of_none fun i => by rw [slot_reset]; rfl).symm
  tags i j e e' h := by
    rw [slot_reset] at h
    cases h
  notUp _ := ⟨rfl, rfl, rfl, rfl, rfl, rfl, fun q h => absurd h List.not_mem_nil⟩

namespace Fresh

variable {s : State} (h : Fresh s)

include h

theorem portTables : PortTables s where
  port p := by
    obtain ⟨st, prst, access, control, record⟩ := h.port p
    rw [record]
    exact portLaw_reset st p prst access control
  carried :=
    { loads := fun r mem => by rw [h.loadQueue] at mem; cases mem
      loadTags := by rw [h.loadQueue]; exact List.nodup_nil
      withdrawals := fun w mem => by rw [h.withdrawals] at mem; cases mem
      withdrawalTags := by rw [h.withdrawals]; exact List.nodup_nil
      teardowns := fun c td p t there => by rw [h.teardown] at there; cases there
      teardownTags := fun c d tc td p t there => by rw [h.teardown] at there; cases there
      binds := fun p c t switch => by
        obtain ⟨st, prst, access, control, record⟩ := h.port p
        rw [record] at switch
        cases switch }

theorem not_inTransit {p : Port} {i : Slot} {c : Ctx} {f : Frame} : ¬ InTransit s p i c f := by
  rintro ⟨e, there, -⟩
  obtain ⟨st, prst, access, control, record⟩ := h.port p
  rw [record, slot_reset] at there
  cases there

theorem holders (f : Frame) : (s.frame f).holders = [] := by rw [h.frame]; rfl

theorem holding : Holding s where
  holders f := by
    rw [h.frame]
    exact ⟨iff_of_false nofun fun none => none rfl, List.nodup_nil⟩
  origins f x head := by
    rw [h.holders] at head
    cases head
  entries c g e there := by
    rw [h.entry] at there
    cases there
  offers i o there := by
    rw [h.offer] at there
    cases there
  teardowns c there := by
    rw [h.teardown] at there
    cases there
  starters c td there := by
    rw [h.teardown] at there
    cases there
  noOffers c td there := by
    rw [h.teardown] at there
    cases there
  noEntries c td there := by
    rw [h.teardown] at there
    cases there
  stopping c st there := by
    rw [h.teardown] at there
    cases there
  drained c td there := by
    rw [h.teardown] at there
    cases there
  departures c st f there := by
    rw [h.teardown] at there
    cases there
  flagged w mem := by
    rw [h.withdrawals] at mem
    cases mem
  drains w mem := by
    rw [h.withdrawals] at mem
    cases mem
  records := by
    rw [h.withdrawals]
    exact ⟨fun w mem => (List.not_mem_nil mem).elim, List.nodup_nil⟩
  releases w mem := by
    rw [h.withdrawals] at mem
    cases mem
  drainSets w mem := by
    rw [h.withdrawals] at mem
    cases mem
  transit p i c f there := absurd there h.not_inTransit
  bindings p := by
    obtain ⟨st, prst, access, control, record⟩ := h.port p
    rw [record]
    refine ⟨?_, nofun⟩
    have fine := (ctxFine_reset s.part (homeOf p)).home p rfl
    rw [← h.ctx] at fine
    exact fine
  loads := by
    refine ⟨?_, fun r mem => ?_, fun r mem => ?_, ?_, fun ready => ?_⟩
    · rw [h.loadQueue]
      exact Nat.zero_le _
    · rw [h.loadQueue] at mem
      cases mem
    · rw [h.loadQueue] at mem
      cases mem
    · exact iff_of_true h.load h.loadQueue
    · rw [h.load] at ready
      cases ready

/-- The counts of a context's record are 0. -/
theorem ctx_counts (c : Ctx) : (s.ctx c).charged = 0 ∧ (s.ctx c).shareCount = 0 ∧ (s.ctx c).validCount = 0 := by
  rw [h.ctx]
  unfold CtxRec.reset
  split <;> exact ⟨rfl, rfl, rfl⟩

theorem countLaw : CountLaw s where
  mapCount f := by
    rw [h.frame]
    refine (List.sum_eq_zero fun n mem => ?_).symm
    obtain ⟨c, -, rfl⟩ := List.mem_map.1 mem
    exact count_of_none fun g => by rw [h.entry]; rfl
  validCount c := (h.ctx_counts c).2.2.trans (count_of_none fun g => by rw [h.entry]; rfl).symm
  charged c := (h.ctx_counts c).1.trans (count_of_none fun f => by rw [h.holders]; rfl).symm
  shareCount c := (h.ctx_counts c).2.1.trans (count_of_none fun f => by rw [h.holders]; rfl).symm
  pendingOffers f := by
    rw [h.frame]
    exact (count_of_none fun i => by rw [h.offer]; rfl).symm
  places f := by
    rw [h.frame]
    exact Nat.zero_le _
  freeCtx c _ := ⟨count_of_none fun g => by rw [h.entry]; rfl, fun f => by rw [h.holders]; rfl⟩

end Fresh

/-! ## The state after reset -/

/-- The state after reset is made of reset contents (entry 3). -/
theorem resetBlocks_reset : resetBlocks State.reset false Config.resetPart .up (.ready 0 0) = State.reset := by
  refine (resetBlocks_eq_self_iff _ _ _ _ _).2 ⟨rfl, rfl, rfl, rfl, rfl, rfl, ?_, rfl, rfl, rfl, rfl, rfl, rfl, ?_, rfl, rfl,
    rfl, rfl⟩
  · simp only [State.reset]
  · refine vector_ext_get fun p => Eq.trans ?_ (port_resetBlocks State.reset false Config.resetPart .up (.ready 0 0) p).symm
    show State.reset.port p = _
    have all : ∀ p, State.reset.port p = PortRec.reset .up p false [] [] := by decide
    rw [all]
    rfl

/-- Settles O52: reset contents meet each law, and with no withdrawal, no teardown and every port UP nothing is due. -/
theorem resetIsLawful : Obligations.ResetIsLawful := by
  show Lawful State.reset
  rw [← resetBlocks_reset]
  have fresh := fresh_resetBlocks State.reset false Config.resetPart .up (.ready 0 0)
  refine ⟨frameLists_resetBlocks _ _ _ _ _ nofun fun _ => ⟨head_resetScrubQueue, by decide⟩,
    contextLaw_resetBlocks _ _ _ _ _, fresh.portTables, fresh.holding, fresh.countLaw, ⟨fun w mem => ?_, fun c => ?_,
    fun c => ?_, fun p => ?_⟩⟩
  · rw [fresh.withdrawals] at mem
    cases mem
  · unfold turnDue
    rw [fresh.teardown]
  · unfold stepDue
    rw [fresh.teardown]
  · unfold portDue
    rw [port_resetBlocks]
    rfl

end Sys2Proof.Machine
end

section
/-! PROOFS. RST_N_RELEASE: a port whose PRST_N stands asserted empties its home context, which holds nothing, at the event of
the release (R154, R169). -/

namespace Sys2Proof.Machine

open Sys2Proof

/-- The state of a port during the event of the release, by the level of its PRST_N. -/
def StartPhase (p : Port) (level : Bool) (st : PortState) : Prop :=
  if level then st = .teardown .loads ∨ st = .teardown (.contexts (homeOf p)) ∨ st = .teardown .ended else st = .up

/-- `t` is the released part `b` but for what its port teardowns have done: only home contexts are in teardown, past step 2,
and the withdrawals are those of their step 4, with nothing to wait for. -/
structure Starting (b t : State) : Prop where
  beside : { t with ports := b.ports, teardowns := b.teardowns, withdrawals := b.withdrawals, choices := b.choices } = b
  ports : ∀ p, ∃ st, t.port p = { b.port p with state := st } ∧ StartPhase p (b.port p).prst st
  teardowns : ∀ c td, t.teardown c = some td → pooled c = false ∧ td.step ≠ .offers ∧
    (td.step = .drain → ∃ w ∈ t.withdrawals, w.ctx = c)
  withdrawals : ∀ w ∈ t.withdrawals, w.requester = .teardown ∧ w.drain = []

namespace Starting

variable {b t : State} (h : Starting b t)

include h

theorem contexts : t.contexts = b.contexts := by
  have kept := congrArg (fun x : State => x.contexts) h.beside
  exact kept

theorem frames : t.frames = b.frames := by
  have kept := congrArg (fun x : State => x.frames) h.beside
  exact kept

theorem maps : t.maps = b.maps := by
  have kept := congrArg (fun x : State => x.maps) h.beside
  exact kept

theorem offers : t.offers = b.offers := by
  have kept := congrArg (fun x : State => x.offers) h.beside
  exact kept

theorem loadQueue : t.loadQueue = b.loadQueue := by
  have kept := congrArg (fun x : State => x.loadQueue) h.beside
  exact kept

/-- A port in teardown has its PRST_N asserted. -/
theorem level {p : Port} (down : (t.port p).state ≠ .up) : (b.port p).prst = true := by
  obtain ⟨st, record, phase⟩ := h.ports p
  by_contra low
  unfold StartPhase at phase
  rw [if_neg low] at phase
  rw [record] at down
  exact down phase

/-- A port writes its phase. -/
theorem withPhase {p : Port} {st : PortState} (phase : StartPhase p (b.port p).prst st) :
    Starting b (modPort t p fun x => { x with state := st }) := by
  refine ⟨h.beside, fun q => ?_, h.teardowns, h.withdrawals⟩
  rw [port_modPort]
  split_ifs with hq
  · subst hq
    obtain ⟨old, record, -⟩ := h.ports q
    exact ⟨st, by rw [record], phase⟩
  · exact h.ports q

/-- A home context's teardown is written. -/
theorem withTeardown {c : Ctx} {td : Teardown} (home : pooled c = false) (step : td.step ≠ .offers)
    (listed : td.step = .drain → ∃ w ∈ t.withdrawals, w.ctx = c) : Starting b (t.setTeardown c (some td)) := by
  refine ⟨h.beside, h.ports, fun d td' there => ?_, h.withdrawals⟩
  rw [State.teardown_setTeardown] at there
  split_ifs at there with hd
  · cases there
    rw [hd]
    exact ⟨home, step, listed⟩
  · exact h.teardowns d td' there

/-- A teardown within or into step 5. -/
theorem setStep {c : Ctx} {x : TeardownStep} (offers : x ≠ .offers) (drain : x ≠ .drain) :
    Starting b (Machine.setStep t c x) := by
  cases there : t.teardown c with
  | none => rwa [setStep_of_none there]
  | some td =>
    rw [setStep_of_some there]
    exact h.withTeardown (h.teardowns c td there).1 offers fun at' => absurd at' drain

/-- Step 4 ends where it began: there is nothing to wait for. -/
theorem drained (w : Withdrawal) : Starting b (endDrain (removeRecord t w) w.ctx) := by
  have records : ∀ x ∈ (removeRecord t w).withdrawals, x ∈ t.withdrawals := fun x mem => List.mem_of_mem_filter mem
  have others (c : Ctx) (hc : c ≠ w.ctx) (x : Withdrawal) (mem : x ∈ t.withdrawals) (same : x.ctx = c) :
      ∃ x ∈ (removeRecord t w).withdrawals, x.ctx = c := by
    refine ⟨x, List.mem_filter.2 ⟨mem, ?_⟩, same⟩
    simp [same, hc]
  unfold endDrain
  split
  · rename_i st there
    rw [setStep_of_some there]
    refine ⟨h.beside, h.ports, fun c td at' => ?_, fun x mem => h.withdrawals x (records x mem)⟩
    rw [State.teardown, vector_get_set] at at'
    split_ifs at at' with hc
    · cases at'
      rw [hc]
      exact ⟨(h.teardowns w.ctx _ there).1, nofun, nofun⟩
    · obtain ⟨home, step, listed⟩ := h.teardowns c td at'
      refine ⟨home, step, fun drain => ?_⟩
      obtain ⟨x, mem, same⟩ := listed drain
      exact others c hc x mem same
  · rename_i no
    refine ⟨h.beside, h.ports, fun c td at' => ?_, fun x mem => h.withdrawals x (records x mem)⟩
    obtain ⟨home, step, listed⟩ := h.teardowns c td at'
    refine ⟨home, step, fun drain => ?_⟩
    obtain ⟨x, mem, same⟩ := listed drain
    refine others c ?_ x mem same
    rintro rfl
    obtain ⟨st, x⟩ := td
    subst drain
    exact no _ at'

/-- A teardown ends: of a home context nothing else is written. -/
theorem finishes {c : Ctx} (home : pooled c = false) : Starting b (finishTeardown t c) := by
  have cleared : finishTeardown t c = t.setTeardown c none := if_neg (by rw [home]; nofun)
  rw [cleared]
  refine ⟨h.beside, h.ports, fun d td there => ?_, h.withdrawals⟩
  rw [State.teardown_setTeardown] at there
  split_ifs at there
  exact h.teardowns d td there

variable (fresh : Fresh b)

include fresh

theorem frame_not_held (f : Frame) : (t.frame f).state ≠ .held := by
  rw [State.frame, h.frames]
  have reset := fresh.frame f
  unfold State.frame at reset
  rw [reset]
  nofun

theorem entry (c : Ctx) (g : Page) : t.entry c g = none := by
  rw [State.entry, h.maps]
  exact fresh.entry c g

theorem offer (i : OfferId) : t.offer i = none := by
  rw [State.offer, h.offers]
  exact fresh.offer i

theorem no_loads : t.loadQueue = [] := h.loadQueue.trans fresh.loadQueue

theorem slot (p : Port) (i : Slot) : ((t.port p).slot i).entry = none := by
  obtain ⟨st, record, -⟩ := h.ports p
  obtain ⟨st', prst, access, control, reset⟩ := fresh.port p
  rw [record, reset]
  exact slot_reset st p prst access control i

/-- No pooled context has an owner. -/
theorem unowned {c : Ctx} (pool : pooled c = true) : (t.ctx c).owner = none := by
  rw [State.ctx, h.contexts]
  have reset := fresh.ctx c
  have all : ∀ (part : BitVec 2) (c : Ctx), pooled c = true → (CtxRec.reset part c).owner = none := by decide
  unfold State.ctx at reset
  rw [reset]
  exact all _ c pool

/-- Step 4 of a home context finds no entry and no access. -/
theorem drains {c : Ctx} {st : Starter} (there : t.teardown c = some ⟨st, .loads⟩) :
    Starting b (startContextWithdrawal t c) := by
  have home := (h.teardowns c _ there).1
  have entries : invalidate (Machine.setStep t c .drain) c none = Machine.setStep t c .drain := by
    refine foldl_keeps (P := fun v => v = Machine.setStep t c .drain) (fun v g same => ?_) _ rfl
    rw [same]
    have none' : (Machine.setStep t c .drain).entry c g = none := by
      rw [setStep_of_some there]
      exact h.entry fresh c g
    rw [none']
  have accesses : drainSet (Machine.setStep t c .drain) c none = [] := by
    refine List.eq_nil_iff_forall_not_mem.2 fun ⟨p, i⟩ mem => ?_
    obtain ⟨e, at', -⟩ := mem_drainSet.1 mem
    rw [setStep_of_some there] at at'
    have none' : ((t.port p).slot i).entry = some e := at'
    rw [h.slot fresh p i] at none'
    cases none'
  unfold startContextWithdrawal
  rw [startWithdrawal_eq, entries, accesses, setStep_of_some there]
  refine ⟨h.beside, h.ports, fun d td at' => ?_, fun w mem => ?_⟩
  · rw [State.teardown, vector_get_set] at at'
    split_ifs at at' with hd
    · cases at'
      rw [hd]
      exact ⟨home, nofun, fun _ => ⟨_, List.mem_append_right _ List.mem_cons_self, rfl⟩⟩
    · obtain ⟨home', step, listed⟩ := h.teardowns d td at'
      refine ⟨home', step, fun drain => ?_⟩
      obtain ⟨w, mem, same⟩ := listed drain
      exact ⟨w, List.mem_append_left _ mem, same⟩
  · rcases List.mem_append.1 mem with old | new
    · exact h.withdrawals w old
    · rw [List.mem_singleton] at new
      rw [new]
      exact ⟨rfl, rfl⟩

/-- The home context has no offer and no load. -/
theorem entersHome {p : Port} (down : (t.port p).state ≠ .up) :
    Starting b (cancelThenEndLoads (modPort t p fun x => { x with state := .teardown (.contexts (homeOf p)) }) (homeOf p)
      (.portReset p)) := by
  have entered := h.withPhase (p := p) (st := .teardown (.contexts (homeOf p))) (by
    unfold StartPhase
    rw [h.level down, if_pos rfl]
    exact .inr (.inl rfl))
  generalize modPort t p _ = u at entered
  have offers : cancelOffersOf u (homeOf p) = u := by
    refine foldl_keeps (P := fun v => v = u) (fun v i same => ?_) _ rfl
    rw [same, entered.offer fresh i]
  unfold cancelThenEndLoads
  rw [offers]
  have written := entered.withTeardown (c := homeOf p) (td := ⟨.portReset p, .loads⟩) (homeOf_not_pooled p) nofun nofun
  rw [(endLoadsOfCtx_endsLoads _ _).1 (written.no_loads fresh)]
  exact written

/-- Each thing due at the release is one of a home context that holds nothing. -/
theorem dueStep {u : State} (due : DueStep t u) : Starting b u := by
  have request {w : Withdrawal} (listed : w ∈ t.withdrawals) (other : w.requester ≠ .teardown) : False :=
    other (h.withdrawals w listed).1
  have held {f : Frame} (state : (t.frame f).state = .held) : False := h.frame_not_held fresh f state
  have pool {c : Ctx} {p : Port} (pool : pooled c = true) (owned : (t.ctx c).owner = some p) : False := by
    rw [h.unowned fresh pool] at owned
    cases owned
  cases due with
  | released listed empty frame who => exact (request listed (by rw [who]; nofun)).elim
  | hasLeft listed empty frame who => exact (request listed (by rw [who]; nofun)).elim
  | revoked listed empty frame who => exact (request listed (by rw [who]; nofun)).elim
  | departed listed empty frame who => exact (request listed (by rw [who]; nofun)).elim
  | drained listed empty who => exact h.drained _
  | dropped listed empty frame who => exact (request listed who).elim
  | drains teardown idle => exact h.drains fresh teardown
  | gone teardown past => exact h.setStep nofun nofun
  | waits teardown past => exact h.setStep nofun nofun
  | leaves teardown past state => exact (held state).elim
  | givesUp teardown past state => exact (held state).elim
  | inherits teardown past state => exact (held state).elim
  | departs teardown past state => exact (held state).elim
  | takesNext teardown state => exact (held state).elim
  | finishes teardown nowhere => exact h.finishes (h.teardowns _ _ teardown).1
  | enters down inPool owned => exact (pool inPool owned).elim
  | joins down inPool owned => exact (pool inPool owned).elim
  | entersHome down before => exact h.entersHome fresh down
  | @ends p state ended =>
    have level := h.level (p := p) (by rw [state]; nofun)
    obtain ⟨st, record, -⟩ := h.ports p
    have phase : StartPhase p (b.port p).prst (.teardown .ended) := by
      unfold StartPhase
      rw [level, if_pos rfl]
      exact .inr (.inr rfl)
    have asserted : (t.port p).prst = true := by rw [record]; exact level
    have written : endPortTeardown t p = modPort t p fun x => { x with state := .teardown .ended } := by
      refine congrArg (t.setPort p) ?_
      dsimp only
      rw [asserted]
      rfl
    rw [written]
    exact h.withPhase phase

/-- The notices of the event: there are none. -/
theorem placed : Starting b (placeNotices t) := by
  refine ⟨h.beside, fun p => ?_, h.teardowns, h.withdrawals⟩
  obtain ⟨st, record, phase⟩ := h.ports p
  refine ⟨st, ?_, phase⟩
  rw [port_placeNotices, record]
  obtain ⟨st', prst, access, control, reset⟩ := fresh.port p
  rw [reset]
  rfl

theorem settle : Starting b (settle t) :=
  DueStep.kept_by_settle (P := Starting b) (fun _ _ k => ⟨k.beside, k.ports, k.teardowns, k.withdrawals⟩)
    (fun _ _ k due => k.dueStep fresh due) (fun _ k => k.placed fresh) h

/-- Once nothing is due each teardown has ended, and each port is UP or in phase ENDED. -/
theorem ended (settled : Settled t) : (∀ c, t.teardown c = none) ∧ t.withdrawals = [] ∧
    ∀ p, t.port p = { b.port p with state := if (b.port p).prst then .teardown .ended else .up } := by
  have none' : t.withdrawals = [] := List.eq_nil_iff_forall_not_mem.2 fun w mem =>
    settled.drains w mem (h.withdrawals w mem).2
  have ended : ∀ c, t.teardown c = none := fun c => by
    cases there : t.teardown c with
    | none => rfl
    | some td =>
      obtain ⟨-, step, listed⟩ := h.teardowns c td there
      obtain ⟨st, x⟩ := td
      have turns := settled.turns c
      have steps := settled.steps c
      have away (f : Frame) : (t.frame f).state ≠ .held := h.frame_not_held fresh f
      unfold turnDue at turns
      unfold stepDue at steps
      rw [there] at turns steps
      cases x with
      | offers => exact absurd rfl step
      | loads =>
        rw [loadTargets, h.no_loads fresh] at steps
        cases steps
      | drain =>
        obtain ⟨w, mem, -⟩ := listed rfl
        rw [none'] at mem
        cases mem
      | frames => cases turns
      | turn f => simp [away f] at turns
      | departure f => simp [away f] at turns
  refine ⟨ended, none', fun p => ?_⟩
  obtain ⟨st, record, phase⟩ := h.ports p
  have due := settled.ports p
  rw [record]
  unfold portDue at due
  unfold StartPhase at phase
  rw [record] at due
  split_ifs at phase ⊢ with level
  · rcases phase with rfl | rfl | rfl
    · rw [loadOfPort, h.no_loads fresh] at due
      cases due
    · change (t.teardown (homeOf p)).isNone = false at due
      rw [ended] at due
      cases due
    · rfl
  · rw [phase]

end Starting

/-! ## The ports at the release (R154) -/

/-- The teardown of a port starts at the release: nothing waits at its lanes, and it has no load. -/
theorem resetPortAsserted_eq {s : State} {p : Port} {level : Bool} {access : List AccessResponse}
    {control : List (List Byte)} (record : s.port p = PortRec.reset .up p level access control)
    (idle : s.loadQueue = []) : ∃ k, resetPortAsserted s p =
      { s.setPort p { s.port p with state := if level then .teardown .loads else .up } with choices := k } := by
  have asserted : (s.port p).prst = level := by rw [record]; rfl
  unfold resetPortAsserted
  rw [asserted]
  cases level with
  | false =>
    refine ⟨s.choices, ?_⟩
    have same : { s.port p with state := if false = true then .teardown .loads else .up } = s.port p := by
      rw [record]
      rfl
    rw [same, State.setPort_self]
    rfl
  | true =>
    obtain ⟨l, k, perm, started⟩ := startPortTeardown_eq s p
    rw [record] at perm
    obtain rfl : l = [] := perm.eq_nil
    refine ⟨k, ?_⟩
    have ends (v : State) (none' : v.loadQueue = []) : endLoadsOfPort v p = v :=
      (endLoadsOfPort_endsLoads v p).1 none'
    rw [if_pos rfl, started, ends, record]
    · simp [PortRec.reset]
    · exact idle

/-- Every port of a list whose PRST_N stands asserted starts its teardown, and the others stay UP. -/
theorem foldl_resetPortAsserted (ps : List Port) (nodup : ps.Nodup) {s : State} (idle : s.loadQueue = [])
    (up : ∀ p ∈ ps, ∃ level access control, s.port p = PortRec.reset .up p level access control) :
    (∀ p ∈ ps, (ps.foldl resetPortAsserted s).port p =
        { s.port p with state := if (s.port p).prst then .teardown .loads else .up }) ∧
      (∀ q, q ∉ ps → (ps.foldl resetPortAsserted s).port q = s.port q) ∧
      { ps.foldl resetPortAsserted s with ports := s.ports, choices := s.choices } = s := by
  induction ps generalizing s with
  | nil => exact ⟨fun p h => absurd h List.not_mem_nil, fun _ _ => rfl, rfl⟩
  | cons a ps ih =>
    obtain ⟨away, nodup⟩ := List.nodup_cons.1 nodup
    obtain ⟨level, access, control, record⟩ := up a List.mem_cons_self
    obtain ⟨k, started⟩ := resetPortAsserted_eq record idle
    have asserted : (s.port a).prst = level := by rw [record]; rfl
    rw [List.foldl_cons, started]
    have port (q : Port) : State.port { s.setPort a
        { s.port a with state := if level then .teardown .loads else .up } with choices := k } q =
        if q = a then { s.port a with state := if level then .teardown .loads else .up } else s.port q :=
      State.port_setPort ..
    generalize hu : ({ s.setPort a
      { s.port a with state := if level then .teardown .loads else .up } with choices := k } : State) = u at port
    have beside : { u with ports := s.ports, choices := s.choices } = s := by
      rw [← hu]
      rfl
    clear hu
    obtain ⟨done, untouched, after⟩ := ih nodup (s := u) (by
        have kept := congrArg (fun x : State => x.loadQueue) beside
        exact Eq.trans kept idle) fun p later => by
      have other : p ≠ a := fun e => away (e ▸ later)
      rw [port, if_neg other]
      exact up p (List.mem_cons_of_mem a later)
    refine ⟨fun p hp => ?_, fun q hq => ?_, ?_⟩
    · rcases List.mem_cons.1 hp with rfl | later
      · rw [untouched p away, port, if_pos rfl, asserted]
      · have other : p ≠ a := fun e => away (e ▸ later)
        rw [done p later, port, if_neg other]
    · rw [List.mem_cons, not_or] at hq
      rw [untouched q hq.2, port, if_neg hq.1]
    · generalize ps.foldl resetPortAsserted u = t at after
      calc { t with ports := s.ports, choices := s.choices }
          = { { t with ports := u.ports, choices := u.choices } with ports := s.ports, choices := s.choices } := rfl
        _ = s := by rw [after, beside]

/-- What the release leaves: the reset contents, with each port UP or, under PRST_N, in phase ENDED. -/
theorem releaseReset_starts (s : State) (part : BitVec 2) :
    Starting (resetBlocks s false part .up (.ready 0 0)) (releaseReset s part) ∧ Settled (releaseReset s part) := by
  refine ⟨?_, settled_settle _⟩
  have fresh := fresh_resetBlocks s false part .up (.ready 0 0)
  have up (p : Port) := port_resetBlocks s false part .up (.ready 0 0) p
  unfold releaseReset
  generalize resetBlocks s false part .up (.ready 0 0) = b at fresh up
  obtain ⟨done, -, beside⟩ := foldl_resetPortAsserted (List.finRange 4) (List.nodup_finRange 4) fresh.loadQueue
    fun p _ => ⟨_, _, _, up p⟩
  generalize (List.finRange 4).foldl resetPortAsserted b = t at done beside
  have withdrawals : t.withdrawals = [] := by
    have kept := congrArg (fun x : State => x.withdrawals) beside
    exact Eq.trans kept fresh.withdrawals
  have teardowns : t.teardowns = b.teardowns := by
    have kept := congrArg (fun x : State => x.teardowns) beside
    exact kept
  refine Starting.settle (t := t) ⟨?_, fun p => ⟨_, done p (List.mem_finRange p), ?_⟩, fun c td there => ?_,
    fun w mem => ?_⟩ fresh
  · rw [← teardowns, ← withdrawals.trans fresh.withdrawals.symm]
    exact beside
  · unfold StartPhase
    split_ifs
    · exact .inl rfl
    · rfl
  · rw [State.teardown, teardowns] at there
    have none' := fresh.teardown c
    rw [State.teardown, there] at none'
    cases none'
  · rw [withdrawals] at mem
    cases mem

/-- Settles O5: what the release itself writes, and what its port teardowns leave when nothing is due. -/
theorem rstNReleaseStarts : Obligations.RstNReleaseStarts := by
  intro part s asserted quota
  have run : exec (.rstNRelease part) s = .next (releaseReset s part) :=
    congrArg Host.Outcome.next (if_pos asserted)
  refine ⟨_, run, ?_⟩
  obtain ⟨starts, settled⟩ := releaseReset_starts s part
  generalize releaseReset s part = t at starts settled
  have fresh := fresh_resetBlocks s false part .up (.ready 0 0)
  obtain ⟨ended, none', ports⟩ := starts.ended fresh settled
  have contexts : ∀ (part : BitVec 2) (c : Ctx), CtxRec.reset part c =
      if h : c.val < 4 then ⟨.live, some ⟨c.val, h⟩, 15,
        if part = 0 then 1024
        else if part = 1 then (if c = 0 then 2048 else if c = 1 then 1024 else 512)
        else if part = 2 then (if c = 0 then 3072 else if c = 1 then 512 else 256)
        else (if c = 0 then 4096 else 0), 0, 0, 0⟩
      else ⟨.free, none, 0, 0, 0, 0, 0⟩ := by
    decide
  have read {α : Type} (g : State → α) (kept : ∀ v : State, g { v with
      ports := (resetBlocks s false part .up (.ready 0 0)).ports
      teardowns := (resetBlocks s false part .up (.ready 0 0)).teardowns
      withdrawals := (resetBlocks s false part .up (.ready 0 0)).withdrawals
      choices := (resetBlocks s false part .up (.ready 0 0)).choices } = g v) :
      g t = g (resetBlocks s false part .up (.ready 0 0)) := by
    rw [← kept t, starts.beside]
  refine ⟨read State.rstAsserted fun _ => rfl, read State.part fun _ => rfl, read State.usTicks fun _ => rfl,
    read State.msTicks fun _ => rfl, fun f => ?_, read State.freeList fun _ => rfl,
    (read State.scrubQueue fun _ => rfl).trans (scrubQueue_resetBlocks ..), fun c => ?_, fun c => ⟨ended c,
    starts.entry fresh c⟩, starts.offer fresh, read State.nextSerial fun _ => rfl, none', starts.no_loads fresh,
    read State.load fun _ => rfl, read State.scrub fun _ => rfl, read State.pointer fun _ => rfl,
    read State.writeGen fun _ => rfl, read State.readGen fun _ => rfl, read State.memoryRequests fun _ => rfl, fun p => ?_⟩
  · exact (congrArg (fun v => v.get f) starts.frames).trans (fresh.frame f)
  · exact (congrArg (fun v => v.get c) starts.contexts).trans ((fresh.ctx c).trans (contexts part c))
  · rw [ports, port_resetBlocks]
    rfl

end Sys2Proof.Machine
end

section
/-! PROOFS. The law of one port's tables, at every change of a port's record. -/

namespace Sys2Proof.Machine

open Sys2Proof

/-! ## Counting -/

theorem count_eq_sum {n : Nat} (test : Fin n → Bool) : count test = ∑ i, (test i).toNat := by
  have all (l : List (Fin n)) : l.countP test = (l.map fun i => (test i).toNat).sum := by
    induction l with
    | nil => rfl
    | cons a l ih =>
      rw [List.countP_cons, ih, List.map_cons, List.sum_cons, Nat.add_comm]
      cases test a <;> rfl
  exact (all _).trans (Fin.sum_univ_def fun i => (test i).toNat).symm

/-- Two tests that differ in one place at most count alike but for that place. -/
theorem count_change {n : Nat} {test test' : Fin n → Bool} (i : Fin n) (same : ∀ j, j ≠ i → test' j = test j) :
    count test' + (test i).toNat = count test + (test' i).toNat := by
  have rest : ∑ j ∈ Finset.univ.erase i, (test' j).toNat = ∑ j ∈ Finset.univ.erase i, (test j).toNat :=
    Finset.sum_congr rfl fun j hj => by rw [same j (Finset.ne_of_mem_erase hj)]
  rw [count_eq_sum, count_eq_sum, ← Finset.add_sum_erase _ _ (Finset.mem_univ i), rest,
    ← Finset.add_sum_erase (a := i) _ (fun j => (test j).toNat) (Finset.mem_univ i)]
  omega

theorem count_congr {n : Nat} {test test' : Fin n → Bool} (same : ∀ j, test' j = test j) : count test' = count test :=
  congrArg count (funext same)

/-! ## The parts of the law -/

/-- Control slots (R170, R171, R165). -/
structure SlotsFine (st : PortState) (slots : List ControlSlot) : Prop where
  length : slots.length ≤ Config.controlSlots
  tags : (slots.map ControlSlot.tag).Nodup
  notUp : st ≠ .up → ∀ q ∈ slots, q.standing = .active ∧ q.discard = true

/-- The notice queue (R179, R164). -/
structure NoticesFine (st : PortState) (notices : List (List Byte)) (dropped : Nat) : Prop where
  length : notices.length ≤ Config.noticeQueueSize
  records : ∀ n ∈ notices, n.length = 16
  few : dropped ≤ Config.droppedMax
  notUp : st ≠ .up → notices = [] ∧ dropped = 0

/-- The transit table (R122, R123). -/
structure TransitFine (entry : Slot → Option TransitEntry) (queue : List Slot) (plain : Nat) : Prop where
  nodup : queue.Nodup
  queue : ∀ i, i ∈ queue ↔ (entry i).map TransitEntry.phase = some .waiting
  plain : plain = count fun i => (entry i).map TransitEntry.mode == some .plain
  tags : ∀ i j e e', entry i = some e → entry j = some e' → e.tag = e'.tag → i = j

/-- The lanes and the binding (R164). -/
def LanesFine (p : Port) (st : PortState) (plain elevated : List AccessRequest) (bound : Ctx) (binding : Binding) : Prop :=
  st ≠ .up → plain = [] ∧ elevated = [] ∧ bound = homeOf p ∧ binding = .settled

/-- The law of a port's tables within an event, whose notices are still to be placed. -/
structure TablesLaw (p : Port) (r : PortRec) : Prop where
  slots : SlotsFine r.state r.slots
  notices : NoticesFine r.state r.notices r.dropped
  transit : TransitFine (fun i => (r.slot i).entry) r.issueQueue r.plainCount
  lanes : LanesFine p r.state r.plainLane r.elevatedLane r.bound r.binding

theorem portLaw_iff (p : Port) (r : PortRec) : PortLaw p r ↔ TablesLaw p r ∧ r.arriving = [] := by
  constructor
  · intro h
    refine ⟨⟨⟨h.slots, h.slotTags, fun down => (h.notUp down).2.2.2.2.2.2⟩,
      ⟨h.notices, h.records, h.dropped, fun down => ?_⟩, ⟨h.issueNodup, h.issueQueue, h.plainCount, h.tags⟩, fun down => ?_⟩,
      h.arriving⟩
    · obtain ⟨notices, dropped, -⟩ := h.notUp down
      exact ⟨notices, dropped⟩
    · obtain ⟨-, -, plain, elevated, bound, binding, -⟩ := h.notUp down
      exact ⟨plain, elevated, bound, binding⟩
  · rintro ⟨⟨slots, notices, transit, lanes⟩, arriving⟩
    refine ⟨slots.length, slots.tags, notices.length, notices.records, notices.few, arriving, transit.nodup,
      transit.queue, transit.plain, transit.tags, fun down => ?_⟩
    obtain ⟨none', zero⟩ := notices.notUp down
    obtain ⟨plain, elevated, bound, binding⟩ := lanes down
    exact ⟨none', zero, plain, elevated, bound, binding, slots.notUp down⟩

/-! ## What keeps them -/

namespace SlotsFine

variable {st : PortState} {slots : List ControlSlot} (h : SlotsFine st slots)

include h

/-- Some of the slots are gone. -/
theorem sublist {slots' : List ControlSlot} (sub : slots'.Sublist slots) : SlotsFine st slots' :=
  ⟨sub.length_le.trans h.length, (sub.map _).nodup h.tags, fun down q mem => h.notUp down q (sub.subset mem)⟩

/-- Another state of the port in which the slots' notUp rule was to hold already, or need not. -/
theorem phase {x : PortState} (leaves : st ≠ .up ∨ x = .up) : SlotsFine x slots :=
  ⟨h.length, h.tags, fun down => h.notUp (leaves.resolve_right down)⟩

theorem carriedOn (t : Tag) :
    SlotsFine st (slots.map fun q => if q.tag = t then { q with standing := .active } else q) := by
  refine ⟨(List.length_map _).le.trans h.length, ?_, fun down q mem => ?_⟩
  · have tags : (slots.map fun q => if q.tag = t then { q with standing := .active } else q).map ControlSlot.tag =
        slots.map ControlSlot.tag := by
      rw [List.map_map]
      refine List.map_congr_left fun q _ => ?_
      simp only [Function.comp]
      split_ifs <;> rfl
    rw [tags]
    exact h.tags
  · obtain ⟨q', mem', rfl⟩ := List.mem_map.1 mem
    obtain ⟨active, discard⟩ := h.notUp down q' mem'
    split_ifs
    · exact ⟨rfl, discard⟩
    · exact ⟨active, discard⟩

theorem admitted (up : st = .up) {q : ControlSlot} (room : slots.length < Config.controlSlots)
    (tag : slots.find? (fun x => x.tag == q.tag) = none) : SlotsFine st (slots ++ [q]) := by
  refine ⟨by rw [List.length_append]; exact room, ?_, fun down => absurd up down⟩
  rw [List.map_append, List.nodup_append]
  refine ⟨h.tags, List.nodup_singleton _, ?_⟩
  rintro _ mem _ last rfl
  rw [List.map_singleton, List.mem_singleton] at last
  obtain ⟨q', mem', same⟩ := List.mem_map.1 mem
  exact absurd (beq_iff_eq.2 (same.trans last)) (List.find?_eq_none.1 tag q' mem')

/-- The slots at the start of a port teardown (R165). -/
theorem discarded {x : PortState} : SlotsFine x (slots.filterMap discardSlot) := by
  have tags : ∀ l : List ControlSlot, ((l.filterMap discardSlot).map ControlSlot.tag).Sublist (l.map ControlSlot.tag) := by
    intro l
    induction l with
    | nil => exact .slnil
    | cons q l ih =>
      cases kept : discardSlot q with
      | none =>
        rw [List.filterMap_cons_none kept]
        exact ih.cons _
      | some q' =>
        have same : q'.tag = q.tag := by
          unfold discardSlot at kept
          split at kept
          · cases kept
          · split_ifs at kept
            cases kept
            rfl
        rw [List.filterMap_cons_some kept, List.map_cons, List.map_cons, same]
        exact ih.cons_cons _
  refine ⟨(List.length_filterMap_le _ _).trans h.length, (tags slots).nodup h.tags, fun _ q mem => ?_⟩
  obtain ⟨q', -, kept⟩ := List.mem_filterMap.1 mem
  unfold discardSlot at kept
  split at kept
  · cases kept
  · rename_i active
    split_ifs at kept
    cases kept
    exact ⟨active, rfl⟩

end SlotsFine

namespace NoticesFine

theorem noticed {r : PortRec} (h : NoticesFine r.state r.notices r.dropped) (n : Notice) :
    NoticesFine (r.noticed n).state (r.noticed n).notices (r.noticed n).dropped := by
  unfold PortRec.noticed
  split_ifs with up room
  · refine ⟨?_, fun b mem => ?_, h.few, fun down => absurd up down⟩
    · show (r.notices ++ [n.record]).length ≤ _
      rw [List.length_append]
      exact room
    · rcases List.mem_append.1 mem with old | new
      · exact h.records b old
      · rw [List.mem_singleton.1 new]
        exact length_record n
  · exact ⟨h.length, h.records, min_le_left _ _, fun down => absurd up down⟩
  · exact h

theorem foldl_noticed (ns : List Notice) {r : PortRec} (h : NoticesFine r.state r.notices r.dropped) :
    NoticesFine (ns.foldl PortRec.noticed r).state (ns.foldl PortRec.noticed r).notices
      (ns.foldl PortRec.noticed r).dropped := by
  induction ns generalizing r with
  | nil => exact h
  | cons n ns ih => exact ih (h.noticed n)

end NoticesFine

namespace TransitFine

variable {entry : Slot → Option TransitEntry} {queue : List Slot} {plain : Nat} (h : TransitFine entry queue plain)

include h

/-- The tags, modes and phases stand as they were. -/
theorem congr {entry' : Slot → Option TransitEntry}
    (phase : ∀ i, (entry' i).map TransitEntry.phase = some .waiting ↔ (entry i).map TransitEntry.phase = some .waiting)
    (mode : ∀ i, (entry' i).map TransitEntry.mode = (entry i).map TransitEntry.mode)
    (tag : ∀ i, (entry' i).map TransitEntry.tag = (entry i).map TransitEntry.tag) : TransitFine entry' queue plain := by
  have before {i : Slot} {e' : TransitEntry} (there : entry' i = some e') : ∃ e, entry i = some e ∧ e.tag = e'.tag := by
    have same := tag i
    rw [there] at same
    exact Option.map_eq_some_iff.1 same.symm
  refine ⟨h.nodup, fun i => (h.queue i).trans (phase i).symm, h.plain.trans (count_congr fun i => by rw [mode]), ?_⟩
  intro i j e e' hi hj same
  obtain ⟨d, di, dt⟩ := before hi
  obtain ⟨d', dj, dt'⟩ := before hj
  exact h.tags i j d d' di dj (dt.trans (same.trans dt'.symm))

theorem allocated {i : Slot} {e : TransitEntry} (free : entry i = none) (waiting : e.phase = .waiting)
    (tag : ∀ j d, entry j = some d → d.tag ≠ e.tag) :
    TransitFine (fun j => if j = i then some e else entry j) (queue ++ [i]) (if e.mode = .plain then plain + 1 else plain) := by
  have away : i ∉ queue := fun mem => by
    have := (h.queue i).1 mem
    rw [free] at this
    cases this
  refine ⟨?_, fun j => ?_, ?_, fun j k d d' hj hk same => ?_⟩
  · rw [List.nodup_append]
    refine ⟨h.nodup, List.nodup_singleton _, ?_⟩
    rintro a mem b last rfl
    rw [List.mem_singleton] at last
    exact away (last ▸ mem)
  · rw [List.mem_append, List.mem_singleton]
    split_ifs with hj
    · exact iff_of_true (.inr hj) (congrArg some waiting)
    · rw [h.queue]
      exact or_iff_left hj
  · have changed := count_change (test := fun j => (entry j).map TransitEntry.mode == some .plain)
      (test' := fun j => (if j = i then some e else entry j).map TransitEntry.mode == some .plain) i
      fun j hj => by rw [if_neg hj]
    have before := h.plain
    rw [free, if_pos rfl] at changed
    rw [before]
    cases hmode : e.mode with
    | plain =>
      simp [hmode] at changed ⊢
      omega
    | elevated =>
      simp [hmode, show (Mode.elevated == Mode.plain) = false from rfl] at changed ⊢
      omega
  · split_ifs at hj hk with ej ek
    · exact ej.trans ek.symm
    · cases hj
      exact absurd same.symm (tag k d' hk)
    · cases hk
      exact absurd same (tag j d hj)
    · exact h.tags j k d d' hj hk same

theorem freed {i : Slot} {e : TransitEntry} {age : Nat} (held : entry i = some e) (phase : e.phase = .issued age) :
    TransitFine (fun j => if j = i then none else entry j) queue (if e.mode = .plain then plain - 1 else plain) := by
  refine ⟨h.nodup, fun j => ?_, ?_, fun j k d d' hj hk same => ?_⟩
  · rw [h.queue]
    split_ifs with hj
    · rw [hj, held]
      simp [phase]
    · rfl
  · have changed := count_change (test := fun j => (entry j).map TransitEntry.mode == some .plain)
      (test' := fun j => (if j = i then none else entry j).map TransitEntry.mode == some .plain) i
      fun j hj => by rw [if_neg hj]
    have before := h.plain
    rw [held, if_pos rfl] at changed
    rw [before]
    cases hmode : e.mode with
    | plain =>
      simp [hmode] at changed ⊢
      omega
    | elevated =>
      simp [hmode, show (Mode.elevated == Mode.plain) = false from rfl] at changed ⊢
      omega
  · split_ifs at hj hk
    exact h.tags j k d d' hj hk same

theorem issued {i : Slot} {rest : List Slot} {e e' : TransitEntry} (head : queue = i :: rest) (held : entry i = some e)
    (phase : e'.phase ≠ .waiting) (mode : e'.mode = e.mode) (tag : e'.tag = e.tag) :
    TransitFine (fun j => if j = i then some e' else entry j) rest plain := by
  have nodup := h.nodup
  rw [head] at nodup
  obtain ⟨away, nodup⟩ := List.nodup_cons.1 nodup
  have before {j : Slot} {d : TransitEntry} (there : (if j = i then some e' else entry j) = some d) :
      ∃ d', entry j = some d' ∧ d'.tag = d.tag := by
    split_ifs at there with hj
    · cases there
      exact ⟨e, hj ▸ held, tag.symm⟩
    · exact ⟨d, there, rfl⟩
  refine ⟨nodup, fun j => ?_, h.plain.trans (count_congr fun j => ?_), fun j k d d' hj hk same => ?_⟩
  · split_ifs with hj
    · rw [hj]
      exact iff_of_false away (by simpa using phase)
    · rw [← h.queue, head, List.mem_cons]
      exact (or_iff_right hj).symm
  · split_ifs with hj
    · rw [hj, held, Option.map_some, Option.map_some, mode]
    · rfl
  · obtain ⟨a, aj, at'⟩ := before hj
    obtain ⟨b, bk, bt⟩ := before hk
    exact h.tags j k a b aj bk (at'.trans (same.trans bt.symm))

end TransitFine

/-- No entry carries a tag that is not outstanding (R57). -/
theorem tag_ne_of_not_outstanding {r : PortRec} {t : Tag} (h : tagOutstanding r t = false) {i : Slot} {e : TransitEntry}
    (held : (r.slot i).entry = some e) : e.tag ≠ t := by
  intro same
  have mem : r.slot i ∈ r.transit.toArray.toList := by
    unfold PortRec.slot
    rw [Vector.get_eq_getElem]
    simp
  have none' := List.any_eq_false.1 h _ mem
  rw [held] at none'
  exact none' (beq_iff_eq.2 same)

theorem entry_setSlot (r : PortRec) (i : Slot) (x : TransitSlot) :
    (fun j => ((r.setSlot i x).slot j).entry) = fun j => if j = i then x.entry else (r.slot j).entry := by
  funext j
  rw [PortRec.slot_setSlot]
  split_ifs <;> rfl

theorem entry_olderSlot (r : PortRec) (i : Slot) :
    (PortRec.slot { r with transit := mapVec olderSlot r.transit } i).entry = (olderSlot (r.slot i)).entry := by
  show ((mapVec olderSlot r.transit).get i).entry = _
  rw [mapVec_get]
  rfl

/-- Each change of a port's record keeps the law of its tables. -/
theorem PortMove.tablesLaw {p : Port} {r r' : PortRec} (move : PortMove p r r') (h : TablesLaw p r) : TablesLaw p r' := by
  obtain ⟨slots, notices, transit, lanes⟩ := h
  cases move with
  | stay => exact ⟨slots, notices, transit, lanes⟩
  | sent access control => exact ⟨slots, notices, transit, lanes⟩
  | responded t v results =>
    rw [responded_eq]
    refine ⟨slots.sublist ?_, notices, transit, lanes⟩
    unfold PortRec.responded
    split
    · exact List.Sublist.refl _
    · dsimp only
      split_ifs <;> exact List.filter_sublist
  | carriedOn t => exact ⟨slots.carriedOn t, notices, transit, lanes⟩
  | admitted q up room tag => exact ⟨slots.admitted up room tag, notices, transit, lanes⟩
  | noticed n =>
    have told := notices.noticed n
    rw [noticed_eq] at told ⊢
    exact ⟨slots, told, transit, lanes⟩
  | notified n =>
    rw [notified_eq]
    exact ⟨slots, notices, transit, lanes⟩
  | placed =>
    have told := NoticesFine.foldl_noticed (inNoticeOrder r.arriving) (r := { r with arriving := [] }) notices
    change NoticesFine r.placed.state r.placed.notices r.placed.dropped at told
    rw [placed_eq] at told ⊢
    exact ⟨slots, told, transit, lanes⟩
  | fetched n =>
    refine ⟨slots, ⟨?_, fun b mem => notices.records b (List.mem_of_mem_drop mem), Nat.zero_le _, fun down => ?_⟩, transit,
      lanes⟩
    · exact ((List.length_drop ..).le.trans (Nat.sub_le _ _)).trans notices.length
    · obtain ⟨none', -⟩ := notices.notUp down
      exact ⟨by show r.notices.drop n = []; rw [none', List.drop_nil], rfl⟩
  | lanes plain elevated last up => exact ⟨slots, notices, transit, fun down => absurd up down⟩
  | allocated i e free waiting tag =>
    refine ⟨slots, notices, ?_, lanes⟩
    have taken := transit.allocated free waiting fun j d held => tag_ne_of_not_outstanding tag held
    exact entry_setSlot r i ⟨(r.slot i).gen + 1, some e⟩ ▸ taken
  | skipped i rest head free =>
    have waits := (transit.queue i).1 (head ▸ List.mem_cons_self)
    rw [free] at waits
    cases waits
  | issued i rest e head held =>
    refine ⟨slots, notices, ?_, lanes⟩
    have sent := transit.issued (e' := { e with phase := .issued 0, data := [] }) head held nofun rfl rfl
    exact entry_setSlot r i ⟨(r.slot i).gen, some { e with phase := .issued 0, data := [] }⟩ ▸ sent
  | aged =>
    have older : ∀ x : TransitSlot, ((olderSlot x).entry.map TransitEntry.phase = some .waiting ↔
        x.entry.map TransitEntry.phase = some .waiting) ∧
        (olderSlot x).entry.map TransitEntry.mode = x.entry.map TransitEntry.mode ∧
        (olderSlot x).entry.map TransitEntry.tag = x.entry.map TransitEntry.tag := by
      rintro ⟨gen, - | e⟩
      · exact ⟨Iff.rfl, rfl, rfl⟩
      · cases hphase : e.phase with
        | waiting => simp [olderSlot, hphase]
        | issued age => simp [olderSlot, hphase]
    refine ⟨slots, notices, ?_, lanes⟩
    have entries : (fun i => (PortRec.slot { r with transit := mapVec olderSlot r.transit } i).entry) =
        fun i => (olderSlot (r.slot i)).entry := funext (entry_olderSlot r)
    rw [entries]
    exact transit.congr (fun i => (older _).1) (fun i => (older _).2.1) fun i => (older _).2.2
  | freed i e age held phase =>
    refine ⟨slots, notices, ?_, lanes⟩
    exact entry_setSlot r i ⟨(r.slot i).gen, none⟩ ▸ transit.freed held phase
  | bound c b up =>
    refine ⟨slots, notices, transit, fun down => ?_⟩
    rcases up with up | switching | ⟨q, mem, waiting⟩
    · exact absurd up down
    · obtain ⟨-, -, -, settled⟩ := lanes down
      exact absurd settled switching
    · obtain ⟨active, -⟩ := slots.notUp down q mem
      rw [waiting] at active
      cases active
  | line level x stays =>
    have leaves : r.state ≠ .up ∨ x = .up := by
      by_cases up : r.state = .up
      · exact .inr (stays.elim (fun same => same.trans up) id)
      · exact .inl up
    exact ⟨slots.phase leaves, ⟨notices.length, notices.records, notices.few, fun down =>
      notices.notUp (leaves.resolve_right down)⟩, transit, fun down => lanes (leaves.resolve_right down)⟩
  | phase x leaves =>
    exact ⟨slots.phase leaves, ⟨notices.length, notices.records, notices.few, fun down =>
      notices.notUp (leaves.resolve_right down)⟩, transit, fun down => lanes (leaves.resolve_right down)⟩
  | cut offline =>
    exact ⟨slots.discarded, ⟨Nat.zero_le _, fun b mem => absurd mem List.not_mem_nil, Nat.zero_le _, fun _ => ⟨rfl, rfl⟩⟩,
      transit, fun _ => ⟨rfl, rfl, rfl, rfl⟩⟩

/-- A change of the state changes each port's record in one of those ways, or not. -/
theorem Move.tablesLaw {s t : State} (move : Move s t) (h : ∀ p, TablesLaw p (s.port p)) (p : Port) :
    TablesLaw p (t.port p) := by
  have kept (ports : t.ports = s.ports) : TablesLaw p (t.port p) := by
    rw [State.port, ports]
    exact h p
  cases move with
  | ports ps each => exact (each p).tablesLaw (h p)
  | claimed c n =>
    exact kept (foldl_keeps (P := fun v : State => v.ports = s.ports) (g := fun s f => modFrame s f (claimedFrame c))
      (fun _ _ h => h) _ rfl)
  | reclaimed f => exact kept (by rw [reclaimExit_frame])
  | left c pool =>
    refine kept ?_
    cases (s.ctx c).owner <;> rfl
  | _ => exact kept rfl

theorem Moves.tablesLaw {s t : State} (moves : Moves s t) (h : ∀ p, TablesLaw p (s.port p)) :
    ∀ p, TablesLaw p (t.port p) := by
  induction moves with
  | refl => exact h
  | tail _ last ih => exact last.tablesLaw ih

end Sys2Proof.Machine
end

section
/-! SUPPORT. What a command does, as a chain of acts: each act is one rule's effect with the conditions that its checks leave.
A law that speaks of several tables is proved once per act. -/

namespace Sys2Proof.Machine

open Sys2Proof

/-! ## The acts -/

/-- What the other tables rest on in a port's record is as it was. -/
structure Beside (r r' : PortRec) : Prop where
  state : r'.state = r.state
  bound : r'.bound = r.bound
  binding : r'.binding = r.binding
  slots : r'.slots = r.slots
  arriving : r'.arriving = r.arriving
  transit : ∀ i, ((r'.slot i).entry.map fun e => (e.ctx, e.frame)) = (r.slot i).entry.map fun e => (e.ctx, e.frame)

/-- The request of kind `k` that stands WAITING under tag `t` of port `p` (R175). -/
structure Waits (s : State) (p : Port) (t : Tag) (k : RequestKind) : Prop where
  up : (s.port p).state = .up
  held : ∃ q, slotOf (s.port p) t = some q ∧ q.kind = k ∧ q.standing = .waiting

/-- The acting context of a request: the port's own, and LIVE (R24). -/
structure Acting (s : State) (p : Port) (c : Ctx) : Prop where
  owner : (s.ctx c).owner = some p
  live : (s.ctx c).state = .live

/-- One act of a command. No notice is kept for the event's end by it. -/
inductive Act (s : State) : State → Prop where
  /-- Streams, lanes, notices, issue queues, ages and the lines' levels. -/
  | ports (ps : Vector PortRec 4) (each : ∀ p, PortMove p (s.port p) (ps.get p)) (kept : ∀ p, Beside (s.port p) (ps.get p)) :
      Act s { s with ports := ps }
  /-- Tables that no law speaks of, and the load engine within its read. -/
  | aside (us ms : Nat) (pointer : MemoryRequester) (readGen : Byte) (requests : List MemoryRequest) (choices : Nat)
      (load : LoadState) (idle : load = .idle ↔ s.load = .idle) (ready : load = .ready → s.load = .ready) :
      Act s { s with
        usTicks := us, msTicks := ms, pointer := pointer, readGen := readGen
        memoryRequests := s.memoryRequests ++ requests, choices := choices, load := load }
  /-- The scrub engine stays on its frame. -/
  | engine (x : ScrubState) (gen : Byte) (kept : ScrubMove s.scrub x) : Act s { s with scrub := x, writeGen := gen }
  /-- A scrub fails (R113). -/
  | failed {f : Frame} {k age : Nat} (current : s.scrub = .outstanding f k age) : Act s (scrubFail s f)
  /-- An error mark is set (R8). -/
  | marked (f : Frame) : Act s (setErrorMark s f)
  /-- A request is admitted (R172). -/
  | admitted {p : Port} {q : ControlSlot} (up : (s.port p).state = .up)
      (room : (s.port p).slots.length < Config.controlSlots) (tag : slotOf (s.port p) q.tag = none)
      (waiting : q.standing = .waiting) : Act s (modPort s p fun r => { r with slots := r.slots ++ [q] })
  /-- A WAITING request is answered (R176). -/
  | answered {p : Port} {t : Tag} {k : RequestKind} (waits : Waits s p t k) (v : Verdict) (results : List Byte) :
      Act s (respond s p t v results)
  /-- A port in phase ENDED is UP again (R154). -/
  | woke {p : Port} (ended : (s.port p).state = .teardown .ended) :
      Act s (modPort s p fun r => { r with prst := false, state := .up })
  /-- A BIND takes effect at once (R159). -/
  | bound {p : Port} {c : Ctx} (up : (s.port p).state = .up) (settled : (s.port p).binding = .settled) (acting : Acting s p c) :
      Act s (modPort s p fun r => { r with bound := c })
  /-- A BIND waits for the plain entries (R159). -/
  | switching {p : Port} {t : Tag} {c : Ctx} (waits : Waits s p t .bind) (settled : (s.port p).binding = .settled)
      (acting : Acting s p c) : Act s (modPort (activate s p t) p fun r => { r with binding := .switching c t })
  /-- A switch completes (R161). -/
  | switched {p : Port} {c : Ctx} {t : Tag} (binding : (s.port p).binding = .switching c t) : Act s (completeSwitch s p)
  /-- An access is accepted into a FREE slot (R123). -/
  | allocated {p : Port} {i : Slot} {e : TransitEntry} {g : Page} {m : MapEntry} (up : (s.port p).state = .up)
      (free : ((s.port p).slot i).entry = none) (waiting : e.phase = .waiting) (tag : tagOutstanding (s.port p) e.tag = false)
      (translating : e.ctx = homeOf p ∨ e.ctx = (s.port p).bound) (mapped : s.entry e.ctx g = some m)
      (frame : e.frame = m.frame) : Act s (allocate s p i e)
  /-- An access ends (R133, R96). -/
  | freed {p : Port} {i : Slot} {e : TransitEntry} {age : Nat} (held : ((s.port p).slot i).entry = some e)
      (phase : e.phase = .issued age) : Act s (leaveDrains (dropEntry s p i e) p i)
  /-- Frames are claimed (R13). -/
  | claimed {c : Ctx} {n : Nat} (live : (s.ctx c).state = .live) (room : n ≤ headroom (s.ctx c))
      (enough : n ≤ s.freeList.length) : Act s (claimFrames s c n)
  /-- A context is created (R29). -/
  | created {c : Ctx} {p : Port} (classes : Classes) (pool : pooled c = true) (free : (s.ctx c).state = .free) :
      Act s (s.setCtx c (createdCtx p classes))
  /-- A DESTROY is accepted (R34). -/
  | destroyed {p : Port} {t : Tag} {c : Ctx} (waits : Waits s p t .destroy) (pool : pooled c = true) (acting : Acting s p c)
      (unused : inUse (s.port p) c = false) : Act s (startPooledTeardown (activate s p t) c (.destroy p t))
  /-- Quota passes (R30). -/
  | ceded {a b : Ctx} {n : Nat} (other : b ≠ a) (source : (s.ctx a).state = .live) (target : (s.ctx b).state = .live)
      (room : n ≤ headroom (s.ctx a)) : Act s (moveQuota s a b n)
  /-- An entry is made or replaced (R51, R144). -/
  | entrySet {c : Ctx} {g : Page} {e : MapEntry} (rests : holdingFault s c e.frame e.rights = none)
      (live : (s.ctx c).state = .live)
      (by' : (∃ p, (s.ctx c).owner = some p ∧ (s.port p).state = .up) ∨ loadTargets s c = true) : Act s (makeEntry s c g e)
  /-- An entry is made invalid (R52, R144). -/
  | entryCleared (c : Ctx) (g : Page) : Act s (clearEntry s c g)
  /-- A load joins the queue (R140). -/
  | joined {p : Port} {t : Tag} {r : LoadRec} (waits : Waits s p t .mapLoad) (named : r.port = p ∧ r.tag = t)
      (acting : Acting s p r.target) (fresh : r.next = 0 ∧ r.stop = none) (count : 1 ≤ r.count ∧ r.count ≤ 128)
      (room : s.loadQueue.length < Config.loadQueueSize) : Act s (acceptLoad s p t r)
  /-- The running load ends (R146). -/
  | loadEnded (e : LoadEnd) : Act s (endLoad s e)
  /-- The running load goes on to its next descriptor (R144). -/
  | goesOn {r : LoadRec} {rest : List LoadRec} (queue : s.loadQueue = r :: rest) (more : r.next + 1 ≠ r.count) :
      Act s (runLoads { s with loadQueue := { r with next := r.next + 1 } :: rest })
  /-- The engine of an empty queue is IDLE (R141). -/
  | idled (empty : s.loadQueue = []) : Act s { s with load := .idle }
  /-- Queued loads end (R147, R149, R150). -/
  | unqueued (which : LoadRec → Bool) (e : LoadEnd) : Act s (removeQueued s which e)
  /-- The running load is asked to stop (R148). -/
  | stopPlaced (q : StopRequest) : Act s (placeStop s q)
  /-- An offer is made (R71). -/
  | offered {p : Port} {x : OfferOperands} {i : OfferId} (acting : Acting s p x.offerer) (up : (s.port p).state = .up)
      (origin : originOf (s.frame x.frame).holders = some x.offerer)
      (other : holds (s.frame x.frame).holders x.target = false) (single : offerPending s x.frame x.target = false)
      (places : (s.frame x.frame).holders.length + (s.frame x.frame).pendingOffers < Config.holdersMax)
      (empty : s.offer i = none) :
      Act s (modFrame { s.setOffer i (some ⟨s.nextSerial, x.frame, x.offerer, x.target, x.rights, x.lifetime⟩) with
        nextSerial := s.nextSerial + 1 } x.frame fun r => { r with pendingOffers := r.pendingOffers + 1 })
  /-- An offer is removed (R69, R74, R75). -/
  | offerRemoved (i : OfferId) : Act s (removeOffer s i)
  /-- An offer is accepted (R73). -/
  | accepted {i : OfferId} {o : OfferRec} (there : s.offer i = some o) (live : (s.ctx o.target).state = .live) :
      Act s (appendHolder (endOffer s i .accepted o.offerer) o.frame o.target o.rights)
  /-- The lifetimes fall (R68). -/
  | lowered : Act s (lowerLifetimes s)

/-- A chain of acts. -/
abbrev Acts : State → State → Prop := Relation.ReflTransGen Act

/-- What happens within an event that may go on; its notices are placed at its end. -/
inductive Start (s : State) : State → Prop where
  | act {t : State} (act : Act s t) : Start s t
  | due {t : State} (due : DueStep s t) : Start s t
  /-- A RELEASE is accepted (R16). -/
  | released {p : Port} {t : Tag} {c : Ctx} {f : Frame} (waits : Waits s p t .release) (acting : Acting s p c)
      (held : (s.frame f).state = .held) (origin : originOf (s.frame f).holders = some c) (sole : (s.frame f).holders.tail = []) :
      Start s (startWithdrawal (cancelOffersOn (giveUp (activate s p t) f c) f) c (some f) (.release p t))
  /-- A LEAVE or a REVOKE is accepted (R79, R81). -/
  | withdraws {p : Port} {t : Tag} {k : RequestKind} {who : Requester} {f : Frame} {h : Holder} (waits : Waits s p t k)
      (slot : who.slot = some (p, t, k)) (requester : ofCoHolder who = true) (held : (s.frame f).state = .held)
      (coHolder : h ∈ (s.frame f).holders.tail) (free : h.withdrawing = false) :
      Start s (withdrawHolder (activate s p t) h.ctx f who)
  /-- Step 2 of a pooled context's teardown (R38). -/
  | offersCancelled {c : Ctx} {st : Starter} (teardown : s.teardown c = some ⟨st, .offers⟩) :
      Start s (cancelThenEndLoads s c st)
  /-- A port teardown starts (R164, R165). -/
  | cut {p : Port} (up : (s.port p).state = .up) : Start s (startPortTeardown s p)

/-- A chain of what happens within one event. -/
abbrev Starts : State → State → Prop := Relation.ReflTransGen Start

/-- A part of a command: an act, or an event that goes on to its end. -/
inductive Turn (s : State) : State → Prop where
  | act {t : State} (act : Act s t) : Turn s t
  | event {u : State} (starts : Starts s u) : Turn s (settle u)

/-- A chain of parts. -/
abbrev Turns : State → State → Prop := Relation.ReflTransGen Turn

/-! ## Chains of acts -/

namespace Acts

theorem refl {s : State} : Acts s s := Relation.ReflTransGen.refl

theorem one {s t : State} (act : Act s t) : Acts s t := .single act

theorem starts {s t : State} (acts : Acts s t) : Starts s t := by
  induction acts with
  | refl => exact .refl
  | tail _ last ih => exact ih.tail (.act last)

theorem turns {s t : State} (acts : Acts s t) : Turns s t := by
  induction acts with
  | refl => exact .refl
  | tail _ last ih => exact ih.tail (.act last)

/-- Acts, and the rest of the event. -/
theorem settled {s t : State} (acts : Acts s t) : Turns s (settle t) := .single (.event acts.starts)

end Acts

theorem Beside.refl (r : PortRec) : Beside r r := ⟨rfl, rfl, rfl, rfl, rfl, fun _ => rfl⟩

namespace Acts

variable {s : State}

/-- One port's record changes beside what the other tables rest on. -/
theorem port {p : Port} {r : PortRec} (move : PortMove p (s.port p) r) (kept : Beside (s.port p) r) :
    Acts s (s.setPort p r) := by
  refine one (.ports _ (fun q => ?_) fun q => ?_)
  · rw [vector_get_set]
    split_ifs with hq
    · exact hq ▸ move
    · exact .stay
  · rw [vector_get_set]
    split_ifs with hq
    · exact hq ▸ kept
    · exact .refl _

theorem requests (rs : List MemoryRequest) : Acts s { s with memoryRequests := s.memoryRequests ++ rs } :=
  one (.aside _ _ _ _ rs _ _ Iff.rfl id)

theorem withPointer (x : MemoryRequester) : Acts s { s with pointer := x } := by
  have act := Act.aside (s := s) s.usTicks s.msTicks x s.readGen [] s.choices s.load Iff.rfl id
  rw [List.append_nil] at act
  exact one act

theorem withChoices (n : Nat) : Acts s { s with choices := n } := by
  have act := Act.aside (s := s) s.usTicks s.msTicks s.pointer s.readGen [] n s.load Iff.rfl id
  rw [List.append_nil] at act
  exact one act

theorem withTicks (us ms : Nat) : Acts s { s with usTicks := us, msTicks := ms } := by
  have act := Act.aside (s := s) us ms s.pointer s.readGen [] s.choices s.load Iff.rfl id
  rw [List.append_nil] at act
  exact one act

theorem withLoad (x : LoadState) (idle : x = .idle ↔ s.load = .idle) (ready : x = .ready → s.load = .ready) :
    Acts s { s with load := x } := by
  have act := Act.aside (s := s) s.usTicks s.msTicks s.pointer s.readGen [] s.choices x idle ready
  rw [List.append_nil] at act
  exact one act

/-! ### Streams and notices -/

theorem sendAccess (p : Port) (x : AccessResponse) : Acts s (sendAccess s p x) := by
  have move := PortMove.sent (p := p) (r := s.port p) [x] []
  rw [List.append_nil] at move
  exact port move ⟨rfl, rfl, rfl, rfl, rfl, fun _ => rfl⟩

theorem sendControl (p : Port) (bytes : List Byte) : Acts s (sendControl s p bytes) := by
  have move := PortMove.sent (p := p) (r := s.port p) [] [bytes]
  rw [List.append_nil] at move
  exact port move ⟨rfl, rfl, rfl, rfl, rfl, fun _ => rfl⟩

theorem answerAccess (p : Port) (x : AccessResponse) : Acts s (answerAccess s p x) := by
  rw [answerAccess_eq]
  split_ifs
  · exact sendAccess p x
  · exact port .stay ⟨rfl, rfl, rfl, rfl, rfl, fun _ => rfl⟩

theorem address (p : Port) (n : Notice) : Acts s (address s p n) := by
  refine port (.noticed n) ?_
  show Beside _ ((s.port p).noticed n)
  rw [noticed_eq]
  exact ⟨rfl, rfl, rfl, rfl, rfl, fun _ => rfl⟩

theorem addressOwner (c : Ctx) (n : Notice) : Acts s (addressOwner s c n) := by
  unfold Machine.addressOwner
  split
  · exact address _ _
  · exact .refl

/-! ### Accesses -/

theorem translate {p : Port} (up : (s.port p).state = .up) (a : AccessRequest) : Acts s (translate s p a) := by
  unfold Machine.translate
  cases passed : translation s p a with
  | error cause => exact (sendAccess p _).trans (address p _)
  | ok m =>
    dsimp only
    cases free : freeSlot (s.port p) with
    | none => exact .refl
    | some i =>
      have mapped : s.entry (translatingCtx s p a.mode) (pageOf a.addr) = some m := by
        unfold translation at passed
        split_ifs at passed
        split at passed
        · cases passed
        · rename_i e there
          split_ifs at passed
          cases passed
          exact there
      refine one (.allocated (g := pageOf a.addr) (m := m) up (Moves.entry_of_freeSlot free) rfl
        (Moves.tag_of_translation passed) ?_ mapped rfl)
      show translatingCtx s p a.mode = _ ∨ translatingCtx s p a.mode = _
      unfold translatingCtx
      cases a.mode with
      | plain => exact .inr rfl
      | elevated => exact .inl rfl

theorem acceptOne (p : Port) : Acts s (acceptOne s p) := by
  rcases acceptOne_cases s p with same | ⟨plain, elevated, last, a, up, taken⟩
  · rw [same]
  · rw [taken]
    have first : Acts s (modPort s p fun x => { x with plainLane := plain, elevatedLane := elevated, lastLane := last }) :=
      port (.lanes plain elevated last up) ⟨rfl, rfl, rfl, rfl, rfl, fun _ => rfl⟩
    refine first.trans (translate ?_ a)
    rw [port_modPort, if_pos rfl]
    exact up

theorem pushLane {p : Port} (up : (s.port p).state = .up) (a : AccessRequest) : Acts s (pushLane s p a) := by
  unfold Machine.pushLane
  cases hmode : a.mode with
  | plain => exact port (.lanes _ _ _ up) ⟨rfl, rfl, rfl, rfl, rfl, fun _ => rfl⟩
  | elevated => exact port (.lanes _ _ _ up) ⟨rfl, rfl, rfl, rfl, rfl, fun _ => rfl⟩

theorem completeSwitch (p : Port) : Acts s (completeSwitch s p) := by
  cases h : (s.port p).binding with
  | settled =>
    have same : Machine.completeSwitch s p = s := by
      unfold Machine.completeSwitch
      rw [h]
    rw [same]
  | switching c t => exact one (.switched h)

theorem switchAfter (p : Port) (e : TransitEntry) : Acts s (switchAfter s p e) := by
  unfold Machine.switchAfter
  split_ifs
  · exact completeSwitch p
  · exact .refl

end Acts

namespace Turns

variable {s : State}

theorem freeEntry {p : Port} {i : Slot} {e : TransitEntry} {age : Nat} (held : ((s.port p).slot i).entry = some e)
    (phase : e.phase = .issued age) : Turns s (freeEntry s p i e) := by
  unfold Machine.freeEntry
  exact Acts.settled (((Acts.one (.freed held phase)).trans (Acts.switchAfter p e)).trans (Acts.acceptOne p))

theorem completeEntry {p : Port} {i : Slot} {e : TransitEntry} {age : Nat} (held : ((s.port p).slot i).entry = some e)
    (phase : e.phase = .issued age) (d : List Byte) : Turns s (completeEntry s p i e d) := by
  refine (Acts.answerAccess p _).turns.trans (freeEntry (age := age) ?_ phase)
  rwa [PortRec.slot, Moves.transit_answerAccess]

theorem failEntry {p : Port} {i : Slot} {e : TransitEntry} {age : Nat} (held : ((s.port p).slot i).entry = some e)
    (phase : e.phase = .issued age) (kind : MemoryFaultKind) : Turns s (failEntry s p i e kind) := by
  unfold Machine.failEntry
  refine Relation.ReflTransGen.trans
    (Acts.turns (((Acts.answerAccess p _).trans (Acts.one (.marked e.frame))).trans (Acts.address p _)))
    (freeEntry (age := age) ?_ phase)
  rw [PortRec.slot, Moves.transit_address]
  refine Eq.trans (congrArg (fun v : Vector TransitSlot 16 => (v.get i).entry) ?_) held
  exact Moves.transit_answerAccess s p p _

end Turns

/-! ## The memory port and the engines -/

namespace Acts

variable {s : State}

theorem issueHead (p : Port) : Acts s (issueHead s p) := by
  unfold Machine.issueHead
  cases head : (s.port p).issueQueue with
  | nil => exact .refl
  | cons i rest =>
    dsimp only
    cases held : ((s.port p).slot i).entry with
    | none => exact port (.skipped i rest head held) ⟨rfl, rfl, rfl, rfl, rfl, fun _ => rfl⟩
    | some e =>
      dsimp only
      refine Relation.ReflTransGen.trans (b := modPort (modPort s p fun x => { x with issueQueue := rest }) p _)
        ?_ (requests _)
      rw [modPort_modPort]
      refine port (.issued i rest e head held) ⟨rfl, rfl, rfl, rfl, rfl, fun j => ?_⟩
      have entries := congrFun (entry_setSlot (s.port p) i
        ⟨((s.port p).slot i).gen, some { e with phase := .issued 0, data := [] }⟩) j
      refine (congrArg (Option.map fun e => (e.ctx, e.frame)) entries).trans ?_
      dsimp only
      split_ifs with hj
      · rw [hj, held]
        rfl
      · rfl

theorem issueScrub : Acts s (issueScrub s) := by
  unfold Machine.issueScrub
  cases h : s.scrub with
  | ready f k =>
    exact (one (.engine (.outstanding f k 0) (s.writeGen + 1) (by rw [h]; exact .issued f k))).trans (requests _)
  | idle => exact .refl
  | outstanding f k age => exact .refl

end Acts

/-- The load engine requests in READY only (R125). -/
theorem ready_of_granted {s : State} (h : granted s = some .load) : s.load = .ready := by
  have asks := List.find?_some h
  exact beq_iff_eq.1 asks

namespace Turns

variable {s : State}

theorem issueLoad (ready : s.load = .ready) : Turns s (issueLoad s) := by
  unfold Machine.issueLoad
  split
  · exact .refl
  · rename_i r rest queue
    split_ifs
    · exact (Acts.one (.aside s.usTicks s.msTicks s.pointer (s.readGen + 1)
        [⟨5, 0, s.readGen + 1, .read, physical r.source (r.offset + 8 * r.next), 8, []⟩] s.choices (.outstanding 0)
        (by rw [ready]; exact iff_of_false nofun nofun) nofun)).turns
    · exact (Acts.one (.loadEnded _)).settled

theorem grant {r : MemoryRequester} (granted : granted s = some r) : Turns s (grant s r) := by
  have first : Turns s { s with pointer := ringAfter r } := (Acts.withPointer _).turns
  unfold Machine.grant
  cases r with
  | port p => exact first.trans (Acts.issueHead p).turns
  | scrub => exact first.trans Acts.issueScrub.turns
  | load =>
    have ready := ready_of_granted granted
    exact first.trans (issueLoad ready)

end Turns

namespace Acts

variable {s : State}

/-- A descriptor's entry, where its tests have passed (R143, R144). -/
theorem applyAction {r : LoadRec} {rest : List LoadRec} (queue : s.loadQueue = r :: rest) {d : List Byte}
    {a : DescriptorAction} (passed : judge s r d = .ok a) : Acts s (applyAction s r.target a) := by
  cases a with
  | clear g => exact one (.entryCleared r.target g)
  | set g e =>
    have targets : loadTargets s r.target = true := by
      unfold loadTargets
      rw [queue, List.any_cons, beq_self_eq_true, Bool.true_or]
    unfold judge at passed
    split_ifs at passed with source stamp live
    · split at passed
      · cases passed
      · rename_i act asked
        cases act with
        | clear g' => cases passed
        | set g' e' =>
          dsimp only at passed
          split at passed
          · rename_i rests
            cases passed
            exact one (.entrySet rests ((live_iff _ _).1 live) (.inr targets))
          · cases passed
          · cases passed
    · split at passed
      · cases passed
      · cases passed

/-- The entries do not depend on the load queue. -/
theorem applyAction_withQueue (queue : List LoadRec) (c : Ctx) (a : DescriptorAction) :
    Machine.applyAction { s with loadQueue := queue } c a = { Machine.applyAction s c a with loadQueue := queue } ∧
      (Machine.applyAction s c a).loadQueue = s.loadQueue := by
  cases a with
  | set g e =>
    have there' : State.entry { s with loadQueue := queue } c g = s.entry c g := rfl
    show makeEntry _ c g e = { makeEntry s c g e with loadQueue := queue } ∧ (makeEntry s c g e).loadQueue = _
    unfold makeEntry
    rw [there']
    cases s.entry c g with
    | none => exact ⟨rfl, rfl⟩
    | some old =>
      dsimp only
      split_ifs
      · exact ⟨rfl, rfl⟩
      · exact ⟨rfl, rfl⟩
  | clear g =>
    have there' : State.entry { s with loadQueue := queue } c g = s.entry c g := rfl
    show clearEntry _ c g = { clearEntry s c g with loadQueue := queue } ∧ (clearEntry s c g).loadQueue = _
    unfold clearEntry
    rw [there']
    cases s.entry c g with
    | none => exact ⟨rfl, rfl⟩
    | some old => exact ⟨rfl, rfl⟩

theorem finishRead (d : List Byte) : Acts s (finishRead s d) := by
  unfold Machine.finishRead
  cases queue : s.loadQueue with
  | nil => exact .refl
  | cons r rest =>
    dsimp only
    cases judged : judge s r d with
    | error reason => exact one (.loadEnded _)
    | ok a =>
      dsimp only
      obtain ⟨written, same⟩ := applyAction_withQueue (s := s) ({ r with next := r.next + 1 } :: rest) r.target a
      have first := applyAction queue judged
      rw [written]
      generalize Machine.applyAction s r.target a = u at first same
      rw [queue] at same
      split_ifs with last
      · have ends : endLoad { u with loadQueue := { r with next := r.next + 1 } :: rest } (.done, loadDoneResults (r.next + 1)) =
            endLoad u (.done, loadDoneResults (r.next + 1)) := by
          unfold endLoad endRunning
          rw [same]
        rw [ends]
        exact first.trans (one (.loadEnded _))
      · exact first.trans (one (.goesOn same last))

theorem failRead : Acts s (failRead s) := by
  unfold Machine.failRead
  split
  · rename_i empty
    exact one (.idled empty)
  · exact (one (.marked _)).trans (one (.loadEnded _))

theorem cancelLoad (p : Port) (t : Tag) : Acts s (cancelLoad s p t) := by
  unfold Machine.cancelLoad
  split
  · exact .refl
  · split_ifs
    · exact one (.stopPlaced _)
    · exact one (.unqueued _ _)

theorem endOffer (i : OfferId) (reason : OfferEnd) (c : Ctx) : Acts s (endOffer s i reason c) := by
  unfold Machine.endOffer
  split
  · exact .refl
  · exact (one (.offerRemoved i)).trans (addressOwner _ _)

theorem expireOffer (i : OfferId) : Acts s (expireOffer s i) := by
  unfold Machine.expireOffer
  split
  · exact .refl
  · dsimp only
    split_ifs
    · exact endOffer i _ _
    · exact (endOffer i _ _).trans (addressOwner _ _)

theorem expireDue : Acts s (expireDue s) := by
  unfold Machine.expireDue
  exact foldl_keeps (P := Acts s) (fun v i before => by
    split_ifs
    · exact before.trans (expireOffer i)
    · exact before) _ .refl

theorem raiseAges : Acts s (raiseAges s) := by
  have aged : ScrubMove s.scrub (match s.scrub with | .outstanding f k age => .outstanding f k (age + 1) | x => x) := by
    cases s.scrub with
    | idle => exact .stay _
    | ready f k => exact .stay _
    | outstanding f k age => exact .aged f k age
  have ports : Acts s { s with ports := mapVec (fun r => { r with transit := mapVec olderSlot r.transit }) s.ports } := by
    refine one (.ports _ (fun p => by rw [mapVec_get]; exact .aged) fun p => ?_)
    rw [mapVec_get]
    refine ⟨rfl, rfl, rfl, rfl, rfl, fun i => ?_⟩
    refine (congrArg (Option.map fun e => (e.ctx, e.frame)) (entry_olderSlot (s.ports.get p) i)).trans ?_
    show ((((s.port p).slot i).entry.map _).map _) = _
    rw [Option.map_map]
    refine congrArg (fun g => Option.map g ((s.port p).slot i).entry) (funext fun e => ?_)
    simp only [Function.comp]
    split <;> rfl
  refine (ports.trans (one (.engine _ s.writeGen aged))).trans (withLoad _ ?_ ?_)
  · show _ ↔ s.load = .idle
    cases s.load <;> simp
  · show _ → s.load = .ready
    cases s.load <;> simp

end Acts

namespace Turns

variable {s : State}

theorem takeLate (x : Late) : Turns s (takeLate s x) := by
  unfold Machine.takeLate
  cases x with
  | access p i =>
    dsimp only
    split
    · exact .refl
    · rename_i e late
      obtain ⟨held, age, phase, -⟩ := Moves.of_timedOut late
      exact failEntry held phase _
  | scrub =>
    dsimp only
    split
    · exact .refl
    · rename_i f late
      obtain ⟨k, age, h, -⟩ := Moves.of_scrubTimedOut late
      exact (Acts.one (.failed h)).turns
  | load =>
    dsimp only
    split_ifs
    · exact Acts.failRead.settled
    · exact .refl

theorem takeLateFor (n : Nat) : Turns s (takeLateFor n s) := by
  induction n generalizing s with
  | zero => exact .refl
  | succ n ih =>
    unfold Machine.takeLateFor
    split
    · exact .refl
    · rename_i s1 x chosen
      have first : Turns s s1 := by
        rw [(choose_spec chosen).2]
        exact (Acts.withChoices _).turns
      exact (first.trans (takeLate x)).trans ih

end Turns

end Sys2Proof.Machine
end

section
/-! SUPPORT. The inversion of `exec` by acts: the edges of RST_N and a scrub's success apart, every command is a chain of acts and
of events that go on. -/

namespace Sys2Proof.Machine

open Sys2Proof

/-! ## What passes the checks of a request -/

theorem of_bindCheck {s : State} {p : Port} {ops : List Byte} {c : Ctx} (h : bindCheck s p ops = .ok c) :
    Acting s p c ∧ (s.port p).binding = .settled := by
  unfold bindCheck at h
  split at h
  · cases h
  · obtain ⟨⟨owner, live⟩, h⟩ := acting_of_ok h
    split_ifs at h with settled
    · cases h
      exact ⟨⟨owner, live⟩, settled⟩
    · cases h

theorem of_mapSetCheck {s : State} {p : Port} {ops : List Byte} {x : Ctx × Page × MapEntry}
    (h : mapSetCheck s p ops = .ok x) : Acting s p x.1 ∧ holdingFault s x.1 x.2.2.frame x.2.2.rights = none := by
  unfold mapSetCheck at h
  split at h
  · obtain ⟨⟨owner, live⟩, h⟩ := acting_of_ok h
    split at h
    · cases h
    · rename_i rests
      cases h
      exact ⟨⟨owner, live⟩, rests⟩
  · cases h

theorem of_offerCheck {s : State} {p : Port} {ops : List Byte} {x : OfferOperands × OfferId} (h : offerCheck s p ops = .ok x) :
    Acting s p x.1.offerer ∧ originOf (s.frame x.1.frame).holders = some x.1.offerer ∧
      holds (s.frame x.1.frame).holders x.1.target = false ∧ offerPending s x.1.frame x.1.target = false ∧
      (s.frame x.1.frame).holders.length + (s.frame x.1.frame).pendingOffers < Config.holdersMax ∧
      s.offer x.2 = none := by
  unfold offerCheck at h
  split at h
  · cases h
  · obtain ⟨-, h⟩ := passed_of_ok h
    obtain ⟨⟨owner, live⟩, h⟩ := acting_of_ok h
    obtain ⟨-, h⟩ := passed_of_ok h
    obtain ⟨-, h⟩ := passed_of_ok h
    obtain ⟨origin, h⟩ := passed_of_ok h
    obtain ⟨-, h⟩ := passed_of_ok h
    obtain ⟨other, h⟩ := passed_of_ok h
    obtain ⟨single, h⟩ := passed_of_ok h
    obtain ⟨places, h⟩ := passed_of_ok h
    split at h
    · cases h
    · rename_i i empty
      cases h
      have free := List.find?_some empty
      exact ⟨⟨owner, live⟩, not_not.1 origin, Bool.not_eq_true _ ▸ other, Bool.not_eq_true _ ▸ single, not_le.1 places,
        Option.isNone_iff_eq_none.1 free⟩

theorem of_offerAnswerCheck {s : State} {p : Port} {actor : OfferRec → Ctx} {ops : List Byte} {x : OfferId × OfferRec}
    (h : offerAnswerCheck s p actor ops = .ok x) : s.offer x.1 = some x.2 ∧ Acting s p (actor x.2) := by
  unfold offerAnswerCheck at h
  cases named : namedOffer s ops with
  | error r =>
    rw [named] at h
    cases h
  | ok y =>
    rw [named] at h
    obtain ⟨⟨owner, live⟩, h⟩ := acting_of_ok h
    cases h
    refine ⟨?_, ⟨owner, live⟩⟩
    unfold namedOffer at named
    split at named
    · cases named
    · split at named
      · cases named
      · rename_i i o there
        split_ifs at named
        · cases named
          exact there
        · cases named

/-- A holder that is not the origin is a co-holder. -/
theorem coHolder_of_holderOf {hs : List Holder} {c : Ctx} {h : Holder} (found : holderOf hs c = some h)
    (other : originOf hs ≠ some c) : h ∈ hs.tail ∧ h.ctx = c := by
  have same : h.ctx = c := beq_iff_eq.1 (List.find?_some found :)
  refine ⟨?_, same⟩
  cases hs with
  | nil => cases found
  | cons a rest =>
    rcases List.mem_cons.1 (List.mem_of_find?_eq_some found) with rfl | later
    · exact absurd (congrArg some same) other
    · exact later

theorem of_leaveCheck {s : State} {p : Port} {ops : List Byte} {x : Ctx × Frame} (h : leaveCheck s p ops = .ok x) :
    (s.frame x.2).state = .held ∧ ∃ r ∈ (s.frame x.2).holders.tail, r.ctx = x.1 ∧ r.withdrawing = false := by
  unfold leaveCheck at h
  split at h
  · obtain ⟨-, h⟩ := acting_of_ok h
    obtain ⟨held, h⟩ := passed_of_ok h
    split at h
    · cases h
    · rename_i r found
      obtain ⟨other, h⟩ := passed_of_ok h
      obtain ⟨free, h⟩ := passed_of_ok h
      cases h
      obtain ⟨mem, same⟩ := coHolder_of_holderOf found other
      exact ⟨not_not.1 held, r, mem, same, Bool.not_eq_true _ ▸ free⟩
  · cases h

theorem of_revokeCheck {s : State} {p : Port} {ops : List Byte} {x : Ctx × Frame} (h : revokeCheck s p ops = .ok x) :
    (s.frame x.2).state = .held ∧ ∃ r ∈ (s.frame x.2).holders.tail, r.ctx = x.1 ∧ r.withdrawing = false := by
  unfold revokeCheck at h
  split at h
  · obtain ⟨-, h⟩ := acting_of_ok h
    obtain ⟨held, h⟩ := passed_of_ok h
    obtain ⟨-, h⟩ := passed_of_ok h
    obtain ⟨-, h⟩ := passed_of_ok h
    split at h
    · cases h
    · rename_i r found
      obtain ⟨free, h⟩ := passed_of_ok h
      cases h
      exact ⟨not_not.1 held, r, List.mem_of_find?_eq_some found, beq_iff_eq.1 (List.find?_some found :),
        Bool.not_eq_true _ ▸ free⟩
  · cases h

/-! ## Requests -/

/-- A WAITING request stands at a port that is UP (R165). -/
theorem waits_of_waitingRequest {s : State} {p : Port} {t : Tag} {k : RequestKind} {q : ControlSlot}
    (law : TablesLaw p (s.port p)) (h : waitingRequest s p t k = some q) : Waits s p t k := by
  obtain ⟨found, mem, kind, waiting⟩ := of_waitingRequest h
  refine ⟨?_, q, found, kind, waiting⟩
  by_contra down
  obtain ⟨active, -⟩ := law.slots.notUp down q mem
  rw [waiting] at active
  cases active

/-- The request still waits after a change that keeps its port's state and slots. -/
theorem Waits.congr {s t : State} {p : Port} {tag : Tag} {k : RequestKind} (h : Waits s p tag k)
    (state : (t.port p).state = (s.port p).state) (slots : (t.port p).slots = (s.port p).slots) : Waits t p tag k := by
  obtain ⟨up, q, found, rest⟩ := h
  refine ⟨state.trans up, q, ?_, rest⟩
  unfold slotOf
  rw [slots]
  exact found

namespace Acts

variable {s u : State} {p : Port} {t : Tag} {k : RequestKind}

/-- A request is answered after acts that leave it WAITING. -/
theorem answer (acts : Acts s u) (waits : Waits u p t k) (v : Verdict) (rs : List Byte) :
    Acts s (respond u p t v rs) := acts.tail (.answered waits v rs)

end Acts

/-- A notice keeps the state and the slots of every port. -/
theorem waits_addressOwner {s : State} {p : Port} {t : Tag} {k : RequestKind} (h : Waits s p t k) (c : Ctx) (n : Notice) :
    Waits (addressOwner s c n) p t k := by
  have kept (q : Port) : ((addressOwner s c n).port q).state = (s.port q).state ∧
      ((addressOwner s c n).port q).slots = (s.port q).slots := by
    unfold addressOwner
    split
    · rename_i owner _
      unfold address
      rw [port_modPort]
      split_ifs with hq
      · rw [hq, noticed_eq]
        exact ⟨rfl, rfl⟩
      · exact ⟨rfl, rfl⟩
    · exact ⟨rfl, rfl⟩
  exact h.congr (kept p).1 (kept p).2

theorem waits_endOffer {s : State} {p : Port} {t : Tag} {k : RequestKind} (h : Waits s p t k) (i : OfferId) (r : OfferEnd)
    (c : Ctx) : Waits (endOffer s i r c) p t k := by
  unfold endOffer
  split
  · exact h
  · refine waits_addressOwner (h.congr ?_ ?_) _ _
    · unfold removeOffer
      split <;> rfl
    · unfold removeOffer
      split <;> rfl

theorem ports_makeEntry (s : State) (c : Ctx) (g : Page) (e : MapEntry) : (makeEntry s c g e).ports = s.ports := by
  unfold makeEntry
  dsimp only
  split
  · rfl
  · split_ifs <;> rfl

theorem ports_clearEntry (s : State) (c : Ctx) (g : Page) : (clearEntry s c g).ports = s.ports := by
  unfold clearEntry
  split <;> rfl

theorem Waits.of_ports {s t : State} {p : Port} {tag : Tag} {k : RequestKind} (h : Waits s p tag k)
    (ports : t.ports = s.ports) : Waits t p tag k := by
  refine h.congr ?_ ?_ <;>
  · unfold State.port
    rw [ports]

namespace Turns

variable {s : State}

theorem of_next {t u : State} (turns : Turns s u) (h : (.next u : Host.Outcome State Fault Refusal) = .next t) :
    Turns s t := by
  cases h
  exact turns

theorem ite {u v : State} {P : Prop} [Decidable P] (pos : P → Turns s u) (neg : ¬ P → Turns s v) :
    Turns s (if P then u else v) := by
  split_ifs with h
  · exact pos h
  · exact neg h

/-- A request taken: nothing, where it does not wait. -/
theorem of_takeRequest {t : State} {p : Port} {tag : Tag} {k : RequestKind} {serve : ControlSlot → State}
    (law : TablesLaw p (s.port p)) (served : ∀ q, Waits s p tag k → Turns s (serve q))
    (h : takeRequest s p tag k serve = .next t) : Turns s t := by
  unfold takeRequest at h
  split at h
  · exact of_next .refl h
  · rename_i q hq
    exact of_next (served q (waits_of_waitingRequest law hq)) h

/-- A request served by its checks: refused, or its effect. -/
theorem serveChecked {α : Type} {p : Port} {t : Tag} {k : RequestKind} {check : Except Reply α} {effect : α → State}
    (waits : Waits s p t k) (accepted : ∀ a, check = .ok a → Turns s (effect a)) :
    Turns s (serveChecked s p t check effect) := by
  unfold Machine.serveChecked
  split
  · exact Acts.turns (Acts.one (.answered waits _ _))
  · exact accepted _ rfl

end Turns

/-- Every request is taken by acts and the event that it opens. -/
theorem turns_of_commandOf {k : RequestKind} {p : Port} {tag : Tag} {s t : State} (law : TablesLaw p (s.port p))
    (h : exec (commandOf k p tag) s = .next t) : Turns s t := by
  have acts {u : State} {k : RequestKind} (v : Verdict) (rs : List Byte) (made : Acts s u) (waits : Waits u p tag k) :
      Turns s (respond u p tag v rs) := Acts.turns (made.tail (.answered waits v rs))
  have reads {k : RequestKind} (waits : Waits s p tag k) (v : Verdict) (rs : List Byte) : Turns s (respond s p tag v rs) :=
    acts v rs .refl waits
  have event {u : State} (start : Start s u) : Turns s (settle u) := .single (.event (.single start))
  cases k with
  | claim =>
    refine Turns.of_takeRequest law (fun q waits => Turns.serveChecked waits fun a ok => ?_) h
    obtain ⟨live, room, enough⟩ := of_claimCheck ok
    refine acts _ _ (.one (.claimed live room enough)) (waits.congr ?_ ?_)
    · rw [port_claimFrames]
    · rw [port_claimFrames]
  | release =>
    refine Turns.of_takeRequest law (fun q waits => Turns.serveChecked waits fun a ok => ?_) h
    obtain ⟨owner, live, held, origin, sole⟩ := of_releaseCheck ok
    exact event (.released waits ⟨owner, live⟩ held origin sole)
  | frameInfo => exact Turns.of_takeRequest law (fun q waits => reads waits _ _) h
  | deviceInfo => exact Turns.of_takeRequest law (fun q waits => reads waits _ _) h
  | create =>
    refine Turns.of_takeRequest law (fun q waits => Turns.serveChecked waits fun c ok => ?_) h
    obtain ⟨pool, free⟩ := of_createCheck ok
    exact acts _ _ (.one (.created _ pool free)) (waits.of_ports rfl)
  | destroy =>
    refine Turns.of_takeRequest law (fun q waits => Turns.serveChecked waits fun c ok => ?_) h
    obtain ⟨pool, owner, live, unused⟩ := of_destroyCheck ok
    exact Acts.turns (Acts.one (.destroyed waits pool ⟨owner, live⟩ unused))
  | cede =>
    refine Turns.of_takeRequest law (fun q waits => Turns.serveChecked waits fun x ok => ?_) h
    obtain ⟨other, source, target, room⟩ := of_cedeCheck ok
    have moved : Acts s (moveQuota s x.1 x.2.1 x.2.2) := .one (.ceded other source target room)
    have still : Waits (moveQuota s x.1 x.2.1 x.2.2) p tag .cede := waits.of_ports rfl
    refine acts (k := .cede) _ _ ?_ ?_
    · rw [announceQuota_eq]
      split_ifs
      · exact moved
      · exact moved.trans (Acts.addressOwner _ _)
    · rw [announceQuota_eq]
      split_ifs
      · exact still
      · exact waits_addressOwner still _ _
  | contextInfo => exact Turns.of_takeRequest law (fun q waits => reads waits _ _) h
  | bind =>
    refine Turns.of_takeRequest law (fun q waits => Turns.serveChecked waits fun c ok => ?_) h
    obtain ⟨acting, settled⟩ := of_bindCheck ok
    unfold bindTo
    refine .ite (fun _ => reads waits _ _) fun _ => .ite (fun _ => ?_) fun _ => ?_
    · refine acts _ _ (.one (.bound waits.up settled acting)) (waits.congr ?_ ?_)
      · rw [port_modPort, if_pos rfl]
      · rw [port_modPort, if_pos rfl]
    · exact Acts.turns (Acts.one (.switching waits settled acting))
  | mapSet =>
    refine Turns.of_takeRequest law (fun q waits => Turns.serveChecked waits fun x ok => ?_) h
    obtain ⟨⟨owner, live⟩, rests⟩ := of_mapSetCheck ok
    exact acts _ _ (.one (.entrySet rests live (.inl ⟨p, owner, waits.up⟩))) (waits.of_ports (ports_makeEntry _ _ _ _))
  | mapClear =>
    refine Turns.of_takeRequest law (fun q waits => Turns.serveChecked waits fun x _ => ?_) h
    exact acts _ _ (.one (.entryCleared _ _)) (waits.of_ports (ports_clearEntry _ _ _))
  | probe =>
    exact Turns.of_takeRequest law (fun q waits => Turns.serveChecked waits fun x _ => reads waits _ _) h
  | mapLoad =>
    refine Turns.of_takeRequest law (fun q waits => Turns.serveChecked waits fun r ok => ?_) h
    obtain ⟨c, f, -, -, count, ⟨owner, live⟩, -, room, rfl⟩ := of_mapLoadCheck ok
    exact Acts.turns (Acts.one (.joined waits ⟨rfl, rfl⟩ ⟨owner, live⟩ ⟨rfl, rfl⟩ count room))
  | loadCancel =>
    refine Turns.of_takeRequest law (fun q waits => Turns.serveChecked waits fun u _ => ?_) h
    exact Acts.settled ((Acts.one (.answered waits _ _)).trans (Acts.cancelLoad p u))
  | offer =>
    refine Turns.of_takeRequest law (fun q waits => Turns.serveChecked waits fun x ok => ?_) h
    obtain ⟨acting, origin, other, single, places, empty⟩ := of_offerCheck ok
    have made := Acts.one (.offered (i := x.2) acting waits.up origin other single places empty)
    refine acts _ _ (made.trans (Acts.addressOwner _ _)) (waits_addressOwner (Waits.of_ports (s := s) waits ?_) _ _)
    rfl
  | accept =>
    refine Turns.of_takeRequest law (fun q waits => Turns.serveChecked waits fun x ok => ?_) h
    obtain ⟨there, acting⟩ := of_offerAnswerCheck ok
    exact acts _ _ (.one (.accepted there acting.live)) ((waits_endOffer waits _ _ _).of_ports rfl)
  | decline =>
    refine Turns.of_takeRequest law (fun q waits => Turns.serveChecked waits fun x _ => ?_) h
    exact acts _ _ (Acts.endOffer _ _ _) (waits_endOffer waits _ _ _)
  | retract =>
    refine Turns.of_takeRequest law (fun q waits => Turns.serveChecked waits fun x _ => ?_) h
    exact acts _ _ (Acts.endOffer _ _ _) (waits_endOffer waits _ _ _)
  | leave =>
    refine Turns.of_takeRequest law (fun q waits => Turns.serveChecked waits fun x ok => ?_) h
    obtain ⟨held, r, mem, same, free⟩ := of_leaveCheck ok
    rw [← same]
    exact event (.withdraws waits rfl rfl held mem free)
  | revoke =>
    refine Turns.of_takeRequest law (fun q waits => Turns.serveChecked waits fun x ok => ?_) h
    obtain ⟨held, r, mem, same, free⟩ := of_revokeCheck ok
    rw [← same]
    exact event (.withdraws waits rfl rfl held mem free)
  | fetchNotices =>
    refine Turns.of_takeRequest law (fun q waits => Turns.serveChecked waits fun n _ => ?_) h
    refine acts _ _ (Acts.port (.fetched n) ⟨rfl, rfl, rfl, rfl, rfl, fun _ => rfl⟩) (waits.congr ?_ ?_)
    · rw [port_modPort, if_pos rfl]
    · rw [port_modPort, if_pos rfl]

/-- A scrub completion is an act, or the scrub's success. -/
theorem turns_of_scrubMatching {c : Instr} {s : State} {gen : Byte} {x : Frame × Nat} (h : scrubMatching s gen = some x)
    (command : c = .scrubCompletionOk gen ∨ ∃ i d, c = .staleCompletion 4 i gen .ok d) :
    Turns s (scrubAdvance s x.1 x.2) ∨ ∃ f, ScrubSucceeds c s f ∧ scrubAdvance s x.1 x.2 = scrubbed s f := by
  obtain ⟨rfl, age, hscrub⟩ := Moves.of_scrubMatching h
  by_cases more : x.2 + 1 < Config.scrubWrites
  · rw [scrubAdvance_eq, if_pos more]
    exact .inl (Acts.turns (Acts.one (.engine (.ready x.1 (x.2 + 1)) s.writeGen
      (by rw [hscrub]; exact .advanced x.1 x.2 age more))))
  · refine .inr ⟨x.1, ⟨⟨x.2, age, not_lt.mp more, hscrub⟩, command⟩, ?_⟩
    rw [scrubAdvance_eq, if_neg more]

/-- A completion taken by its identifier (R129). -/
theorem turns_of_completionEffect {s t : State} {who : BitVec 3} {i : Slot} {gen : Byte} {status : Status} {d : List Byte}
    (h : completionEffect s who i gen status d = some t) :
    Turns s t ∨ ∃ f, ScrubSucceeds (.staleCompletion who i gen status d) s f ∧ t = scrubbed s f := by
  unfold completionEffect at h
  split_ifs at h with port scrub load matches'
  · obtain ⟨e, found, rfl⟩ := Option.map_eq_some_iff.1 h
    obtain ⟨held, age, phase⟩ := Moves.of_matching found
    cases status with
    | ok => exact .inl (Turns.completeEntry held phase d)
    | error => exact .inl (Turns.failEntry held phase _)
  · obtain ⟨x, found, rfl⟩ := Option.map_eq_some_iff.1 h
    cases status with
    | ok => exact turns_of_scrubMatching found (.inr ⟨i, d, by rw [scrub]⟩)
    | error =>
      obtain ⟨-, age, hscrub⟩ := Moves.of_scrubMatching found
      exact .inl (Acts.turns (Acts.one (.failed hscrub)))
  · cases status with
    | ok =>
      cases h
      exact .inl (Acts.settled (Acts.finishRead d))
    | error =>
      cases h
      exact .inl (Acts.settled Acts.failRead)

/-- What every command does: an edge of RST_N apart, acts and events that go on, or the success of a scrub. -/
theorem turns_of_exec {c : Instr} {s t : State} (law : ∀ p, TablesLaw p (s.port p)) (h : exec c s = .next t) :
    Turns s t ∨ c = .rstNAssert ∨ (∃ part, c = .rstNRelease part) ∨ ∃ f, ScrubSucceeds c s f ∧ t = scrubbed s f := by
  have event {u : State} (start : Start s u) : Turns s (settle u) := .single (.event (.single start))
  cases c with
  | rstNAssert => exact .inr (.inl rfl)
  | rstNRelease part => exact .inr (.inr (.inl ⟨part, rfl⟩))
  | prstNAssert p =>
    have first : Acts s (modPort s p fun x => { x with prst := true }) :=
      Acts.port (.line true _ (.inl rfl)) ⟨rfl, rfl, rfl, rfl, rfl, fun _ => rfl⟩
    refine .inl (Turns.of_next (.ite (fun _ => .refl) fun _ => .ite (fun up => ?_) fun _ => Acts.turns first) h)
    refine .single (.event ((Acts.starts first).tail (.cut ?_)))
    rw [port_modPort, if_pos rfl]
    exact (portUp_iff s p).1 up
  | prstNDeassert p =>
    refine .inl (Turns.of_next (Acts.turns ?_) h)
    by_cases ended : (s.port p).prst = true ∧ (s.port p).state = .teardown .ended
    · have woken : modPort s p (fun x => { x with
          prst := false, state := if x.prst = true ∧ x.state = .teardown .ended then .up else x.state }) =
          modPort s p fun x => { x with prst := false, state := .up } := by
        refine congrArg (s.setPort p) ?_
        dsimp only
        rw [if_pos ended]
      rw [woken]
      exact Acts.one (.woke ended.2)
    · have lowered : modPort s p (fun x => { x with
          prst := false, state := if x.prst = true ∧ x.state = .teardown .ended then .up else x.state }) =
          modPort s p fun x => { x with prst := false, state := x.state } := by
        refine congrArg (s.setPort p) ?_
        dsimp only
        rw [if_neg ended]
      rw [lowered]
      exact Acts.port (.line false _ (.inl rfl)) ⟨rfl, rfl, rfl, rfl, rfl, fun _ => rfl⟩
  | portTeardownLoadsEnd p =>
    refine .inl (Turns.of_next (.ite (fun due => ?_) fun _ => .refl) h)
    exact event (.due (.of_enterContext due.2 (by rw [due.1]; nofun) (by rw [due.1]; nofun)))
  | portTeardownNextContext p =>
    change execPortTeardownNextContext p s = _ at h
    unfold execPortTeardownNextContext at h
    split at h
    · rename_i c phase
      refine .inl (Turns.of_next (.ite (fun due => ?_) fun _ => .refl) h)
      refine event (.due (.of_enterContext due.2 (by rw [phase]; nofun) ?_))
      rw [phase]
      intro same
      cases same
      exact due.1 rfl
    · exact .inl (Turns.of_next .refl h)
  | portTeardownEnd p =>
    refine .inl (Turns.of_next (.ite (fun due => ?_) fun _ => .refl) h)
    obtain ⟨phase, over'⟩ := due
    unfold portDue at over'
    rw [phase] at over'
    exact event (.due (.ends phase (Option.isNone_iff_eq_none.1 over')))
  | controlRequestArrival p m =>
    refine .inl (Turns.of_next (.ite (fun up => ?_) fun _ => Acts.turns (Acts.sendControl _ _)) h)
    split
    · exact Acts.turns (Acts.sendControl _ _)
    · rename_i k ok
      obtain ⟨room, tag⟩ := of_admission ok
      exact Acts.turns (Acts.one (.admitted ((portUp_iff s p).1 up) room tag rfl))
  | claim p tag => exact .inl (turns_of_commandOf (k := .claim) (law p) h)
  | release p tag => exact .inl (turns_of_commandOf (k := .release) (law p) h)
  | frameInfo p tag => exact .inl (turns_of_commandOf (k := .frameInfo) (law p) h)
  | deviceInfo p tag => exact .inl (turns_of_commandOf (k := .deviceInfo) (law p) h)
  | create p tag => exact .inl (turns_of_commandOf (k := .create) (law p) h)
  | destroy p tag => exact .inl (turns_of_commandOf (k := .destroy) (law p) h)
  | cede p tag => exact .inl (turns_of_commandOf (k := .cede) (law p) h)
  | contextInfo p tag => exact .inl (turns_of_commandOf (k := .contextInfo) (law p) h)
  | bind p tag => exact .inl (turns_of_commandOf (k := .bind) (law p) h)
  | mapSet p tag => exact .inl (turns_of_commandOf (k := .mapSet) (law p) h)
  | mapClear p tag => exact .inl (turns_of_commandOf (k := .mapClear) (law p) h)
  | probe p tag => exact .inl (turns_of_commandOf (k := .probe) (law p) h)
  | mapLoad p tag => exact .inl (turns_of_commandOf (k := .mapLoad) (law p) h)
  | loadCancel p tag => exact .inl (turns_of_commandOf (k := .loadCancel) (law p) h)
  | offer p tag => exact .inl (turns_of_commandOf (k := .offer) (law p) h)
  | accept p tag => exact .inl (turns_of_commandOf (k := .accept) (law p) h)
  | decline p tag => exact .inl (turns_of_commandOf (k := .decline) (law p) h)
  | retract p tag => exact .inl (turns_of_commandOf (k := .retract) (law p) h)
  | leave p tag => exact .inl (turns_of_commandOf (k := .leave) (law p) h)
  | revoke p tag => exact .inl (turns_of_commandOf (k := .revoke) (law p) h)
  | fetchNotices p tag => exact .inl (turns_of_commandOf (k := .fetchNotices) (law p) h)
  | withdrawalEnd c f =>
    change execWithdrawalEnd c f s = _ at h
    unfold execWithdrawalEnd at h
    split at h
    · exact .inl (Turns.of_next .refl h)
    · rename_i w found
      have passes := List.find?_some found
      simp only [Bool.and_eq_true] at passes
      exact .inl (Turns.of_next (event (.due (.of_endWithdrawal (List.mem_of_find?_eq_some found)
        (List.isEmpty_iff.1 passes.2)))) h)
  | teardownOfferCancel c =>
    change execTeardownOfferCancel c s = _ at h
    unfold execTeardownOfferCancel at h
    split at h
    · rename_i there
      exact .inl (Turns.of_next (event (.offersCancelled there)) h)
    · exact .inl (Turns.of_next .refl h)
  | teardownFrameTurn c =>
    exact .inl (Turns.of_next (.ite (fun due => event (.due (.of_takeTurn due))) fun _ => .refl) h)
  | accessArrival p a =>
    refine .inl (Turns.of_next (.ite (fun up => ?_) fun _ => Acts.turns (Acts.sendAccess _ _)) h)
    exact Acts.turns ((Acts.pushLane ((portUp_iff s p).1 up) a).trans (Acts.acceptOne _))
  | accessTranslation p => exact .inl (Turns.of_next (Acts.turns (Acts.acceptOne _)) h)
  | memoryPortGrant =>
    change execMemoryPortGrant s = _ at h
    unfold execMemoryPortGrant at h
    split at h
    · exact .inl (Turns.of_next .refl h)
    · rename_i r found
      exact .inl (Turns.of_next (Turns.grant found) h)
  | transitCompletionOk p i gen d =>
    change execTransitCompletionOk p i gen d s = _ at h
    unfold execTransitCompletionOk at h
    split at h
    · exact .inl (Turns.of_next .refl h)
    · rename_i e found
      obtain ⟨held, age, phase⟩ := Moves.of_matching found
      exact .inl (Turns.of_next (Turns.completeEntry held phase d) h)
  | transitCompletionError p i gen =>
    change execTransitCompletionError p i gen s = _ at h
    unfold execTransitCompletionError at h
    split at h
    · exact .inl (Turns.of_next .refl h)
    · rename_i e found
      obtain ⟨held, age, phase⟩ := Moves.of_matching found
      exact .inl (Turns.of_next (Turns.failEntry held phase _) h)
  | staleCompletion who i gen status d =>
    change execStaleCompletion who i gen status d s = _ at h
    unfold execStaleCompletion at h
    split at h
    · exact .inl (Turns.of_next .refl h)
    · rename_i u effect
      obtain rfl : u = t := by injection h
      exact (turns_of_completionEffect effect).imp_right fun success => .inr (.inr success)
  | transitTimeout p i =>
    change execTransitTimeout p i s = _ at h
    unfold execTransitTimeout at h
    split at h
    · exact .inl (Turns.of_next .refl h)
    · rename_i e late
      obtain ⟨held, age, phase, -⟩ := Moves.of_timedOut late
      exact .inl (Turns.of_next (Turns.failEntry held phase _) h)
  | switchCompletion p =>
    exact .inl (Turns.of_next
      (.ite (fun _ => Acts.turns ((Acts.completeSwitch _).trans (Acts.acceptOne _))) fun _ => .refl) h)
  | scrubCompletionOk gen =>
    change execScrubCompletionOk gen s = _ at h
    unfold execScrubCompletionOk at h
    split at h
    · exact .inl (Turns.of_next .refl h)
    · rename_i x found
      obtain rfl : scrubAdvance s x.1 x.2 = t := by injection h
      exact (turns_of_scrubMatching found (.inl rfl)).imp_right fun success => .inr (.inr success)
  | scrubCompletionError gen =>
    change execScrubCompletionError gen s = _ at h
    unfold execScrubCompletionError at h
    split at h
    · exact .inl (Turns.of_next .refl h)
    · rename_i x found
      obtain ⟨-, age, hscrub⟩ := Moves.of_scrubMatching found
      exact .inl (Turns.of_next (Acts.turns (Acts.one (.failed hscrub))) h)
  | scrubWriteTimeout =>
    change execScrubWriteTimeout s = _ at h
    unfold execScrubWriteTimeout at h
    split at h
    · exact .inl (Turns.of_next .refl h)
    · rename_i f late
      obtain ⟨k, age, hscrub, -⟩ := Moves.of_scrubTimedOut late
      exact .inl (Turns.of_next (Acts.turns (Acts.one (.failed hscrub))) h)
  | loadReadCompletion gen d =>
    exact .inl (Turns.of_next (.ite (fun _ => Acts.settled (Acts.finishRead d)) fun _ => .refl) h)
  | loadReadError gen => exact .inl (Turns.of_next (.ite (fun _ => Acts.settled Acts.failRead) fun _ => .refl) h)
  | loadReadTimeout => exact .inl (Turns.of_next (.ite (fun _ => Acts.settled Acts.failRead) fun _ => .refl) h)
  | microsecondTick =>
    exact .inl (Turns.of_next (.ite (fun _ => .refl) fun _ =>
      (Acts.turns ((Acts.withTicks _ _).trans Acts.raiseAges)).trans (Turns.takeLateFor _)) h)
  | millisecondTick =>
    exact .inl (Turns.of_next (.ite (fun _ => .refl) fun _ =>
      Acts.turns (((Acts.withTicks _ _).trans (Acts.one .lowered)).trans Acts.expireDue)) h)
  | offerExpiry i =>
    exact .inl (Turns.of_next (.ite (fun _ => Acts.turns (Acts.expireOffer _)) fun _ => .refl) h)

end Sys2Proof.Machine
end

section
/-! PROOFS. The acts as changes; the law of each port's tables at every step. -/

namespace Sys2Proof.Machine

open Sys2Proof

/-! ## Each act is a chain of changes -/

theorem Act.moves {s t : State} (act : Act s t) : Moves s t := by
  cases act with
  | ports ps each => exact .single (.ports ps each)
  | aside us ms pointer readGen requests choices load =>
    exact .single (.tables us ms s.teardowns s.maps s.offers s.nextSerial s.withdrawals pointer s.loadQueue load readGen
      requests choices)
  | engine x gen kept => exact Moves.engine kept gen
  | failed current => exact Moves.scrubFail current
  | marked f => exact Moves.setErrorMark s f
  | admitted up room tag => exact Moves.modPort (.admitted _ up room tag)
  | answered waits v results => exact Moves.respond s _ _ v results
  | woke ended => exact Moves.modPort (.line false .up (.inr rfl))
  | bound up settled acting => exact Moves.modPort (.bound _ _ (.inl up))
  | @switching p t c waits settled acting =>
    have swapped : modPort (activate s p t) p (fun r => { r with binding := .switching c t }) =
        activate (s.setPort p { s.port p with binding := .switching c t }) p t :=
      (modPort_modPort s p _ _).trans
        (modPort_modPort s p (fun r => { r with binding := .switching c t }) (PortRec.carriedOn · t)).symm
    rw [swapped]
    exact (Moves.port (.bound _ _ (.inl waits.up))).trans (Moves.activate _ _ _)
  | switched binding => exact Moves.completeSwitch s _
  | allocated up free waiting tag => exact Moves.modPort (.allocated _ _ free waiting tag)
  | freed held phase => exact Relation.ReflTransGen.trans (Moves.modPort (.freed _ _ _ held phase)) (Moves.leaveDrains _ _ _)
  | claimed live room enough => exact Moves.claimFrames room
  | created classes pool free => exact .single (.created _ _ classes free pool)
  | @destroyed p t c waits pool acting =>
    exact (Moves.activate s p t).trans (Moves.startPooledTeardown (s := activate s p t) pool acting.live _)
  | ceded other source target room => exact .single (.ceded _ _ _ other target room source)
  | entrySet => exact Moves.makeEntry s _ _ _
  | entryCleared c g => exact Moves.clearEntry s c g
  | joined => exact Moves.acceptLoad s _ _ _
  | loadEnded e => exact Moves.endLoad s e
  | goesOn => exact Relation.ReflTransGen.trans Moves.tables (Moves.runLoads _)
  | idled => exact Moves.tables
  | unqueued which e => exact Moves.removeQueued s which e
  | stopPlaced q => exact Moves.placeStop s q
  | offered => exact Relation.ReflTransGen.trans Moves.tables (Moves.modFrame ⟨rfl, id⟩)
  | offerRemoved i => exact Moves.removeOffer s i
  | accepted => exact (Moves.endOffer s _ _ _).trans (Moves.appendHolder _ _ _ _)
  | lowered => exact Moves.tables

theorem DueStep.moves {s t : State} (due : DueStep s t) : Moves s t := by
  have removed (w : Withdrawal) : Moves s (removeRecord s w) := Moves.tables
  cases due with
  | released => exact ((removed _).trans (Moves.reclaimExit _ _)).trans (Moves.respond _ _ _ _ _)
  | hasLeft =>
    exact (((removed _).trans (Moves.removeHolder _ _ _)).trans (Moves.notifyOrigin _ _ _)).trans (Moves.respond _ _ _ _ _)
  | revoked =>
    exact (((removed _).trans (Moves.removeHolder _ _ _)).trans (Moves.notifyOwner _ _ _)).trans (Moves.respond _ _ _ _ _)
  | departed => exact ((removed _).trans (Moves.removeHolder _ _ _)).trans (Moves.notifyOwner _ _ _)
  | @drained w =>
    unfold endDrain
    split
    · exact (removed w).trans (Moves.setStep _ _ _)
    · exact removed w
  | dropped => exact removed _
  | drains => exact (Moves.setStep s _ _).trans (Moves.startWithdrawal _ _ _ _)
  | gone => exact Moves.setStep s _ _
  | waits => exact Moves.setStep s _ _
  | leaves => exact ((Moves.removeHolder s _ _).trans (Moves.notifyOrigin _ _ _)).trans (Moves.setStep _ _ _)
  | givesUp teardown past held => exact Moves.gaveUp held _ _
  | inherits teardown past held free origin heir room =>
    exact ((Moves.promote room _ _).trans (Moves.notifyOwner _ _ _)).trans (Moves.setStep _ _ _)
  | departs => exact (Moves.markWithdrawing s _ _).trans (Moves.setStep _ _ _)
  | takesNext => exact Moves.withdrawHolder s _ _ _
  | finishes => exact Moves.finishTeardown s _
  | @enters p c down pool owned live =>
    exact Relation.ReflTransGen.trans (Moves.modPort (.phase (.teardown (.contexts c)) (.inl down)))
      (Moves.startPooledTeardown (s := modPort s p fun x => { x with state := .teardown (.contexts c) }) pool live _)
  | joins down => exact Moves.modPort (.phase _ (.inl down))
  | @entersHome p down =>
    exact Relation.ReflTransGen.trans (Moves.modPort (.phase (.teardown (.contexts (homeOf p))) (.inl down)))
      (Moves.cancelThenEndLoads _ _ _)
  | ends state => exact Moves.endPortTeardown (by rw [state]; nofun)

theorem Start.moves {s t : State} (start : Start s t) : Moves s t := by
  cases start with
  | act act => exact act.moves
  | due due => exact due.moves
  | @released p t c f waits acting held =>
    have givenUp : Moves s (giveUp (activate s p t) f c) :=
      (Moves.activate s p t).trans (Moves.giveUp (s := activate s p t) held c)
    exact (givenUp.trans (Moves.cancelOffersOn _ _)).trans (Moves.startWithdrawal _ _ _ _)
  | withdraws => exact (Moves.activate s _ _).trans (Moves.withdrawHolder _ _ _ _)
  | offersCancelled => exact Moves.cancelThenEndLoads s _ _
  | cut => exact Moves.startPortTeardown s _

theorem Turn.moves {s t : State} (turn : Turn s t) : Moves s t := by
  cases turn with
  | act act => exact act.moves
  | @event u starts =>
    refine Relation.ReflTransGen.trans ?_ (Moves.settle u)
    induction starts with
    | refl => exact .refl
    | tail _ last ih => exact ih.trans last.moves

/-! ## No act keeps a notice for later (entry 18) -/

/-- The notices still to be placed are as they were. -/
def SameArriving (s t : State) : Prop := ∀ p, (t.port p).arriving = (s.port p).arriving

namespace SameArriving

theorem refl (s : State) : SameArriving s s := fun _ => rfl

theorem trans {s t u : State} (h : SameArriving s t) (k : SameArriving t u) : SameArriving s u :=
  fun p => (k p).trans (h p)

theorem of_ports {s t : State} (ports : t.ports = s.ports) : SameArriving s t := fun p => by
  unfold State.port
  rw [ports]

theorem modPort {s : State} {p : Port} {g : PortRec → PortRec} (same : (g (s.port p)).arriving = (s.port p).arriving) :
    SameArriving s (modPort s p g) := fun q => by
  rw [port_modPort]
  split_ifs with hq
  · rw [hq]
    exact same
  · rfl

theorem respond (s : State) (p : Port) (t : Tag) (v : Verdict) (rs : List Byte) : SameArriving s (respond s p t v rs) :=
  modPort (by rw [responded_eq])

theorem activate (s : State) (p : Port) (t : Tag) : SameArriving s (activate s p t) := modPort rfl

theorem foldl {α : Type} {g : State → α → State} (h : ∀ s a, SameArriving s (g s a)) (l : List α) (s : State) :
    SameArriving s (l.foldl g s) :=
  foldl_keeps (P := SameArriving s) (fun u a hu => hu.trans (h u a)) l (.refl s)

theorem endRunning (s : State) (e : LoadEnd) : SameArriving s (endRunning s e) := by
  unfold Machine.endRunning
  split
  · exact .refl s
  · rename_i r rest queue
    exact (of_ports rfl : SameArriving s { s with loadQueue := rest, load := .idle }).trans (respond _ _ _ _ _)

theorem runLoadsFor (n : Nat) (s : State) : SameArriving s (runLoadsFor n s) := by
  induction n generalizing s with
  | zero => exact .refl s
  | succ n ih =>
    unfold Machine.runLoadsFor
    split
    · exact of_ports rfl
    · split
      · exact of_ports rfl
      · exact (endRunning _ _).trans (ih _)

theorem runLoads (s : State) : SameArriving s (runLoads s) := runLoadsFor _ s

theorem addressOwner (s : State) (c : Ctx) (n : Notice) : SameArriving s (addressOwner s c n) := by
  unfold Machine.addressOwner
  split
  · exact modPort (by rw [noticed_eq])
  · exact .refl s

end SameArriving

theorem Act.sameArriving {s t : State} (act : Act s t) : SameArriving s t := by
  cases act with
  | ports ps each kept => exact fun p => (kept p).arriving
  | aside us ms pointer readGen requests choices load => exact .of_ports rfl
  | engine x gen kept => exact .of_ports rfl
  | failed current => exact .of_ports rfl
  | marked f => exact .of_ports rfl
  | admitted up room tag => exact .modPort rfl
  | answered waits v results => exact .respond _ _ _ _ _
  | woke ended => exact .modPort rfl
  | bound up settled acting => exact .modPort rfl
  | @switching p t c waits settled acting =>
    have second : SameArriving (activate s p t) (modPort (activate s p t) p fun r => { r with binding := .switching c t }) :=
      .modPort rfl
    exact (SameArriving.activate s p t).trans second
  | @switched p c t binding =>
    have first : SameArriving s (modPort s p fun x => { x with bound := c, binding := .settled }) := .modPort rfl
    unfold completeSwitch
    rw [binding]
    exact first.trans (.respond _ _ _ _ _)
  | allocated up free waiting tag => exact .modPort rfl
  | @freed p i e age held phase =>
    have dropped : SameArriving s (dropEntry s p i e) := .modPort rfl
    exact dropped
  | claimed live room enough => exact fun p => by rw [port_claimFrames]
  | created classes pool free => exact .of_ports rfl
  | destroyed => exact .activate s _ _
  | ceded => exact .of_ports rfl
  | entrySet => exact .of_ports (ports_makeEntry _ _ _ _)
  | entryCleared c g => exact .of_ports (ports_clearEntry _ _ _)
  | @joined p t r =>
    have first : SameArriving s { activate s p t with loadQueue := s.loadQueue ++ [r] } := SameArriving.activate s p t
    unfold acceptLoad
    dsimp only
    split_ifs
    · exact first.trans (.runLoads _)
    · exact first
  | loadEnded e => exact (SameArriving.endRunning s e).trans (.runLoads _)
  | goesOn => exact SameArriving.trans (.of_ports rfl) (.runLoads _)
  | idled => exact .of_ports rfl
  | unqueued which e =>
    unfold removeQueued
    split
    · exact .refl s
    · exact SameArriving.trans (.of_ports rfl) (.foldl (fun _ _ => .respond _ _ _ _ _) _ _)
  | stopPlaced q =>
    unfold placeStop
    split
    · exact .refl s
    · split_ifs
      · exact .refl s
      · exact SameArriving.trans (.of_ports rfl) (.runLoads _)
      · exact .of_ports rfl
  | offered => exact .of_ports rfl
  | offerRemoved i =>
    refine .of_ports ?_
    unfold removeOffer
    split <;> rfl
  | @accepted i o there =>
    have ended : SameArriving s (endOffer s i .accepted o.offerer) := by
      rw [endOffer_of_some there, removeOffer_of_some there]
      exact SameArriving.trans (.of_ports rfl) (.addressOwner _ _ _)
    exact ended.trans (.of_ports rfl)
  | lowered => exact .of_ports rfl

/-! ## Every step -/

theorem settle_arriving (s : State) (p : Port) : ((settle s).port p).arriving = [] := by
  unfold settle
  rw [port_placeNotices, placed_eq]

theorem Turn.arriving {s t : State} (turn : Turn s t) (h : ∀ p, (s.port p).arriving = []) (p : Port) :
    (t.port p).arriving = [] := by
  cases turn with
  | act act => exact (act.sameArriving p).trans (h p)
  | event starts => exact settle_arriving _ p

theorem Turns.portLaw {s t : State} (turns : Turns s t) (h : ∀ p, PortLaw p (s.port p)) (p : Port) :
    PortLaw p (t.port p) := by
  induction turns generalizing p with
  | refl => exact h p
  | tail _ last ih =>
    have tables := last.moves.tablesLaw fun q => ((portLaw_iff q _).1 (ih q)).1
    exact (portLaw_iff p _).2 ⟨tables p, last.arriving (fun q => (ih q).arriving) p⟩

end Sys2Proof.Machine
end

section
/-! SUPPORT. Long requests and what they carry on (R170): what keeps each load, withdrawal, teardown and switch in a control slot
of its own. -/

namespace Sys2Proof.Machine

open Sys2Proof

/-! ## References to control slots -/

/-- Something under way belongs to the request of kind `k` under tag `t` of port `p`. -/
inductive Refers (s : State) (p : Port) (t : Tag) : RequestKind → Prop where
  | load {r : LoadRec} (queued : r ∈ s.loadQueue) (port : r.port = p) (tag : r.tag = t) : Refers s p t .mapLoad
  | withdrawal {w : Withdrawal} {k : RequestKind} (listed : w ∈ s.withdrawals) (slot : w.requester.slot = some (p, t, k)) :
      Refers s p t k
  | teardown {c : Ctx} {td : Teardown} (there : s.teardown c = some td) (starter : td.starter = .destroy p t) :
      Refers s p t .destroy
  | switch {c : Ctx} (binding : (s.port p).binding = .switching c t) : Refers s p t .bind

/-- The kinds of request that a withdrawal counts against (R91). -/
theorem kind_of_slot {q : Requester} {p : Port} {t : Tag} {k : RequestKind} (h : q.slot = some (p, t, k)) :
    k = .release ∨ k = .leave ∨ k = .revoke := by
  cases q with
  | release => cases h; exact .inl rfl
  | leave => cases h; exact .inr (.inl rfl)
  | revoke => cases h; exact .inr (.inr rfl)
  | departure => cases h
  | teardown => cases h

theorem Carried.carries {s : State} (h : Carried s) {p : Port} {t : Tag} {k : RequestKind} (refers : Refers s p t k) :
    CarriesOn s p t k := by
  cases refers with
  | load queued port tag =>
    subst port tag
    exact h.loads _ queued
  | withdrawal listed slot => exact h.withdrawals _ listed p t k slot
  | teardown there starter => exact h.teardowns _ _ p t there starter
  | switch binding => exact h.binds p _ t binding

/-- A slot has one kind. -/
theorem CarriesOn.kind_unique {s : State} {p : Port} {t : Tag} {k k' : RequestKind} (h : CarriesOn s p t k)
    (h' : CarriesOn s p t k') : k = k' := by
  obtain ⟨q, found, kind, -⟩ := h
  obtain ⟨q', found', kind', -⟩ := h'
  cases found.symm.trans found'
  exact kind.symm.trans kind'

/-- A WAITING request is carried on by nobody. -/
theorem Waits.not_carried {s : State} {p : Port} {t : Tag} {k k' : RequestKind} (h : Waits s p t k) :
    ¬ CarriesOn s p t k' := by
  rintro ⟨q, found, -, active⟩
  obtain ⟨q', found', -, waiting⟩ := h.held
  cases found.symm.trans found'
  rw [waiting] at active
  cases active

/-- What a load's record says of its slot. -/
def LoadRec.slot (r : LoadRec) : Port × Tag := (r.port, r.tag)

/-- What is under way in `t` was under way in `s`, each for the request it was. -/
structure Fewer (s t : State) : Prop where
  loads : (t.loadQueue.map LoadRec.slot).Sublist (s.loadQueue.map LoadRec.slot)
  withdrawals : (t.withdrawals.map Withdrawal.requester).Sublist (s.withdrawals.map Withdrawal.requester)
  teardowns : ∀ c td, t.teardown c = some td → ∀ p tag, td.starter = .destroy p tag →
    ∃ td', s.teardown c = some td' ∧ td'.starter = .destroy p tag
  binds : ∀ p c tag, (t.port p).binding = .switching c tag → (s.port p).binding = .switching c tag

namespace Fewer

variable {s t : State} (h : Fewer s t)

include h

theorem refers {p : Port} {tag : Tag} {k : RequestKind} (there : Refers t p tag k) : Refers s p tag k := by
  cases there with
  | @load r queued port tag =>
    obtain ⟨r', mem, same⟩ := List.mem_map.1 (h.loads.subset (List.mem_map_of_mem queued))
    cases r'
    cases r
    cases same
    exact .load mem port tag
  | @withdrawal w _ listed slot =>
    obtain ⟨w', mem, same⟩ := List.mem_map.1 (h.withdrawals.subset (List.mem_map_of_mem listed))
    exact .withdrawal mem (same ▸ slot)
  | teardown there starter =>
    obtain ⟨td', was, same⟩ := h.teardowns _ _ there p tag starter
    exact .teardown was same
  | switch binding => exact .switch (h.binds p _ tag binding)

end Fewer

theorem filterMap_slot (ws : List Withdrawal) :
    (ws.filterMap fun w => w.requester.slot) = (ws.map Withdrawal.requester).filterMap Requester.slot := by
  rw [List.filterMap_map]
  rfl

/-- Fewer things under way, each still in its slot. -/
theorem Carried.fewer {s t : State} (h : Carried s) (fewer : Fewer s t)
    (kept : ∀ p tag k, Refers t p tag k → CarriesOn s p tag k → CarriesOn t p tag k) : Carried t := by
  have carries {p : Port} {tag : Tag} {k : RequestKind} (refers : Refers t p tag k) : CarriesOn t p tag k :=
    kept p tag k refers (h.carries (fewer.refers refers))
  refine ⟨fun r queued => carries (.load queued rfl rfl), fewer.loads.nodup h.loadTags,
    fun w listed p tag k slot => carries (.withdrawal listed slot), ?_, fun c td p tag there starter =>
      carries (.teardown there starter), fun c d tc td p tag hc hd sc sd => ?_, fun p c tag binding =>
      carries (.switch binding)⟩
  · have tags := h.withdrawalTags
    rw [filterMap_slot] at tags ⊢
    exact (fewer.withdrawals.filterMap _).nodup tags
  · obtain ⟨tc', wasC, sameC⟩ := fewer.teardowns c tc hc p tag sc
    obtain ⟨td', wasD, sameD⟩ := fewer.teardowns d td hd p tag sd
    exact h.teardownTags c d tc' td' p tag wasC wasD sameC sameD

/-- One thing under way has ended, and its slot is free. -/
theorem Carried.ended {s t : State} (h : Carried s) {p : Port} {tag : Tag} {k : RequestKind} (fewer : Fewer s t)
    (was : CarriesOn s p tag k) (gone : ¬ Refers t p tag k)
    (kept : ∀ q u k', ¬ (q = p ∧ u = tag) → CarriesOn s q u k' → CarriesOn t q u k') : Carried t := by
  refine h.fewer fewer fun q u k' refers carries => kept q u k' ?_ carries
  rintro ⟨rfl, rfl⟩
  exact gone (carries.kind_unique was ▸ refers)

/-! ## What leaves them as they are -/

/-- Nothing under way and no control slot is changed. -/
structure SameCarried (s t : State) : Prop where
  queue : t.loadQueue.map LoadRec.slot = s.loadQueue.map LoadRec.slot
  withdrawals : t.withdrawals.map Withdrawal.requester = s.withdrawals.map Withdrawal.requester
  starters : ∀ c, (t.teardown c).map Teardown.starter = (s.teardown c).map Teardown.starter
  slots : ∀ p, (t.port p).slots = (s.port p).slots
  bindings : ∀ p, (t.port p).binding = (s.port p).binding

namespace SameCarried

theorem refl (s : State) : SameCarried s s := ⟨rfl, rfl, fun _ => rfl, fun _ => rfl, fun _ => rfl⟩

theorem trans {s t u : State} (h : SameCarried s t) (k : SameCarried t u) : SameCarried s u :=
  ⟨k.queue.trans h.queue, k.withdrawals.trans h.withdrawals, fun c => (k.starters c).trans (h.starters c),
    fun p => (k.slots p).trans (h.slots p), fun p => (k.bindings p).trans (h.bindings p)⟩

theorem fewer {s t : State} (h : SameCarried s t) : Fewer s t := by
  refine ⟨h.queue ▸ List.Sublist.refl _, h.withdrawals ▸ List.Sublist.refl _, fun c td there p tag starter => ?_,
    fun p c tag binding => (h.bindings p).symm.trans binding⟩
  have same := h.starters c
  rw [there] at same
  obtain ⟨td', was, starter'⟩ := Option.map_eq_some_iff.1 same.symm
  exact ⟨td', was, starter'.trans starter⟩

theorem carriesOn {s t : State} (h : SameCarried s t) {p : Port} {tag : Tag} {k : RequestKind} :
    CarriesOn t p tag k ↔ CarriesOn s p tag k := by
  unfold CarriesOn slotOf
  rw [h.slots]

theorem carried {s t : State} (h : SameCarried s t) (carried : Carried s) : Carried t :=
  carried.fewer h.fewer fun _ _ _ _ => h.carriesOn.2

/-- Neither loads, withdrawals, teardowns nor ports are written. -/
theorem of_eq {s t : State} (queue : t.loadQueue = s.loadQueue) (withdrawals : t.withdrawals = s.withdrawals)
    (teardowns : t.teardowns = s.teardowns) (ports : t.ports = s.ports) : SameCarried s t := by
  refine ⟨by rw [queue], by rw [withdrawals], fun c => ?_, fun p => ?_, fun p => ?_⟩
  · unfold State.teardown
    rw [teardowns]
  · unfold State.port
    rw [ports]
  · unfold State.port
    rw [ports]

theorem modPort {s : State} {p : Port} {g : PortRec → PortRec} (slots : (g (s.port p)).slots = (s.port p).slots)
    (binding : (g (s.port p)).binding = (s.port p).binding) : SameCarried s (modPort s p g) := by
  refine ⟨rfl, rfl, fun _ => rfl, fun q => ?_, fun q => ?_⟩ <;>
  · rw [port_modPort]
    split_ifs with hq
    · rw [hq]
      assumption
    · rfl

theorem foldl {α : Type} {g : State → α → State} (h : ∀ s a, SameCarried s (g s a)) (l : List α) (s : State) :
    SameCarried s (l.foldl g s) :=
  foldl_keeps (P := SameCarried s) (fun u a hu => hu.trans (h u a)) l (.refl s)

theorem notifyOwner (s : State) (c : Ctx) (n : Notice) : SameCarried s (notifyOwner s c n) := by
  unfold Machine.notifyOwner
  split
  · exact modPort (by rw [notified_eq]) (by rw [notified_eq])
  · exact .refl s

theorem notifyOrigin (s : State) (f : Frame) (n : Notice) : SameCarried s (notifyOrigin s f n) := by
  unfold Machine.notifyOrigin
  split
  · exact notifyOwner _ _ _
  · exact .refl s

theorem addressOwner (s : State) (c : Ctx) (n : Notice) : SameCarried s (addressOwner s c n) := by
  unfold Machine.addressOwner
  split
  · exact modPort (by rw [noticed_eq]) (by rw [noticed_eq])
  · exact .refl s

theorem placeNotices (s : State) : SameCarried s (placeNotices s) := by
  refine ⟨rfl, rfl, fun _ => rfl, fun q => ?_, fun q => ?_⟩ <;>
  · rw [port_placeNotices, placed_eq]

theorem reclaimExit (s : State) (f : Frame) : SameCarried s (reclaimExit s f) := by
  rw [reclaimExit_frame]
  exact of_eq rfl rfl rfl rfl

theorem removeOffer (s : State) (i : OfferId) : SameCarried s (removeOffer s i) := by
  unfold Machine.removeOffer
  split
  · exact .refl s
  · exact of_eq rfl rfl rfl rfl

theorem cancelOffer (s : State) (i : OfferId) (c : Ctx) : SameCarried s (cancelOffer s i c) := by
  unfold Machine.cancelOffer
  split
  · exact .refl s
  · exact (removeOffer s i).trans (notifyOwner _ _ _)

theorem cancelOffersOn (s : State) (f : Frame) : SameCarried s (cancelOffersOn s f) :=
  foldl (fun s i => by
    split
    · exact .refl s
    · split_ifs
      · exact cancelOffer _ _ _
      · exact .refl s) _ _

theorem cancelOffersOf (s : State) (c : Ctx) : SameCarried s (cancelOffersOf s c) :=
  foldl (fun s i => by
    split
    · exact .refl s
    · split_ifs
      · exact cancelOffer _ _ _
      · exact cancelOffer _ _ _
      · exact .refl s) _ _

theorem endOffer (s : State) (i : OfferId) (r : OfferEnd) (c : Ctx) : SameCarried s (endOffer s i r c) := by
  unfold Machine.endOffer
  split
  · exact .refl s
  · exact (removeOffer s i).trans (addressOwner _ _ _)

theorem makeEntry (s : State) (c : Ctx) (g : Page) (e : MapEntry) : SameCarried s (makeEntry s c g e) := by
  unfold Machine.makeEntry
  dsimp only
  split
  · exact of_eq rfl rfl rfl rfl
  · split_ifs <;> exact of_eq rfl rfl rfl rfl

theorem clearEntry (s : State) (c : Ctx) (g : Page) : SameCarried s (clearEntry s c g) := by
  unfold Machine.clearEntry
  split
  · exact .refl s
  · exact of_eq rfl rfl rfl rfl

theorem invalidate (s : State) (c : Ctx) (f : Option Frame) : SameCarried s (invalidate s c f) := by
  rw [invalidate_frame]
  exact of_eq rfl rfl rfl rfl

theorem setStep (s : State) (c : Ctx) (x : TeardownStep) : SameCarried s (setStep s c x) := by
  cases there : s.teardown c with
  | none => rw [setStep_of_none there]; exact .refl s
  | some td =>
    rw [setStep_of_some there]
    refine ⟨rfl, rfl, fun d => ?_, fun _ => rfl, fun _ => rfl⟩
    rw [State.teardown, vector_get_set]
    split_ifs with hd
    · rw [hd, there]
      rfl
    · rfl

theorem claimFrames (s : State) (c : Ctx) (n : Nat) : SameCarried s (claimFrames s c n) := by
  have kept := foldl_keeps (P := SameCarried s) (g := fun s f => modFrame s f (claimedFrame c))
    (fun _ _ h => h.trans (of_eq rfl rfl rfl rfl)) (s.freeList.take n) (s := { s with freeList := s.freeList.drop n })
    (of_eq rfl rfl rfl rfl)
  exact kept.trans (of_eq rfl rfl rfl rfl)

theorem scrubFail (s : State) (f : Frame) : SameCarried s (scrubFail s f) := of_eq rfl rfl rfl rfl

end SameCarried

/-! ## Answers -/

/-- An answer frees its own slot only. -/
theorem slotOf_respond (s : State) (p : Port) (t : Tag) (v : Verdict) (rs : List Byte) {q : Port} {u : Tag}
    (other : ¬ (q = p ∧ u = t)) : slotOf ((respond s p t v rs).port q) u = slotOf (s.port q) u := by
  unfold respond
  rw [port_modPort]
  split_ifs with hq
  · subst hq
    have tags : u ≠ t := fun same => other ⟨rfl, same⟩
    unfold PortRec.responded
    split
    · rfl
    · have filtered : (List.filter (fun x : ControlSlot => x.tag != t) (s.port q).slots).find? (fun x => x.tag == u) =
          (s.port q).slots.find? fun x => x.tag == u := by
        rw [List.find?_filter]
        refine congrArg (fun g => List.find? g (s.port q).slots) (funext fun x => ?_)
        by_cases hx : x.tag = u
        · simp [hx, tags]
        · simp [hx]
      dsimp only
      split_ifs
      · exact filtered
      · exact filtered
  · rfl

theorem CarriesOn.respond {s : State} {q : Port} {u : Tag} {k : RequestKind} (h : CarriesOn s q u k) {p : Port} {t : Tag}
    (other : ¬ (q = p ∧ u = t)) (v : Verdict) (rs : List Byte) : CarriesOn (respond s p t v rs) q u k := by
  obtain ⟨x, found, rest⟩ := h
  exact ⟨x, (slotOf_respond s p t v rs other).trans found, rest⟩

theorem binding_respond (s : State) (p : Port) (t : Tag) (v : Verdict) (rs : List Byte) (q : Port) :
    ((respond s p t v rs).port q).binding = (s.port q).binding := by
  unfold respond
  rw [port_modPort]
  split_ifs with hq
  · rw [hq, responded_eq]
  · rfl

theorem Fewer.respond {s t : State} (h : Fewer s t) (p : Port) (tag : Tag) (v : Verdict) (rs : List Byte) :
    Fewer s (respond t p tag v rs) :=
  ⟨h.loads, h.withdrawals, h.teardowns, fun q c u binding => h.binds q c u ((binding_respond t p tag v rs q).symm.trans binding)⟩

theorem refers_respond {s : State} {p q : Port} {t u : Tag} {k : RequestKind} {v : Verdict} {rs : List Byte}
    (h : Refers (respond s p t v rs) q u k) : Refers s q u k :=
  ((SameCarried.refl s).fewer.respond p t v rs).refers h

namespace Carried

variable {s : State} (h : Carried s)

include h

/-- A WAITING request is answered. -/
theorem answered {p : Port} {t : Tag} {k : RequestKind} (waits : Waits s p t k) (v : Verdict) (rs : List Byte) :
    Carried (respond s p t v rs) := by
  refine h.fewer ((SameCarried.refl s).fewer.respond p t v rs) fun q u k' _ carries => carries.respond ?_ v rs
  rintro ⟨rfl, rfl⟩
  exact waits.not_carried carries

/-- What is under way in `u` no more is answered. -/
theorem answeredEnd {u : State} (fewer : Fewer s u) (slots : ∀ p, (u.port p).slots = (s.port p).slots) {p : Port} {t : Tag}
    {k : RequestKind} (was : CarriesOn s p t k) (gone : ¬ Refers u p t k) (v : Verdict) (rs : List Byte) :
    Carried (respond u p t v rs) := by
  refine h.ended (fewer.respond p t v rs) was (fun there => gone (refers_respond there)) fun q x k' other carries =>
    CarriesOn.respond ?_ other v rs
  unfold CarriesOn slotOf at carries ⊢
  rw [slots]
  exact carries

/-! ## Loads -/

/-- The running load ends (R146). -/
theorem endRunning (e : LoadEnd) : Carried (endRunning s e) := by
  unfold Machine.endRunning
  cases queue : s.loadQueue with
  | nil => exact h
  | cons r rest =>
    have tags := h.loadTags
    rw [queue, List.map_cons] at tags
    obtain ⟨away, -⟩ := List.nodup_cons.1 tags
    refine h.answeredEnd (u := { s with loadQueue := rest, load := .idle }) ⟨?_, List.Sublist.refl _,
      fun c td there p t starter => ⟨td, there, starter⟩, fun _ _ _ binding => binding⟩ (fun _ => rfl)
      (h.loads r (queue ▸ List.mem_cons_self)) ?_ e.1 e.2
    · rw [queue]
      exact List.sublist_cons_self _ _
    · intro refers
      cases refers with
      | @load r' queued port tag =>
        refine away (List.mem_map.2 ⟨r', queued, ?_⟩)
        rw [port, tag]
      | withdrawal listed slot => rcases kind_of_slot slot with kind | kind | kind <;> cases kind

omit h in
theorem runLoadsFor (n : Nat) {s : State} (h : Carried s) : Carried (runLoadsFor n s) := by
  induction n generalizing s with
  | zero => exact h
  | succ n ih =>
    unfold Machine.runLoadsFor
    have engine (x : LoadState) : Carried { s with load := x } :=
      SameCarried.carried (s := s) (.of_eq rfl rfl rfl rfl) h
    split
    · exact engine _
    · split
      · exact engine _
      · exact ih (h.endRunning _)

theorem runLoads : Carried (runLoads s) := runLoadsFor _ h

/-- Loads that have left the queue are answered, each once. -/
theorem answerAll {l : List LoadRec} (carries : ∀ r ∈ l, CarriesOn s r.port r.tag .mapLoad)
    (tags : (l.map LoadRec.slot).Nodup) (gone : ∀ r ∈ l, ¬ Refers s r.port r.tag .mapLoad) (v : Verdict) (rs : List Byte) :
    Carried (l.foldl (fun u r => respond u r.port r.tag v rs) s) := by
  induction l generalizing s with
  | nil => exact h
  | cons r l ih =>
    rw [List.map_cons, List.nodup_cons] at tags
    have first : Carried (respond s r.port r.tag v rs) :=
      h.answeredEnd (SameCarried.refl s).fewer (fun _ => rfl) (carries r List.mem_cons_self) (gone r List.mem_cons_self) v rs
    refine ih first (fun x mem => (carries x (List.mem_cons_of_mem r mem)).respond ?_ v rs) tags.2 fun x mem refers =>
      gone x (List.mem_cons_of_mem r mem) (refers_respond refers)
    rintro ⟨port, tag⟩
    refine tags.1 (List.mem_map.2 ⟨x, mem, ?_⟩)
    unfold LoadRec.slot
    rw [port, tag]

/-- Queued loads are removed and answered (R147, R149, R150). -/
theorem removeQueued (which : LoadRec → Bool) (e : LoadEnd) : Carried (removeQueued s which e) := by
  unfold Machine.removeQueued
  cases queue : s.loadQueue with
  | nil => exact h
  | cons r rest =>
    have tags : (LoadRec.slot r :: rest.map LoadRec.slot).Nodup := by
      have all := h.loadTags
      rw [queue] at all
      exact all
    obtain ⟨away, nodup⟩ := List.nodup_cons.1 tags
    have first : Carried { s with loadQueue := r :: rest.filter fun q => !which q } := by
      refine h.fewer ⟨?_, List.Sublist.refl _, fun c td there p t starter => ⟨td, there, starter⟩,
        fun _ _ _ binding => binding⟩ fun _ _ _ _ carries => carries
      rw [queue]
      exact (List.filter_sublist.cons_cons r).map _
    refine first.answerAll (fun x mem => h.loads x (queue ▸ List.mem_cons_of_mem r (List.mem_of_mem_filter mem)))
      ((List.filter_sublist.map _).nodup nodup) (fun x mem refers => ?_) e.1 e.2
    obtain ⟨there, chosen⟩ := List.mem_filter.1 mem
    cases refers with
    | @load y queued port tag =>
      have same : LoadRec.slot y = LoadRec.slot x := by
        unfold LoadRec.slot
        rw [port, tag]
      rcases List.mem_cons.1 queued with rfl | later
      · exact away (List.mem_map.2 ⟨x, there, same.symm⟩)
      · obtain ⟨there', kept⟩ := List.mem_filter.1 later
        have one := List.inj_on_of_nodup_map nodup there' there same
        rw [one, chosen] at kept
        cases kept
    | withdrawal listed slot => rcases kind_of_slot slot with kind | kind | kind <;> cases kind

/-- The running load is asked to stop (R148). -/
theorem placeStop (q : StopRequest) : Carried (placeStop s q) := by
  unfold Machine.placeStop
  split
  · exact h
  · rename_i r rest queue
    have asked : Carried { s with loadQueue := { r with stop := some q } :: rest } := by
      refine SameCarried.carried (s := s) ⟨?_, rfl, fun _ => rfl, fun _ => rfl, fun _ => rfl⟩ h
      rw [queue]
      rfl
    split_ifs
    · exact h
    · exact asked.runLoads
    · exact asked

theorem endLoadsWhere (which : LoadRec → Bool) (q : StopRequest) : Carried (endLoadsWhere s which q) := by
  unfold Machine.endLoadsWhere
  dsimp only
  split
  · exact h.removeQueued _ _
  · split_ifs
    · exact (h.removeQueued _ _).placeStop q
    · exact h.removeQueued _ _

end Carried

/-! ## Requests that are carried on -/

theorem slotOf_activate (s : State) (p : Port) (t : Tag) (q : Port) (u : Tag) :
    slotOf ((activate s p t).port q) u =
      if q = p ∧ u = t then (slotOf (s.port q) u).map fun x => { x with standing := .active } else slotOf (s.port q) u := by
  unfold activate
  rw [port_modPort]
  by_cases hq : q = p
  · subst hq
    rw [if_pos rfl]
    show List.find? _ (List.map _ _) = _
    rw [List.find?_map]
    have tags : ((fun x : ControlSlot => x.tag == u) ∘
        fun x : ControlSlot => if x.tag = t then { x with standing := .active } else x) = fun x => x.tag == u := by
      funext x
      simp only [Function.comp]
      split_ifs <;> rfl
    rw [tags]
    change Option.map _ (slotOf (s.port q) u) = _
    cases found : slotOf (s.port q) u with
    | none => simp
    | some x =>
      have tag : x.tag = u := beq_iff_eq.1 (List.find?_some found :)
      by_cases ht : u = t
      · simp [tag, ht]
      · simp [tag, ht]
  · rw [if_neg hq, if_neg fun both => hq both.1]

theorem CarriesOn.activate {s : State} {q : Port} {u : Tag} {k : RequestKind} (h : CarriesOn s q u k) (p : Port) (t : Tag) :
    CarriesOn (activate s p t) q u k := by
  obtain ⟨x, found, kind, active⟩ := h
  unfold CarriesOn
  rw [slotOf_activate, found]
  split_ifs
  · exact ⟨_, rfl, kind, rfl⟩
  · exact ⟨x, rfl, kind, active⟩

theorem Waits.carriesOn_activate {s : State} {p : Port} {t : Tag} {k : RequestKind} (h : Waits s p t k) :
    CarriesOn (activate s p t) p t k := by
  obtain ⟨x, found, kind, -⟩ := h.held
  unfold CarriesOn
  rw [slotOf_activate, found, if_pos ⟨rfl, rfl⟩]
  exact ⟨_, rfl, kind, rfl⟩

theorem binding_activate (s : State) (p : Port) (t : Tag) (q : Port) :
    ((activate s p t).port q).binding = (s.port q).binding := by
  unfold activate
  rw [port_modPort]
  split_ifs with hq
  · rw [hq]
  · rfl

namespace Carried

variable {s : State} (h : Carried s)

include h

theorem activate (p : Port) (t : Tag) : Carried (activate s p t) :=
  h.fewer ⟨List.Sublist.refl _, List.Sublist.refl _, fun _ td there _ _ starter => ⟨td, there, starter⟩,
    fun q _ _ binding => (binding_activate s p t q).symm.trans binding⟩ fun _ _ _ _ carries => carries.activate p t

variable {p : Port} {t : Tag} {k : RequestKind} (waits : Waits s p t k)

include waits

/-- A withdrawal that the request starts (R91, R170). -/
theorem withWithdrawal {w : Withdrawal} (slot : w.requester.slot = some (p, t, k)) :
    Carried { Machine.activate s p t with withdrawals := s.withdrawals ++ [w] } := by
  have before := h.activate p t
  refine { before with withdrawals := fun x listed q u k' there => ?_, withdrawalTags := ?_ }
  · rcases List.mem_append.1 listed with old | new
    · exact before.withdrawals x old q u k' there
    · cases List.mem_singleton.1 new
      cases slot.symm.trans there
      exact waits.carriesOn_activate
  · show (List.filterMap _ (s.withdrawals ++ [w])).Nodup
    have one : List.filterMap (fun w : Withdrawal => w.requester.slot) [w] = [(p, t, k)] := by simp [slot]
    rw [List.filterMap_append, one, List.nodup_append]
    refine ⟨h.withdrawalTags, List.nodup_singleton _, ?_⟩
    rintro _ mem _ last rfl
    rw [List.mem_singleton] at last
    obtain ⟨x, listed, there⟩ := List.mem_filterMap.1 mem
    exact waits.not_carried (h.withdrawals x listed p t k (there.trans (congrArg some last)))

/-- A load that the request starts (R138, R170). -/
theorem withLoad {r : LoadRec} (kind : k = .mapLoad) (port : r.port = p) (tag : r.tag = t) :
    Carried { Machine.activate s p t with loadQueue := s.loadQueue ++ [r] } := by
  subst kind
  have before := h.activate p t
  refine { before with loads := fun x queued => ?_, loadTags := ?_ }
  · rcases List.mem_append.1 queued with old | new
    · exact before.loads x old
    · cases List.mem_singleton.1 new
      rw [port, tag]
      exact waits.carriesOn_activate
  · show (List.map _ (s.loadQueue ++ [r])).Nodup
    rw [List.map_append, List.map_singleton, List.nodup_append]
    refine ⟨h.loadTags, List.nodup_singleton _, ?_⟩
    rintro _ mem _ last rfl
    rw [List.mem_singleton] at last
    obtain ⟨x, queued, same⟩ := List.mem_map.1 mem
    have carries := h.loads x queued
    have port' : x.port = p := (congrArg Prod.fst (same.trans last)).trans port
    have tag' : x.tag = t := (congrArg Prod.snd (same.trans last)).trans tag
    rw [port', tag'] at carries
    exact waits.not_carried carries

/-- A teardown that the request starts (R34, R170). -/
theorem withDestroy (kind : k = .destroy) (c : Ctx) :
    Carried (startPooledTeardown (Machine.activate s p t) c (.destroy p t)) := by
  subst kind
  have before := h.activate p t
  have away {d : Ctx} {td : Teardown} (there : s.teardown d = some td) (starter : td.starter = .destroy p t) : False :=
    waits.not_carried (h.teardowns d td p t there starter)
  have written (d : Ctx) : (startPooledTeardown (Machine.activate s p t) c (.destroy p t)).teardown d =
      if d = c then some ⟨.destroy p t, .offers⟩ else s.teardown d := State.teardown_setTeardown ..
  refine ⟨before.loads, before.loadTags, before.withdrawals, before.withdrawalTags, fun d td q u there starter => ?_,
    fun d d' td td' q u hd hd' sd sd' => ?_, before.binds⟩
  · rw [written] at there
    split_ifs at there with hd
    · cases there
      cases starter
      exact waits.carriesOn_activate
    · exact before.teardowns d td q u there starter
  · rw [written] at hd hd'
    split_ifs at hd hd' with hc hc' hc'
    · exact hc.trans hc'.symm
    · cases hd
      cases sd
      exact (away hd' sd').elim
    · cases hd'
      cases sd'
      exact (away hd sd).elim
    · exact h.teardownTags d d' td td' q u hd hd' sd sd'

/-- A switch that the request waits for (R159, R170). -/
theorem withSwitch (kind : k = .bind) (c : Ctx) :
    Carried (modPort (Machine.activate s p t) p fun r => { r with binding := .switching c t }) := by
  subst kind
  have before := h.activate p t
  have slots (q : Port) : ((modPort (Machine.activate s p t) p fun r => { r with binding := .switching c t }).port q).slots =
      ((Machine.activate s p t).port q).slots := by
    rw [port_modPort]
    split_ifs with hq
    · rw [hq]
    · rfl
  have carries {q : Port} {u : Tag} {k : RequestKind} (was : CarriesOn (Machine.activate s p t) q u k) :
      CarriesOn (modPort (Machine.activate s p t) p fun r => { r with binding := .switching c t }) q u k := by
    unfold CarriesOn slotOf at was ⊢
    rw [slots]
    exact was
  refine ⟨fun r queued => carries (before.loads r queued), before.loadTags,
    fun w listed q u k slot => carries (before.withdrawals w listed q u k slot), before.withdrawalTags,
    fun d td q u there starter => carries (before.teardowns d td q u there starter), before.teardownTags,
    fun q d u binding => carries ?_⟩
  rw [port_modPort] at binding
  split_ifs at binding with hq
  · cases binding
    rw [hq]
    exact waits.carriesOn_activate
  · exact before.binds q d u binding

end Carried

end Sys2Proof.Machine
end

section
/-! PROOFS. Each load, withdrawal, teardown and switch stays in a control slot of its own (R170), at every step. -/

namespace Sys2Proof.Machine

open Sys2Proof

/-! ## The acts -/

theorem Act.carried {s t : State} (act : Act s t) (h : Carried s) : Carried t := by
  have same {t : State} (kept : SameCarried s t) : Carried t := kept.carried h
  cases act with
  | ports ps each kept => exact same ⟨rfl, rfl, fun _ => rfl, fun p => (kept p).slots, fun p => (kept p).binding⟩
  | aside => exact same (.of_eq rfl rfl rfl rfl)
  | engine x gen kept => exact same (.of_eq rfl rfl rfl rfl)
  | failed current => exact same (.scrubFail s _)
  | marked f => exact same (.of_eq rfl rfl rfl rfl)
  | @admitted p q up room tag waiting =>
    refine h.fewer ⟨List.Sublist.refl _, List.Sublist.refl _, fun _ td there _ _ starter => ⟨td, there, starter⟩,
      fun p' c u binding => ?_⟩ fun p' u k _ carries => ?_
    · rw [port_modPort] at binding
      split_ifs at binding with hp
      · exact hp ▸ binding
      · exact binding
    · obtain ⟨x, found, rest⟩ := carries
      refine ⟨x, ?_, rest⟩
      rw [port_modPort]
      split_ifs with hp
      · subst hp
        unfold slotOf at found ⊢
        rw [List.find?_append, found]
        rfl
      · exact found
  | answered waits v results => exact h.answered waits v results
  | woke ended => exact same (.modPort rfl rfl)
  | bound up settled acting => exact same (.modPort rfl rfl)
  | switching waits settled acting => exact h.withSwitch waits rfl _
  | @switched p c t binding =>
    unfold completeSwitch
    rw [binding]
    have bindings (q : Port) : ((modPort s p fun x => { x with bound := c, binding := .settled }).port q).binding =
        if q = p then .settled else (s.port q).binding := by
      rw [port_modPort]
      split_ifs <;> rfl
    refine h.answeredEnd (u := modPort s p fun x => { x with bound := c, binding := .settled }) ⟨List.Sublist.refl _,
      List.Sublist.refl _, fun _ td there _ _ starter => ⟨td, there, starter⟩, fun q d u there => ?_⟩ (fun q => ?_)
      (h.binds p c t binding) (fun refers => ?_) .done (contextResults (s.port p).bound)
    · rw [bindings] at there
      split_ifs at there
      exact there
    · rw [port_modPort]
      split_ifs with hq
      · rw [hq]
      · rfl
    · cases refers with
      | withdrawal listed slot => rcases kind_of_slot slot with kind | kind | kind <;> cases kind
      | switch there =>
        rw [bindings, if_pos rfl] at there
        cases there
  | allocated up free waiting tag => exact same (.modPort rfl rfl)
  | @freed p i e age held phase =>
    have dropped : SameCarried s (dropEntry s p i e) := .modPort rfl rfl
    refine same (dropped.trans ⟨rfl, ?_, fun _ => rfl, fun _ => rfl, fun _ => rfl⟩)
    show List.map _ (List.map _ s.withdrawals) = _
    rw [List.map_map]
    rfl
  | claimed live room enough => exact same (.claimFrames s _ _)
  | created classes pool free => exact same (.of_eq rfl rfl rfl rfl)
  | destroyed waits pool acting unused => exact h.withDestroy waits rfl _
  | ceded => exact same (.of_eq rfl rfl rfl rfl)
  | entrySet => exact same (.makeEntry s _ _ _)
  | entryCleared c g => exact same (.clearEntry s c g)
  | joined waits named acting fresh count room =>
    have queued := h.withLoad waits rfl named.1 named.2
    unfold acceptLoad
    dsimp only
    split_ifs
    · exact queued.runLoads
    · exact queued
  | loadEnded e => exact (h.endRunning e).runLoads
  | goesOn queue more =>
    refine Carried.runLoads (same ⟨?_, rfl, fun _ => rfl, fun _ => rfl, fun _ => rfl⟩)
    rw [queue]
    rfl
  | idled empty => exact same (.of_eq rfl rfl rfl rfl)
  | unqueued which e => exact h.removeQueued which e
  | stopPlaced q => exact h.placeStop q
  | offered => exact same (.of_eq rfl rfl rfl rfl)
  | offerRemoved i => exact same (.removeOffer s i)
  | accepted there live => exact same ((SameCarried.endOffer s _ _ _).trans (.of_eq rfl rfl rfl rfl))
  | lowered => exact same (.of_eq rfl rfl rfl rfl)

/-! ## What happens within an event -/

/-- Distinct images under a partial map have one source each. -/
theorem eq_of_nodup_filterMap {α β : Type} {f : α → Option β} {l : List α} (nodup : (l.filterMap f).Nodup) {x y : α} {b : β}
    (hx : x ∈ l) (hy : y ∈ l) (fx : f x = some b) (fy : f y = some b) : x = y := by
  induction l with
  | nil => cases hx
  | cons a l ih =>
    have later {z : α} (hz : z ∈ l) (fz : f z = some b) : b ∈ l.filterMap f := List.mem_filterMap.2 ⟨z, hz, fz⟩
    rcases List.mem_cons.1 hx with rfl | hx'
    · rcases List.mem_cons.1 hy with rfl | hy'
      · rfl
      · rw [List.filterMap_cons_some fx] at nodup
        exact absurd (later hy' fy) (List.nodup_cons.1 nodup).1
    · rcases List.mem_cons.1 hy with rfl | hy'
      · rw [List.filterMap_cons_some fy] at nodup
        exact absurd (later hx' fx) (List.nodup_cons.1 nodup).1
      · refine ih ?_ hx' hy'
        cases fa : f a with
        | none => rwa [List.filterMap_cons_none fa] at nodup
        | some c =>
          rw [List.filterMap_cons_some fa] at nodup
          exact (List.nodup_cons.1 nodup).2

/-- A pooled context is FREE again, its quota with its port's home context (R43). -/
def freedCtx (s : State) (c : Ctx) : State :=
  State.setCtx (match (s.ctx c).owner with
    | some p => modCtx (s.setTeardown c none) (homeOf p) fun x => { x with quota := x.quota + (s.ctx c).quota }
    | none => s.setTeardown c none) c CtxRec.free

theorem freedCtx_beside (s : State) (c : Ctx) :
    (freedCtx s c).loadQueue = s.loadQueue ∧ (freedCtx s c).withdrawals = s.withdrawals ∧
      (freedCtx s c).teardowns = s.teardowns.set c none ∧ (freedCtx s c).ports = s.ports := by
  unfold freedCtx
  cases (s.ctx c).owner <;> exact ⟨rfl, rfl, rfl, rfl⟩

/-- The end of a teardown (R43): of a home context, of a pooled one that a DESTROY asked for, and of one that its port's
teardown took. -/
theorem finishTeardown_cases (s : State) (c : Ctx) :
    (pooled c = false ∧ finishTeardown s c = s.setTeardown c none) ∨
      (pooled c = true ∧
        ((∃ p t x, s.teardown c = some ⟨.destroy p t, x⟩ ∧
          finishTeardown s c = respond (freedCtx s c) p t .done (destroyResults (s.ctx c).quota)) ∨
        ((∀ p t x, s.teardown c ≠ some ⟨.destroy p t, x⟩) ∧ finishTeardown s c = freedCtx s c))) := by
  unfold finishTeardown
  cases pool : pooled c with
  | false => exact .inl ⟨rfl, if_neg (by nofun)⟩
  | true =>
    refine .inr ⟨rfl, ?_⟩
    rw [if_pos rfl]
    cases there : s.teardown c with
    | none => exact .inr ⟨nofun, rfl⟩
    | some td =>
      obtain ⟨st, x⟩ := td
      cases st with
      | destroy p t => exact .inl ⟨p, t, x, rfl, rfl⟩
      | portReset p => exact .inr ⟨nofun, rfl⟩

/-- A request that runs on keeps its slot at the start of a port teardown, marked discarding (R165). -/
theorem slotOf_discarded {slots : List ControlSlot} {t : Tag} {q : ControlSlot}
    (found : slots.find? (fun x => x.tag == t) = some q) (active : q.standing = .active) (kind : q.kind ≠ .bind) :
    (slots.filterMap discardSlot).find? (fun x => x.tag == t) = some { q with discard := true } := by
  induction slots with
  | nil => cases found
  | cons x slots ih =>
    by_cases here : x.tag = t
    · have passes : (x.tag == t) = true := beq_iff_eq.2 here
      rw [List.find?_cons_of_pos (p := fun x : ControlSlot => x.tag == t) passes] at found
      obtain rfl : x = q := Option.some.inj found
      have kept : discardSlot x = some { x with discard := true } := by
        unfold discardSlot
        rw [active]
        exact if_neg kind
      rw [List.filterMap_cons_some kept,
        List.find?_cons_of_pos (p := fun x : ControlSlot => x.tag == t) (a := { x with discard := true }) passes]
    · rw [List.find?_cons_of_neg (by simpa using here)] at found
      cases kept : discardSlot x with
      | none =>
        rw [List.filterMap_cons_none kept]
        exact ih found
      | some y =>
        have tag : y.tag = x.tag := by
          unfold discardSlot at kept
          split at kept
          · cases kept
          · split_ifs at kept
            cases kept
            rfl
        rw [List.filterMap_cons_some kept, List.find?_cons_of_neg (by simpa [tag] using here)]
        exact ih found

namespace Carried

variable {s : State} (h : Carried s)

include h

/-- A withdrawal's record leaves the list. -/
theorem removeRecord (w : Withdrawal) : Carried (removeRecord s w) :=
  h.fewer ⟨List.Sublist.refl _, List.filter_sublist.map _, fun _ td there _ _ starter => ⟨td, there, starter⟩,
    fun _ _ _ binding => binding⟩ fun _ _ _ _ carries => carries

/-- A withdrawal that no request started is placed on the list. -/
theorem withUnslotted {w : Withdrawal} (slot : w.requester.slot = none) :
    Carried { s with withdrawals := s.withdrawals ++ [w] } := by
  refine { h with withdrawals := fun x listed p t k there => ?_, withdrawalTags := ?_ }
  · rcases List.mem_append.1 listed with old | new
    · exact h.withdrawals x old p t k there
    · cases List.mem_singleton.1 new
      rw [slot] at there
      cases there
  · have one : List.filterMap (fun w : Withdrawal => w.requester.slot) [w] = [] := by simp [slot]
    show (List.filterMap _ (s.withdrawals ++ [w])).Nodup
    rw [List.filterMap_append, one, List.append_nil]
    exact h.withdrawalTags

/-- A withdrawal starts that no request asked for. -/
theorem startWithdrawal (c : Ctx) (f : Option Frame) {q : Requester} (slot : q.slot = none) :
    Carried (startWithdrawal s c f q) := by
  have before := (SameCarried.invalidate s c f).carried h
  have same : (invalidate s c f).withdrawals = s.withdrawals := by rw [invalidate_frame]
  rw [startWithdrawal_eq, ← same]
  exact before.withUnslotted slot

/-- The request that a withdrawal counts against is answered at its end (R99). -/
theorem answeredWithdrawal {u : State} {w : Withdrawal} (same : SameCarried (Machine.removeRecord s w) u) (listed : w ∈ s.withdrawals)
    {p : Port} {t : Tag} {k : RequestKind} (slot : w.requester.slot = some (p, t, k)) (v : Verdict) (rs : List Byte) :
    Carried (respond u p t v rs) := by
  have removed : Fewer s (Machine.removeRecord s w) :=
    ⟨List.Sublist.refl _, List.filter_sublist.map _, fun _ td there _ _ starter => ⟨td, there, starter⟩,
      fun _ _ _ binding => binding⟩
  have fewer : Fewer s u := by
    have next := same.fewer
    refine ⟨next.loads, next.withdrawals.trans removed.withdrawals, fun c td there q tag starter => ?_,
      fun q c tag binding => next.binds q c tag binding⟩
    exact next.teardowns c td there q tag starter
  refine h.answeredEnd fewer same.slots (h.withdrawals w listed p t k slot) (fun refers => ?_) v rs
  have before := same.fewer.refers refers
  have kinds := kind_of_slot slot
  cases before with
  | load => rcases kinds with kind | kind | kind <;> cases kind
  | @withdrawal x _ kept slot' =>
    obtain ⟨mem, other⟩ := List.mem_filter.1 kept
    have one : x = w := eq_of_nodup_filterMap h.withdrawalTags mem listed slot' slot
    rw [one] at other
    simp at other
  | teardown => rcases kinds with kind | kind | kind <;> cases kind
  | switch => rcases kinds with kind | kind | kind <;> cases kind

/-- The loads of a context end in steps 2 and 3 of its teardown, which keeps its starter (R38, R39). -/
theorem cancelThenEndLoads {c : Ctx} {st : Starter}
    (starter : ∀ p t, st = .destroy p t → ∃ x, s.teardown c = some ⟨st, x⟩) : Carried (cancelThenEndLoads s c st) := by
  have same := SameCarried.cancelOffersOf s c
  have offers := same.carried h
  unfold Machine.cancelThenEndLoads endLoadsOfCtx
  generalize cancelOffersOf s c = u at same offers
  refine Carried.endLoadsWhere ?_ _ _
  refine offers.fewer ⟨List.Sublist.refl _, List.Sublist.refl _, fun d td there p t which => ?_, fun _ _ _ binding => binding⟩
    fun _ _ _ _ carries => carries
  rw [State.teardown_setTeardown] at there
  split_ifs at there with hd
  · cases there
    obtain ⟨x, was⟩ := starter p t which
    have kept := same.starters c
    rw [was] at kept
    obtain ⟨td', now, starter'⟩ := Option.map_eq_some_iff.1 kept
    exact ⟨td', hd ▸ now, starter'.trans which⟩
  · exact ⟨td, there, which⟩

/-- A DESTROY is answered when its context is FREE again (R34, R43). -/
theorem finishTeardown (c : Ctx) : Carried (finishTeardown s c) := by
  have fewer (v : State) (loads : v.loadQueue = s.loadQueue) (withdrawals : v.withdrawals = s.withdrawals)
      (teardowns : v.teardowns = s.teardowns.set c none) (ports : v.ports = s.ports) : Fewer s v := by
    refine ⟨loads ▸ List.Sublist.refl _, withdrawals ▸ List.Sublist.refl _, fun d td there p t starter => ?_,
      fun p d t binding => ?_⟩
    · rw [State.teardown, teardowns, vector_get_set] at there
      split_ifs at there
      exact ⟨td, there, starter⟩
    · unfold State.port at binding ⊢
      rwa [ports] at binding
  have kept (v : State) (fewer : Fewer s v) (ports : v.ports = s.ports) : Carried v := by
    refine h.fewer fewer fun p t k _ carries => ?_
    unfold CarriesOn State.port at carries ⊢
    rwa [ports]
  obtain ⟨loads, withdrawals, teardowns, ports⟩ := freedCtx_beside s c
  rcases finishTeardown_cases s c with ⟨-, ended⟩ | ⟨-, ⟨p, t, x, there, ended⟩ | ⟨-, ended⟩⟩
  · rw [ended]
    exact kept _ (fewer _ rfl rfl rfl rfl) rfl
  · rw [ended]
    refine h.answeredEnd (fewer _ loads withdrawals teardowns ports) (fun q => ?_) (h.teardowns c _ p t there rfl)
      (fun refers => ?_) _ _
    · unfold State.port
      rw [ports]
    · cases refers with
      | withdrawal listed slot => rcases kind_of_slot slot with kind | kind | kind <;> cases kind
      | @teardown d td at' starter =>
        rw [State.teardown, teardowns, vector_get_set] at at'
        split_ifs at at' with hd
        exact hd (h.teardownTags d c td _ p t at' there starter rfl)
  · rw [ended]
    exact kept _ (fewer _ loads withdrawals teardowns ports) ports

/-- The request of a port's loads and withdrawals at the start of its teardown: a BIND ends, the others run on (R165). -/
theorem startPortTeardown (p : Port) : Carried (startPortTeardown s p) := by
  obtain ⟨l, k, -, started⟩ := startPortTeardown_eq s p
  rw [started]
  refine Carried.endLoadsWhere ?_ _ _
  have port (q : Port) (r : PortRec) : State.port { s.setPort p r with choices := k } q = if q = p then r else s.port q :=
    State.port_setPort ..
  refine h.fewer ⟨List.Sublist.refl _, List.Sublist.refl _, fun _ td there _ _ starter => ⟨td, there, starter⟩,
    fun q c t binding => ?_⟩ fun q t kind refers carries => ?_
  · rw [port] at binding
    split_ifs at binding
    exact binding
  · by_cases hq : q = p
    · subst hq
      have other : kind ≠ .bind := by
        rintro rfl
        cases refers with
        | withdrawal listed slot => rcases kind_of_slot slot with kind | kind | kind <;> cases kind
        | switch binding =>
          rw [port, if_pos rfl] at binding
          cases binding
      obtain ⟨x, found, same, active⟩ := carries
      refine ⟨{ x with discard := true }, ?_, same, active⟩
      rw [port, if_pos rfl]
      exact slotOf_discarded found active (same ▸ other)
    · unfold CarriesOn
      rw [port, if_neg hq]
      exact carries

end Carried

theorem DueStep.carried {s t : State} (due : DueStep s t) (h : Carried s) : Carried t := by
  have same {t : State} (kept : SameCarried s t) : Carried t := kept.carried h
  have removed {w : Withdrawal} {f : Frame} : SameCarried (removeRecord s w) (removeHolder (removeRecord s w) f w.ctx) :=
    .of_eq rfl rfl rfl rfl
  cases due with
  | @released w listed empty f frame p t who results =>
    exact h.answeredWithdrawal (.reclaimExit _ _) listed (k := .release) (by rw [who]; rfl) _ _
  | @hasLeft w listed empty f frame p t who =>
    exact h.answeredWithdrawal (removed.trans (.notifyOrigin _ _ _)) listed (k := .leave) (by rw [who]; rfl) _ _
  | @revoked w listed empty f frame p t who =>
    exact h.answeredWithdrawal (removed.trans (.notifyOwner _ _ _)) listed (k := .revoke) (by rw [who]; rfl) _ _
  | departed => exact (removed.trans (.notifyOwner _ _ _)).carried (h.removeRecord _)
  | @drained w =>
    unfold endDrain
    split
    · exact (SameCarried.setStep _ _ _).carried (h.removeRecord w)
    · exact h.removeRecord w
  | dropped => exact h.removeRecord _
  | @drains c => exact ((SameCarried.setStep s c .drain).carried h).startWithdrawal c none rfl
  | gone => exact same (.setStep s _ _)
  | waits => exact same (.setStep s _ _)
  | @leaves c st x teardown past f =>
    have removed : SameCarried s (removeHolder s f c) := .of_eq rfl rfl rfl rfl
    exact same ((removed.trans (.notifyOrigin _ _ _)).trans (.setStep _ _ _))
  | @givesUp c st x teardown past f =>
    have givenUp : SameCarried s (giveUp s f c) := .of_eq rfl rfl rfl rfl
    exact same ((givenUp.trans (.reclaimExit _ _)).trans (.setStep _ _ _))
  | @inherits c st x teardown past f held free origin r =>
    have promoted : SameCarried s (promote s f c r.ctx) := .of_eq rfl rfl rfl rfl
    exact same ((promoted.trans (.notifyOwner _ _ _)).trans (.setStep _ _ _))
  | @departs c st x teardown past f =>
    have marked : SameCarried s (markWithdrawing s f c) := .of_eq rfl rfl rfl rfl
    exact same (marked.trans (.setStep _ _ _))
  | @takesNext c st f teardown held r =>
    have marked : SameCarried s (markWithdrawing s f r.ctx) := .of_eq rfl rfl rfl rfl
    exact (marked.carried h).startWithdrawal r.ctx (some f) rfl
  | finishes => exact h.finishTeardown _
  | @enters p c down pool owned live =>
    have entered : SameCarried s (modPort s p fun x => { x with state := .teardown (.contexts c) }) := .modPort rfl rfl
    have before := entered.carried h
    generalize modPort s p _ = u at before
    refine before.fewer ⟨List.Sublist.refl _, List.Sublist.refl _, fun d td there q t starter => ?_,
      fun _ _ _ binding => binding⟩ fun _ _ _ _ carries => carries
    change ((modCtx u c _).setTeardown c _).teardown d = some td at there
    rw [State.teardown_setTeardown] at there
    split_ifs at there
    · cases there
      cases starter
    · exact ⟨td, there, starter⟩
  | joins => exact same (.modPort rfl rfl)
  | @entersHome p =>
    have entered : SameCarried s (modPort s p fun x => { x with state := .teardown (.contexts (homeOf p)) }) :=
      .modPort rfl rfl
    exact (entered.carried h).cancelThenEndLoads nofun
  | ends => exact same (.modPort rfl rfl)

/-- A record more on either list. -/
theorem SameCarried.append {u v : State} (h : SameCarried u v) {w w' : Withdrawal} (same : w'.requester = w.requester) :
    SameCarried { u with withdrawals := u.withdrawals ++ [w] } { v with withdrawals := v.withdrawals ++ [w'] } := by
  refine ⟨h.queue, ?_, h.starters, h.slots, h.bindings⟩
  show List.map _ (v.withdrawals ++ [w']) = List.map _ (u.withdrawals ++ [w])
  rw [List.map_append, List.map_append, h.withdrawals, List.map_singleton, List.map_singleton, same]

/-- A request starts a withdrawal, with changes that no slot rests on. -/
theorem Carried.startedBy {s u : State} (h : Carried s) {p : Port} {t : Tag} {k : RequestKind} (waits : Waits s p t k)
    (same : SameCarried (Machine.activate s p t) u) (c : Ctx) (f : Option Frame) {q : Requester}
    (slot : q.slot = some (p, t, k)) : Carried (Machine.startWithdrawal u c f q) := by
  have placed := h.withWithdrawal waits (w := ⟨c, f, q, drainSet u c f⟩) slot
  have list : (invalidate u c f).withdrawals = u.withdrawals := by rw [invalidate_frame]
  rw [startWithdrawal_eq, ← list]
  exact ((same.trans (.invalidate u c f)).append rfl).carried placed

theorem Start.carried {s t : State} (start : Start s t) (h : Carried s) : Carried t := by
  cases start with
  | act act => exact act.carried h
  | due due => exact due.carried h
  | @released p t c f waits acting held origin sole =>
    have givenUp : SameCarried (activate s p t) (giveUp (activate s p t) f c) := .of_eq rfl rfl rfl rfl
    exact h.startedBy waits (givenUp.trans (.cancelOffersOn _ f)) c (some f) rfl
  | @withdraws p t k who f r waits slot requester held coHolder free =>
    have marked : SameCarried (activate s p t) (markWithdrawing (activate s p t) f r.ctx) := .of_eq rfl rfl rfl rfl
    exact h.startedBy waits marked r.ctx (some f) slot
  | offersCancelled teardown =>
    exact h.cancelThenEndLoads fun _ _ _ => ⟨_, teardown⟩
  | cut up => exact h.startPortTeardown _

theorem Carried.settle {s : State} (h : Carried s) : Carried (settle s) :=
  DueStep.kept_by_settle (P := Carried) (fun s _ k => SameCarried.carried (s := s) (.of_eq rfl rfl rfl rfl) k)
    (fun _ _ k due => due.carried k) (fun s k => (SameCarried.placeNotices s).carried k) h

theorem Turn.carried {s t : State} (turn : Turn s t) (h : Carried s) : Carried t := by
  cases turn with
  | act act => exact act.carried h
  | event starts =>
    refine Carried.settle ?_
    induction starts with
    | refl => exact h
    | tail _ last ih => exact last.carried ih

theorem Turns.portTables {s t : State} (turns : Turns s t) (h : PortTables s) : PortTables t := by
  refine ⟨turns.portLaw h.port, ?_⟩
  induction turns with
  | refl => exact h.carried
  | tail _ last ih => exact last.carried ih

/-! ## Every command -/

theorem fresh_releaseReset (s : State) (part : BitVec 2) : Fresh (releaseReset s part) := by
  obtain ⟨starts, settled⟩ := releaseReset_starts s part
  generalize releaseReset s part = t at starts settled
  have fresh := fresh_resetBlocks s false part .up (.ready 0 0)
  have same : t.part = part := by
    have kept := congrArg (fun x : State => x.part) starts.beside
    exact kept
  obtain ⟨ended, none', ports⟩ := starts.ended fresh settled
  refine ⟨fun f => ?_, fun c => ?_, ended, starts.entry fresh, starts.offer fresh, none', starts.no_loads fresh, ?_, fun p => ?_⟩
  · exact (congrArg (fun v => v.get f) starts.frames).trans (fresh.frame f)
  · rw [same]
    exact (congrArg (fun v => v.get c) starts.contexts).trans (fresh.ctx c)
  · have kept := congrArg (fun x : State => x.load) starts.beside
    exact kept
  · rw [ports, port_resetBlocks]
    exact ⟨_, _, _, _, rfl⟩

theorem fresh_assertReset (s : State) : Fresh (assertReset s) := fresh_resetBlocks _ _ _ _ _

theorem portTables_exec {c : Instr} {s t : State} (h : PortTables s) (run : exec c s = .next t) : PortTables t := by
  rcases turns_of_exec (fun p => ((portLaw_iff p _).1 (h.port p)).1) run with turns | rfl | ⟨part, rfl⟩ | ⟨f, -, rfl⟩
  · exact turns.portTables h
  · obtain rfl : (if s.rstAsserted then s else assertReset s) = t := by injection run
    split_ifs
    · exact h
    · exact (fresh_assertReset s).portTables
  · obtain rfl : (if s.rstAsserted then releaseReset s part else s) = t := by injection run
    split_ifs
    · exact (fresh_releaseReset s part).portTables
    · exact h
  · have same : SameCarried s (scrubbed s f) := .of_eq rfl rfl rfl rfl
    exact ⟨h.port, same.carried h.carried⟩

/-- Settles O55: each change of a port's record keeps the law of its tables, each act leaves every long request in its own slot,
and the notices of an event are placed at its end. -/
theorem portTablesKept : Obligations.PortTablesKept := by
  intro s t h run
  rcases of_step run with rfl | ⟨c, rest, -, run⟩
  · exact h
  · have queue : PortTables { s with pending := rest } :=
      ⟨h.port, SameCarried.carried (s := s) (.of_eq rfl rfl rfl rfl) h.carried⟩
    exact portTables_exec queue run

end Sys2Proof.Machine
end

section
/-! SUPPORT. What the law of holdings rests on: the states that it cannot tell apart, and the law of the load queue. -/

namespace Sys2Proof.Machine

open Sys2Proof

/-! ## States that the law of holdings cannot tell apart -/

/-- What a port's slot `i` carries on: the context and the frame of its access. -/
def PortRec.carrying (r : PortRec) (i : Slot) : Option (Ctx × Frame) := (r.slot i).entry.map fun e => (e.ctx, e.frame)

/-- An offer without its serial, its rights and its lifetime. -/
def OfferRec.parties (o : OfferRec) : Frame × Ctx × Ctx := (o.frame, o.offerer, o.target)

/-- Beside the load queue `t` has what the law of holdings speaks of in `s`. -/
structure Alike (s t : State) : Prop where
  frames : ∀ f, (t.frame f).state = (s.frame f).state ∧ (t.frame f).holders = (s.frame f).holders
  contexts : ∀ c, (t.ctx c).state = (s.ctx c).state ∧ (t.ctx c).owner = (s.ctx c).owner
  entries : ∀ c g, t.entry c g = s.entry c g
  offers : ∀ i, (t.offer i).map OfferRec.parties = (s.offer i).map OfferRec.parties
  teardowns : ∀ c, t.teardown c = s.teardown c
  withdrawals : t.withdrawals = s.withdrawals
  states : ∀ p, (t.port p).state = (s.port p).state
  bound : ∀ p, (t.port p).bound = (s.port p).bound
  bindings : ∀ p, (t.port p).binding = (s.port p).binding
  transit : ∀ p i, (t.port p).carrying i = (s.port p).carrying i

theorem carrying_iff (s : State) (p : Port) (i : Slot) (c : Ctx) (f : Frame) :
    InTransit s p i c f ↔ (s.port p).carrying i = some (c, f) := by
  unfold InTransit PortRec.carrying
  rw [Option.map_eq_some_iff]
  simp only [Prod.mk.injEq]

namespace Alike

theorem refl (s : State) : Alike s s :=
  ⟨fun _ => ⟨rfl, rfl⟩, fun _ => ⟨rfl, rfl⟩, fun _ _ => rfl, fun _ => rfl, fun _ => rfl, rfl, fun _ => rfl, fun _ => rfl,
    fun _ => rfl, fun _ _ => rfl⟩

theorem trans {s t u : State} (h : Alike s t) (k : Alike t u) : Alike s u where
  frames f := ⟨(k.frames f).1.trans (h.frames f).1, (k.frames f).2.trans (h.frames f).2⟩
  contexts c := ⟨(k.contexts c).1.trans (h.contexts c).1, (k.contexts c).2.trans (h.contexts c).2⟩
  entries c g := (k.entries c g).trans (h.entries c g)
  offers i := (k.offers i).trans (h.offers i)
  teardowns c := (k.teardowns c).trans (h.teardowns c)
  withdrawals := k.withdrawals.trans h.withdrawals
  states p := (k.states p).trans (h.states p)
  bound p := (k.bound p).trans (h.bound p)
  bindings p := (k.bindings p).trans (h.bindings p)
  transit p i := (k.transit p i).trans (h.transit p i)

variable {s t : State}

theorem inTransit (h : Alike s t) (p : Port) (i : Slot) (c : Ctx) (f : Frame) :
    InTransit t p i c f ↔ InTransit s p i c f := by
  rw [carrying_iff, carrying_iff, h.transit]

/-- The tables that the law speaks of are the same. -/
theorem of_eq (frames : t.frames = s.frames) (contexts : t.contexts = s.contexts) (maps : t.maps = s.maps)
    (offers : t.offers = s.offers) (teardowns : t.teardowns = s.teardowns) (withdrawals : t.withdrawals = s.withdrawals)
    (ports : t.ports = s.ports) : Alike s t := by
  refine ⟨fun f => ?_, fun c => ?_, fun c g => ?_, fun i => ?_, fun c => ?_, withdrawals, fun p => ?_, fun p => ?_,
    fun p => ?_, fun p i => ?_⟩
  · unfold State.frame
    rw [frames]
    exact ⟨rfl, rfl⟩
  · unfold State.ctx
    rw [contexts]
    exact ⟨rfl, rfl⟩
  · unfold State.entry
    rw [maps]
  · unfold State.offer
    rw [offers]
  · unfold State.teardown
    rw [teardowns]
  · unfold State.port
    rw [ports]
  · unfold State.port
    rw [ports]
  · unfold State.port
    rw [ports]
  · unfold State.port
    rw [ports]

/-- One port's record changes in what the law does not speak of. -/
theorem setPort {p : Port} {r : PortRec} (state : r.state = (s.port p).state) (bound : r.bound = (s.port p).bound)
    (binding : r.binding = (s.port p).binding) (transit : r.transit = (s.port p).transit) : Alike s (s.setPort p r) := by
  have port (q : Port) : (s.setPort p r).port q = if q = p then r else s.port q := State.port_setPort ..
  refine { refl s with states := fun q => ?_, bound := fun q => ?_, bindings := fun q => ?_, transit := fun q i => ?_ }
  · rw [port]
    split_ifs with hq
    · rw [state, hq]
    · rfl
  · rw [port]
    split_ifs with hq
    · rw [bound, hq]
    · rfl
  · rw [port]
    split_ifs with hq
    · rw [binding, hq]
    · rfl
  · rw [port]
    split_ifs with hq
    · unfold PortRec.carrying PortRec.slot
      rw [transit, hq]
    · rfl

/-- One context's record changes in what the law does not speak of. -/
theorem setCtx {c : Ctx} {r : CtxRec} (state : r.state = (s.ctx c).state) (owner : r.owner = (s.ctx c).owner) :
    Alike s (s.setCtx c r) := by
  refine { refl s with contexts := fun d => ?_ }
  rw [State.ctx_setCtx]
  split_ifs with hd
  · exact hd ▸ ⟨state, owner⟩
  · exact ⟨rfl, rfl⟩

/-- One frame's record changes in what the law does not speak of. -/
theorem setFrame {f : Frame} {r : FrameRec} (state : r.state = (s.frame f).state) (holders : r.holders = (s.frame f).holders) :
    Alike s (s.setFrame f r) := by
  refine { refl s with frames := fun k => ?_ }
  rw [State.frame_setFrame]
  split_ifs with hk
  · exact hk ▸ ⟨state, holders⟩
  · exact ⟨rfl, rfl⟩

theorem respond (s : State) (p : Port) (t : Tag) (v : Verdict) (rs : List Byte) : Alike s (respond s p t v rs) := by
  show Alike s (s.setPort p ((s.port p).responded t v rs))
  rw [responded_eq]
  exact setPort rfl rfl rfl rfl

theorem activate (s : State) (p : Port) (t : Tag) : Alike s (activate s p t) := setPort rfl rfl rfl rfl

theorem address (s : State) (p : Port) (n : Notice) : Alike s (address s p n) := by
  show Alike s (s.setPort p ((s.port p).noticed n))
  rw [noticed_eq]
  exact setPort rfl rfl rfl rfl

theorem addressOwner (s : State) (c : Ctx) (n : Notice) : Alike s (addressOwner s c n) := by
  unfold Machine.addressOwner
  split
  · exact address _ _ _
  · exact refl s

theorem notify (s : State) (p : Port) (n : Notice) : Alike s (notify s p n) := by
  show Alike s (s.setPort p ((s.port p).notified n))
  rw [notified_eq]
  exact setPort rfl rfl rfl rfl

theorem notifyOwner (s : State) (c : Ctx) (n : Notice) : Alike s (notifyOwner s c n) := by
  unfold Machine.notifyOwner
  split
  · exact notify _ _ _
  · exact refl s

theorem notifyOrigin (s : State) (f : Frame) (n : Notice) : Alike s (notifyOrigin s f n) := by
  unfold Machine.notifyOrigin
  split
  · exact notifyOwner _ _ _
  · exact refl s

/-- Which offers there are, between alike states. -/
theorem offer_of (same : Alike s t) {i : OfferId} {o : OfferRec} (there : t.offer i = some o) :
    ∃ o', s.offer i = some o' ∧ o.frame = o'.frame ∧ o.offerer = o'.offerer ∧ o.target = o'.target := by
  have kept := same.offers i
  rw [there] at kept
  obtain ⟨o', at', parties⟩ := Option.map_eq_some_iff.1 kept.symm
  unfold OfferRec.parties at parties
  simp only [Prod.mk.injEq] at parties
  exact ⟨o', at', parties.1.symm, parties.2.1.symm, parties.2.2.symm⟩

end Alike

/-! ## The load queue -/

/-- While step 3 of the teardown of `c` waits, the one load that targets `c` is the running one, and it carries a stop request
(R39, R149). -/
def Stops (c : Ctx) (q : List LoadRec) : Prop :=
  ∀ r rest, q = r :: rest → (∀ x ∈ rest, x.target ≠ c) ∧ (r.target = c → r.stop ≠ none)

/-- A load queue as R138 and R147 have it, whatever the engine does. -/
structure QueueLaw (q : List LoadRec) : Prop where
  length : q.length ≤ Config.loadQueueSize
  counts : ∀ r ∈ q, r.next < r.count ∧ r.count ≤ 128
  queued : ∀ r ∈ q.tail, r.next = 0 ∧ r.stop = none

theorem LoadLaw.queue {s : State} (h : LoadLaw s) : QueueLaw s.loadQueue := ⟨h.length, h.counts, h.queued⟩

/-- The engine as R141 and R148 have it over its queue. -/
structure EngineLaw (s : State) : Prop where
  idle : s.load = .idle ↔ s.loadQueue = []
  ready : s.load = .ready → ∀ r, s.loadQueue.head? = some r → r.stop = none

theorem LoadLaw.engine {s : State} (h : LoadLaw s) : EngineLaw s := ⟨h.idle, h.ready⟩

theorem QueueLaw.loadLaw {s : State} (h : QueueLaw s.loadQueue) (k : EngineLaw s) : LoadLaw s :=
  ⟨h.length, h.counts, h.queued, k.idle, k.ready⟩

/-- From queue `q` to queue `q'` loads end and nothing worse: no context is a target that was none, and the queue keeps its
form and what is stopped in it. -/
structure Shorter (q q' : List LoadRec) : Prop where
  law : QueueLaw q → QueueLaw q'
  targets : ∀ c, (q.any fun r => r.target == c) = false → (q'.any fun r => r.target == c) = false
  stops : ∀ c, Stops c q → Stops c q'

namespace Shorter

theorem refl (q : List LoadRec) : Shorter q q := ⟨id, fun _ => id, fun _ => id⟩

theorem trans {q r u : List LoadRec} (h : Shorter q r) (k : Shorter r u) : Shorter q u :=
  ⟨fun x => k.law (h.law x), fun c x => k.targets c (h.targets c x), fun c x => k.stops c (h.stops c x)⟩

/-- The running load ends. -/
theorem tail (r : LoadRec) (rest : List LoadRec) : Shorter (r :: rest) rest := by
  refine ⟨fun h => ⟨(Nat.le_succ _).trans h.length, fun x hx => h.counts x (.tail _ hx), fun x hx =>
    h.queued x (List.mem_of_mem_tail hx)⟩, fun c h => ?_, fun c h => ?_⟩
  · rw [List.any_cons, Bool.or_eq_false_iff] at h
    exact h.2
  · rintro x rest' rfl
    obtain ⟨others, -⟩ := h r _ rfl
    exact ⟨fun y hy => others y (.tail _ hy), fun target => absurd target (others x (.head _))⟩

/-- Queued loads end. -/
theorem filtered (r : LoadRec) (rest : List LoadRec) (keep : LoadRec → Bool) :
    Shorter (r :: rest) (r :: rest.filter keep) := by
  have sub : rest.filter keep ⊆ rest := fun x hx => (List.mem_filter.1 hx).1
  refine ⟨fun h => ⟨?_, fun x hx => ?_, fun x hx => h.queued x (sub hx)⟩, fun c h => ?_, fun c h => ?_⟩
  · exact (Nat.succ_le_succ (List.length_filter_le keep rest)).trans h.length
  · rcases List.mem_cons.1 hx with rfl | hx
    · exact h.counts _ (.head _)
    · exact h.counts x (.tail _ (sub hx))
  · rw [List.any_eq_false] at h ⊢
    intro x hx
    rcases List.mem_cons.1 hx with rfl | hx
    · exact h _ (.head _)
    · exact h x (.tail _ (sub hx))
  · rintro x rest' same
    cases same
    obtain ⟨others, first⟩ := h r rest rfl
    exact ⟨fun y hy => others y (sub hy), first⟩

/-- The running load goes on, or is asked to stop. -/
theorem head {r r' : LoadRec} (rest : List LoadRec) (target : r'.target = r.target)
    (counts : r.next < r.count ∧ r.count ≤ 128 → r'.next < r'.count ∧ r'.count ≤ 128)
    (stop : r.stop ≠ none → r'.stop ≠ none) : Shorter (r :: rest) (r' :: rest) := by
  refine ⟨fun h => ⟨h.length, fun x hx => ?_, h.queued⟩, fun c h => ?_, fun c h => ?_⟩
  · rcases List.mem_cons.1 hx with rfl | hx
    · exact counts (h.counts r (.head _))
    · exact h.counts x (.tail _ hx)
  · rw [List.any_cons] at h ⊢
    rwa [target]
  · rintro x rest' same
    cases same
    obtain ⟨others, first⟩ := h r rest rfl
    exact ⟨others, fun at' => stop (first (target ▸ at'))⟩

end Shorter

/-- Loads end, and nothing else of what the law of holdings speaks of is changed. -/
structure LoadsEnd (s t : State) : Prop where
  alike : Alike s t
  queue : Shorter s.loadQueue t.loadQueue

namespace LoadsEnd

theorem refl (s : State) : LoadsEnd s s := ⟨.refl s, .refl _⟩

theorem trans {s t u : State} (h : LoadsEnd s t) (k : LoadsEnd t u) : LoadsEnd s u :=
  ⟨h.alike.trans k.alike, h.queue.trans k.queue⟩

variable (s : State)

theorem respond (p : Port) (t : Tag) (v : Verdict) (rs : List Byte) : LoadsEnd s (respond s p t v rs) :=
  ⟨.respond s p t v rs, .refl _⟩

theorem withQueue {q : List LoadRec} (h : Shorter s.loadQueue q) (x : LoadState) :
    LoadsEnd s { s with loadQueue := q, load := x } := ⟨.of_eq rfl rfl rfl rfl rfl rfl rfl, h⟩

theorem withLoad (x : LoadState) : LoadsEnd s { s with load := x } := withQueue s (.refl _) x

theorem endRunning (e : LoadEnd) : LoadsEnd s (endRunning s e) := by
  unfold Machine.endRunning
  split
  · exact refl s
  · rename_i r rest queue
    exact (withQueue s (queue ▸ .tail r rest) .idle).trans (respond _ _ _ _ _)

theorem runLoadsFor (n : Nat) (s : State) : LoadsEnd s (runLoadsFor n s) := by
  induction n generalizing s with
  | zero => exact refl s
  | succ n ih =>
    unfold Machine.runLoadsFor
    split
    · exact withLoad s _
    · split
      · exact withLoad s _
      · exact (endRunning s _).trans (ih _)

theorem runLoads : LoadsEnd s (runLoads s) := runLoadsFor _ s

theorem endLoad (e : LoadEnd) : LoadsEnd s (endLoad s e) := (endRunning s e).trans (runLoads _)

theorem responds (l : List LoadRec) (e : LoadEnd) (s : State) :
    LoadsEnd s (l.foldl (fun s q => Machine.respond s q.port q.tag e.1 e.2) s) :=
  foldl_keeps (P := LoadsEnd s) (fun v _ h => h.trans (respond v _ _ _ _)) _ (refl s)

theorem removeQueued (which : LoadRec → Bool) (e : LoadEnd) : LoadsEnd s (removeQueued s which e) := by
  unfold Machine.removeQueued
  split
  · exact refl s
  · rename_i r rest queue
    exact (withQueue s (queue ▸ .filtered r rest _) s.load).trans (responds _ e _)

theorem placeStop (q : StopRequest) : LoadsEnd s (placeStop s q) := by
  unfold Machine.placeStop
  split
  · exact refl s
  · rename_i r rest queue
    have stopped : LoadsEnd s { s with loadQueue := { r with stop := some q } :: rest } :=
      withQueue s (queue ▸ .head rest rfl id fun _ => nofun) s.load
    split_ifs
    · exact refl s
    · exact stopped.trans (runLoads _)
    · exact stopped

theorem endLoadsWhere (which : LoadRec → Bool) (q : StopRequest) : LoadsEnd s (endLoadsWhere s which q) := by
  unfold Machine.endLoadsWhere
  dsimp only
  split
  · exact removeQueued s _ _
  · split_ifs
    · exact (removeQueued s _ _).trans (placeStop _ _)
    · exact removeQueued s _ _

end LoadsEnd

/-! ### The engine over its queue -/

namespace EngineLaw

/-- An IDLE engine has no load, one in READY runs a load without stop request (R141, R148): so it stands once the queue runs. -/
theorem runLoads (s : State) : EngineLaw (Machine.runLoads s) := by
  generalize hn : s.loadQueue.length = n
  induction n generalizing s with
  | zero =>
    have empty := List.length_eq_zero_iff.1 hn
    rw [runLoads_nil empty]
    exact ⟨iff_of_true rfl empty, nofun⟩
  | succ n ih =>
    obtain ⟨r, rest, queue⟩ := List.exists_cons_of_length_eq_add_one hn
    cases check : startCheck s r with
    | none =>
      rw [runLoads_ready queue check]
      refine ⟨iff_of_false nofun (by rw [queue]; nofun), fun _ x first => ?_⟩
      obtain rfl : r = x := by
        change s.loadQueue.head? = some x at first
        rw [queue] at first
        exact Option.some.inj first
      unfold startCheck at check
      split at check
      · cases check
      · assumption
    | some e =>
      have ended := runLoads_ended queue check
      rw [ended]
      refine ih _ ?_
      have length : rest.length = n := by
        rw [queue] at hn
        exact Nat.succ.inj hn
      unfold endRunning
      rw [queue]
      exact length

theorem endLoad (s : State) (e : LoadEnd) : EngineLaw (endLoad s e) := runLoads _

theorem of_eq {s t : State} (h : EngineLaw s) (queue : t.loadQueue = s.loadQueue) (load : t.load = s.load) : EngineLaw t :=
  ⟨by rw [queue, load]; exact h.idle, by rw [queue, load]; exact h.ready⟩

variable {s : State} (h : EngineLaw s)

include h

theorem removeQueued (which : LoadRec → Bool) (e : LoadEnd) : EngineLaw (removeQueued s which e) := by
  unfold Machine.removeQueued
  split
  · exact h
  · rename_i r rest queue
    refine foldl_keeps (P := EngineLaw) (fun v q k => of_eq (t := respond v q.port q.tag e.1 e.2) k rfl rfl) _
      ⟨?_, fun ready x first => h.ready ready x ?_⟩
    · rw [h.idle, queue]
      exact iff_of_false nofun nofun
    · rw [queue]
      exact first

theorem placeStop (q : StopRequest) : EngineLaw (placeStop s q) := by
  unfold Machine.placeStop
  split
  · exact h
  · rename_i r rest queue
    dsimp only
    split_ifs with there ready
    · exact h
    · exact runLoads _
    · refine ⟨?_, fun now => absurd now ready⟩
      rw [h.idle, queue]
      exact iff_of_false nofun nofun

theorem endLoadsWhere (which : LoadRec → Bool) (q : StopRequest) : EngineLaw (endLoadsWhere s which q) := by
  unfold Machine.endLoadsWhere
  dsimp only
  split
  · exact h.removeQueued _ _
  · split_ifs
    · exact (h.removeQueued _ _).placeStop _
    · exact h.removeQueued _ _

end EngineLaw

/-! ## The law over alike states -/

/-- The loads of `t` suit the teardowns of `s`. -/
structure LoadsSuit (s t : State) : Prop where
  law : LoadLaw t
  gone : ∀ c td, s.teardown c = some td → pastLoads td.step = true → loadTargets s c = false → loadTargets t c = false
  stops : ∀ c td, s.teardown c = some td → Stops c s.loadQueue → Stops c t.loadQueue

theorem LoadsEnd.suit {s t : State} (ends : LoadsEnd s t) (law : LoadLaw s) (engine : EngineLaw t) : LoadsSuit s t :=
  ⟨(ends.queue.law law.queue).loadLaw engine, fun c _ _ _ none' => ends.queue.targets c none',
    fun c _ _ stops => ends.queue.stops c stops⟩

namespace Holding

variable {s t : State} (h : Holding s)

include h

/-- The law holds of an alike state whose loads suit the teardowns. -/
theorem of_alike (same : Alike s t) (loads : LoadsSuit s t) : Holding t where
  holders f := by
    rw [(same.frames f).1, (same.frames f).2]
    exact h.holders f
  origins f := by
    rw [(same.frames f).2]
    exact h.origins f
  entries c g e there := by
    rw [same.entries] at there
    rw [(same.frames _).1, (same.frames _).2]
    exact h.entries c g e there
  offers i o there := by
    obtain ⟨o', at', frame, offerer, target⟩ := same.offer_of there
    obtain ⟨origin, other, single⟩ := h.offers i o' at'
    rw [(same.frames _).2, frame, offerer, target]
    refine ⟨origin, other, fun j x hx => ?_⟩
    obtain ⟨x', atx, frame', -, target'⟩ := same.offer_of hx
    rw [frame', target']
    exact single j x' atx
  teardowns c := by
    have kept := h.teardowns c
    rw [same.teardowns]
    split
    · rename_i home
      rw [home] at kept
      rw [(same.contexts c).1]
      exact kept
    · rename_i p home
      rw [home] at kept
      rw [same.states p]
      exact kept
  starters c td there := by
    rw [same.teardowns] at there
    have kept := h.starters c td there
    split
    · rename_i p tag starter
      rw [starter] at kept
      rw [(same.contexts c).2]
      exact kept
    · rename_i p starter
      rw [starter] at kept
      rw [(same.contexts c).2]
      exact kept
  noOffers c td there step i o at' := by
    rw [same.teardowns] at there
    obtain ⟨o', atS, -, offerer, -⟩ := same.offer_of at'
    rw [offerer]
    exact h.noOffers c td there step i o' atS
  noEntries c td there past := by
    rw [same.teardowns] at there
    obtain ⟨none', targets⟩ := h.noEntries c td there past
    exact ⟨fun g => (same.entries c g).trans (none' g), loads.gone c td there past targets⟩
  stopping c st there := by
    rw [same.teardowns] at there
    exact loads.stops c _ there (h.stopping c st there)
  drained c td there past p i f := by
    rw [same.teardowns] at there
    rw [same.inTransit]
    exact h.drained c td there past p i f
  departures c st f there := by
    rw [same.teardowns] at there
    rw [(same.frames f).2]
    exact h.departures c st f there
  flagged w listed who f frame := by
    rw [same.withdrawals] at listed
    rw [(same.frames f).2]
    exact h.flagged w listed who f frame
  drains w listed who := by
    rw [same.withdrawals] at listed
    rw [same.teardowns]
    exact h.drains w listed who
  records := by
    rw [same.withdrawals]
    exact h.records
  releases w listed who f frame := by
    rw [same.withdrawals] at listed ⊢
    rw [(same.frames f).1]
    exact h.releases w listed who f frame
  drainSets w listed p i := by
    rw [same.withdrawals] at listed
    simp only [same.inTransit]
    exact h.drainSets w listed p i
  transit p i c f there := by
    rw [same.inTransit] at there
    rw [same.withdrawals, (same.frames f).1, (same.frames f).2]
    exact h.transit p i c f there
  bindings p := by
    rw [same.bound, same.bindings, (same.contexts _).1, (same.contexts _).2]
    refine ⟨(h.bindings p).1, fun c t there => ?_⟩
    rw [(same.contexts c).1, (same.contexts c).2]
    exact (h.bindings p).2 c t there
  loads := loads.law

/-- The law holds of an alike state with the same load queue. -/
theorem congr (same : Alike s t) (queue : t.loadQueue = s.loadQueue) (idle : t.load = .idle ↔ s.load = .idle)
    (ready : t.load = .ready → s.load = .ready) : Holding t := by
  refine h.of_alike same ⟨⟨?_, ?_, ?_, ?_, ?_⟩, fun c _ _ _ none' => ?_, fun c _ _ stops => ?_⟩
  · rw [queue]
    exact h.loads.length
  · rw [queue]
    exact h.loads.counts
  · rw [queue]
    exact h.loads.queued
  · rw [queue, idle]
    exact h.loads.idle
  · rw [queue]
    exact fun r => h.loads.ready (ready r)
  · unfold loadTargets at none' ⊢
    rwa [queue]
  · rwa [queue]

/-- The law holds of an alike state with the same loads. -/
theorem same (same : Alike s t) (queue : t.loadQueue = s.loadQueue) (load : t.load = s.load) : Holding t :=
  h.congr same queue (by rw [load]) (by rw [load]; exact id)

/-- Loads end. -/
theorem loadsEnd (ends : LoadsEnd s t) (engine : EngineLaw t) : Holding t :=
  h.of_alike ends.alike (ends.suit h.loads engine)

end Holding

end Sys2Proof.Machine
end

section
/-! SUPPORT. How the law of holdings bears a change of one table. -/

namespace Sys2Proof.Machine

open Sys2Proof

/-! ## Home contexts -/

theorem homePort_homeOf (p : Port) : homePort (homeOf p) = some p := by
  revert p
  decide

theorem eq_homeOf {c : Ctx} {p : Port} (h : homePort c = some p) : c = homeOf p := by
  revert c p
  decide

theorem homePort_of_pooled {c : Ctx} (h : pooled c = true) : homePort c = none := by
  revert c
  decide

theorem pooled_homeOf (p : Port) : pooled (homeOf p) = false := by
  revert p
  decide

/-- Where a teardown may stand: at a context in TEARDOWN, or at the home context of a port in its own teardown (R37, R44). -/
def TeardownPlaced (s : State) (c : Ctx) : Prop :=
  match homePort c with
  | none => (s.ctx c).state = .teardown
  | some p => (s.port p).state = .teardown (.contexts c)

/-- Who may have started a teardown (R33, R44). -/
def StarterFits (s : State) (c : Ctx) : Starter → Prop
  | .destroy p _ => homePort c = none ∧ (s.ctx c).owner = some p
  | .portReset p => (s.ctx c).owner = some p

theorem TeardownPlaced.of_pooled {s : State} {c : Ctx} (pool : pooled c = true) (state : (s.ctx c).state = .teardown) :
    TeardownPlaced s c := by
  unfold TeardownPlaced
  rw [homePort_of_pooled pool]
  exact state

theorem TeardownPlaced.of_home {s : State} {p : Port} (state : (s.port p).state = .teardown (.contexts (homeOf p))) :
    TeardownPlaced s (homeOf p) := by
  unfold TeardownPlaced
  rw [homePort_homeOf]
  exact state

/-! ## Holder lists -/

/-- One record stands for a context in a holder list. -/
theorem holder_unique {hs : List Holder} (nodup : (hs.map Holder.ctx).Nodup) {h k : Holder} (hh : h ∈ hs) (hk : k ∈ hs)
    (same : h.ctx = k.ctx) : h = k :=
  List.inj_on_of_nodup_map nodup hh hk same

/-- A co-holder is not the origin. -/
theorem coHolder_ne_head {hs : List Holder} (nodup : (hs.map Holder.ctx).Nodup) {h k : Holder} (tail : h ∈ hs.tail)
    (head : hs.head? = some k) : h.ctx ≠ k.ctx := by
  cases hs with
  | nil => cases head
  | cons x rest =>
    obtain rfl : x = k := Option.some.inj head
    intro same
    exact (List.nodup_cons.1 nodup).1 (same ▸ List.mem_map_of_mem tail)

theorem originOf_iff (hs : List Holder) (c : Ctx) : originOf hs = some c ↔ ∃ h, hs.head? = some h ∧ h.ctx = c := by
  unfold originOf
  rw [Option.map_eq_some_iff]

theorem holds_eq_false (hs : List Holder) (c : Ctx) : holds hs c = false ↔ ∀ h ∈ hs, h.ctx ≠ c := by
  unfold holds
  rw [List.any_eq_false]
  simp only [beq_iff_eq, ne_eq]

theorem exceeds_readWrite (r : Rights) : exceeds r .readWrite = false := by
  cases r <;> rfl

theorem anyWithdrawing_eq_false (hs : List Holder) : anyWithdrawing hs = false ↔ ∀ h ∈ hs, h.withdrawing = false := by
  unfold anyWithdrawing
  rw [List.any_eq_false]
  simp only [Bool.not_eq_true]

/-! ## What the law gives -/

namespace Holding

variable {s : State} (h : Holding s)

include h

theorem placed {c : Ctx} {td : Teardown} (there : s.teardown c = some td) : TeardownPlaced s c :=
  h.teardowns c (by rw [there]; rfl)

theorem starter {c : Ctx} {td : Teardown} (there : s.teardown c = some td) : StarterFits s c td.starter := by
  have kept := h.starters c td there
  unfold StarterFits
  split
  · rename_i starter
    rw [starter] at kept
    exact kept
  · rename_i starter
    rw [starter] at kept
    exact kept

/-- No teardown of a pooled context outside TEARDOWN. -/
theorem noTeardown_of_pooled {c : Ctx} (pool : pooled c = true) (state : (s.ctx c).state ≠ .teardown) :
    s.teardown c = none := by
  cases there : s.teardown c with
  | none => rfl
  | some td =>
    have placed := h.placed there
    unfold TeardownPlaced at placed
    rw [homePort_of_pooled pool] at placed
    exact absurd placed state

/-- No teardown of a home context outside its port's. -/
theorem noTeardown_of_home {p : Port} (state : (s.port p).state ≠ .teardown (.contexts (homeOf p))) :
    s.teardown (homeOf p) = none := by
  cases there : s.teardown (homeOf p) with
  | none => rfl
  | some td =>
    have placed := h.placed there
    unfold TeardownPlaced at placed
    rw [homePort_homeOf] at placed
    exact absurd placed state

/-- No teardown of a context that acts at a port in UP. -/
theorem noTeardown_of_acting (law : ContextLaw s) {p : Port} {c : Ctx} (acting : Acting s p c) (up : (s.port p).state = .up) :
    s.teardown c = none := by
  cases home : homePort c with
  | none =>
    cases there : s.teardown c with
    | none => rfl
    | some td =>
      have placed := h.placed there
      unfold TeardownPlaced at placed
      rw [home] at placed
      rw [acting.live] at placed
      cases placed
  | some q =>
    obtain rfl := eq_homeOf home
    obtain rfl : q = p := Option.some.inj ((law.home q).2.symm.trans acting.owner)
    exact h.noTeardown_of_home (by rw [up]; nofun)

/-- An entry rests on the one record of its context, which is not withdrawing. -/
theorem not_withdrawing_of_entry {c : Ctx} {g : Page} {e : MapEntry} (there : s.entry c g = some e) {x : Holder}
    (listed : x ∈ (s.frame e.frame).holders) (ctx : x.ctx = c) : x.withdrawing = false := by
  obtain ⟨-, y, mem, ctx', free, -⟩ := h.entries c g e there
  rw [holder_unique (h.holders e.frame).2 listed mem (ctx.trans ctx'.symm)]
  exact free

/-- Only a HELD frame has a holder list. -/
theorem noHolders {f : Frame} (state : (s.frame f).state ≠ .held) : (s.frame f).holders = [] := by
  by_contra some
  exact state ((h.holders f).1.2 some)

/-- No offer is on a frame that is not HELD. -/
theorem noOffer_of_not_held {f : Frame} (state : (s.frame f).state ≠ .held) {i : OfferId} {o : OfferRec}
    (there : s.offer i = some o) : o.frame ≠ f := by
  rintro rfl
  have origin := (h.offers i o there).1
  rw [h.noHolders state] at origin
  cases origin

/-- The one withdrawal of a context and a frame. -/
theorem record_unique {w w' : Withdrawal} (hw : w ∈ s.withdrawals) (hw' : w' ∈ s.withdrawals) (ctx : w.ctx = w'.ctx)
    (frame : w.frame = w'.frame) : w = w' :=
  List.inj_on_of_nodup_map h.records.2 hw hw' (by rw [ctx, frame])

/-! ## Change of a frame -/

end Holding

/-- What a frame's record must be for what rests on it. -/
structure FrameHolds (s : State) (f : Frame) (r : FrameRec) : Prop where
  holders : (r.state = .held ↔ r.holders ≠ []) ∧ (r.holders.map Holder.ctx).Nodup
  origins : ∀ h, r.holders.head? = some h → h.rights = .readWrite
  entries : ∀ c g e, s.entry c g = some e → e.frame = f →
    r.state = .held ∧ ∃ h ∈ r.holders, h.ctx = c ∧ h.withdrawing = false ∧ exceeds e.rights h.rights = false
  offers : ∀ i o, s.offer i = some o → o.frame = f →
    originOf r.holders = some o.offerer ∧ holds r.holders o.target = false
  departures : ∀ c st, s.teardown c = some ⟨st, .departure f⟩ →
    ∃ h, r.holders.head? = some h ∧ h.ctx = c ∧ h.withdrawing = true
  flagged : ∀ w ∈ s.withdrawals, ofCoHolder w.requester = true → w.frame = some f →
    ∃ h ∈ r.holders.tail, h.ctx = w.ctx ∧ h.withdrawing = true
  releases : ∀ w ∈ s.withdrawals, ofRelease w.requester = true → w.frame = some f → r.state = .reclaim
  transit : ∀ p i c, InTransit s p i c f → (r.state = .held ∧ ∃ h ∈ r.holders, h.ctx = c) ∨
    (r.state = .reclaim ∧ ∃ w ∈ s.withdrawals,
      ofRelease w.requester = true ∧ w.ctx = c ∧ w.frame = some f ∧ (p, i) ∈ w.drain)

namespace Holding

variable {s : State} (h : Holding s)

include h

theorem setFrame {f : Frame} {r : FrameRec} (new : FrameHolds s f r) : Holding (s.setFrame f r) := by
  have frame (k : Frame) : (s.setFrame f r).frame k = if k = f then r else s.frame k := State.frame_setFrame ..
  refine { h with
    holders := fun k => ?_, origins := fun k x => ?_, entries := fun c g e there => ?_, offers := fun i o there => ?_,
    departures := fun c st k there => ?_, flagged := fun w listed who k at' => ?_,
    releases := fun w listed who k at' => ?_, transit := fun p i c k there => ?_, loads := ?_ }
  · rw [frame]
    split_ifs
    · exact new.holders
    · exact h.holders k
  · rw [frame]
    split_ifs
    · exact new.origins x
    · exact h.origins k x
  · rw [frame]
    split_ifs with hk
    · exact new.entries c g e there hk
    · exact h.entries c g e there
  · obtain ⟨origin, other, single⟩ := h.offers i o there
    rw [frame]
    split_ifs with hk
    · obtain ⟨origin', other'⟩ := new.offers i o there hk
      exact ⟨origin', other', single⟩
    · exact ⟨origin, other, single⟩
  · rw [frame]
    split_ifs with hk
    · exact new.departures c st (hk ▸ there)
    · exact h.departures c st k there
  · rw [frame]
    split_ifs with hk
    · exact new.flagged w listed who (hk ▸ at')
    · exact h.flagged w listed who k at'
  · obtain ⟨state, only⟩ := h.releases w listed who k at'
    rw [frame]
    split_ifs with hk
    · exact ⟨new.releases w listed who (hk ▸ at'), only⟩
    · exact ⟨state, only⟩
  · rw [frame]
    split_ifs with hk
    · subst hk
      exact new.transit p i c there
    · exact h.transit p i c k there
  · exact ⟨h.loads.length, h.loads.counts, h.loads.queued, h.loads.idle, h.loads.ready⟩

/-- The law of loads speaks of the load queue and the engine alone. -/
theorem loads_of {t : State} (queue : t.loadQueue = s.loadQueue) (load : t.load = s.load) : LoadLaw t := by
  refine ⟨?_, ?_, ?_, ?_, ?_⟩
  · rw [queue]
    exact h.loads.length
  · rw [queue]
    exact h.loads.counts
  · rw [queue]
    exact h.loads.queued
  · rw [queue, load]
    exact h.loads.idle
  · rw [queue, load]
    exact h.loads.ready

/-- A frame on which nothing rests goes from one state outside HELD to another. -/
theorem setIdleFrame {f : Frame} {r : FrameRec} (before : (s.frame f).state ≠ .held) (after : r.state ≠ .held)
    (empty : r.holders = []) (unreleased : ∀ w ∈ s.withdrawals, ofRelease w.requester = true → w.frame ≠ some f) :
    Holding (s.setFrame f r) := by
  refine h.setFrame ⟨?_, fun x head => ?_, fun c g e there at' => ?_, fun i o there at' => ?_, fun c st there => ?_,
    fun w listed who at' => ?_, fun w listed who at' => ?_, fun p i c there => ?_⟩
  · rw [empty]
    exact ⟨iff_of_false after fun none => none rfl, List.nodup_nil⟩
  · rw [empty] at head
    cases head
  · exact absurd (at' ▸ (h.entries c g e there).1) before
  · exact absurd at' (h.noOffer_of_not_held before there)
  · obtain ⟨x, head, -⟩ := h.departures c st f there
    rw [h.noHolders before] at head
    cases head
  · obtain ⟨x, mem, -⟩ := h.flagged w listed who f at'
    rw [h.noHolders before] at mem
    cases mem
  · exact absurd at' (unreleased w listed who)
  · rcases h.transit p i c f there with ⟨held, -⟩ | ⟨-, w, listed, who, -, at', -⟩
    · exact absurd held before
    · exact absurd at' (unreleased w listed who)

/-- A FREE frame becomes HELD by one context (R13). -/
theorem setClaimedFrame {f : Frame} {r : FrameRec} {c : Ctx} (before : (s.frame f).state = .free) (after : r.state = .held)
    (holders : r.holders = [⟨c, .readWrite, false⟩]) : Holding (s.setFrame f r) := by
  have notHeld : (s.frame f).state ≠ .held := by rw [before]; nofun
  refine h.setFrame ⟨?_, fun x head => ?_, fun d g e there at' => ?_, fun i o there at' => ?_, fun d st there => ?_,
    fun w listed who at' => ?_, fun w listed who at' => ?_, fun p i d there => ?_⟩
  · rw [holders]
    exact ⟨iff_of_true after nofun, List.nodup_singleton c⟩
  · rw [holders] at head
    obtain rfl := Option.some.inj head
    rfl
  · exact absurd (at' ▸ (h.entries d g e there).1) notHeld
  · exact absurd at' (h.noOffer_of_not_held notHeld there)
  · obtain ⟨x, head, -⟩ := h.departures d st f there
    rw [h.noHolders notHeld] at head
    cases head
  · obtain ⟨x, mem, -⟩ := h.flagged w listed who f at'
    rw [h.noHolders notHeld] at mem
    cases mem
  · have reclaim := (h.releases w listed who f at').1
    rw [before] at reclaim
    cases reclaim
  · rcases h.transit p i d f there with ⟨held, -⟩ | ⟨reclaim, -⟩
    · exact absurd held notHeld
    · rw [before] at reclaim
      cases reclaim

/-! ## Change of a context -/

/-- A context changes that no teardown and no binding rests on. -/
theorem setCtx {c : Ctx} {r : CtxRec} (idle : s.teardown c = none)
    (unbound : ∀ p, (s.port p).bound ≠ c ∧ ∀ t, (s.port p).binding ≠ .switching c t) : Holding (s.setCtx c r) := by
  have ctx {d : Ctx} (hd : d ≠ c) : (s.setCtx c r).ctx d = s.ctx d := by
    rw [State.ctx_setCtx, if_neg hd]
  refine { h with
    teardowns := fun d there => ?_, starters := fun d td there => ?_, bindings := fun p => ⟨?_, fun d t there => ?_⟩,
    loads := h.loads_of rfl rfl }
  · have other : d ≠ c := by
      rintro rfl
      change (s.teardown d).isSome = true at there
      rw [idle] at there
      cases there
    rw [ctx other]
    exact h.teardowns d there
  · have other : d ≠ c := by
      rintro rfl
      change s.teardown d = some td at there
      rw [idle] at there
      cases there
    rw [ctx other]
    exact h.starters d td there
  · show ((s.setCtx c r).ctx (s.port p).bound).state = .live ∧ ((s.setCtx c r).ctx (s.port p).bound).owner = some p
    rw [ctx (unbound p).1]
    exact (h.bindings p).1
  · rw [ctx fun same => (unbound p).2 t (same ▸ there)]
    exact (h.bindings p).2 d t there

/-! ## Change of the maps -/

/-- Entries are made on their holdings or go. -/
theorem withMaps {maps : Vector (Vector (Option MapEntry) 128) 16} (each : ∀ c g e,
    State.entry { s with maps := maps } c g = some e → s.entry c g = some e ∨
      (((s.frame e.frame).state = .held ∧ ∃ x ∈ (s.frame e.frame).holders,
          x.ctx = c ∧ x.withdrawing = false ∧ exceeds e.rights x.rights = false) ∧
        ∀ td, s.teardown c = some td → pastLoads td.step = false)) : Holding { s with maps := maps } := by
  refine { h with
    entries := fun c g e there => ?_, noEntries := fun c td there past => ?_, loads := h.loads_of rfl rfl }
  · rcases each c g e there with old | ⟨rests, -⟩
    · exact h.entries c g e old
    · exact rests
  · obtain ⟨none', targets⟩ := h.noEntries c td there past
    refine ⟨fun g => ?_, targets⟩
    cases now : State.entry { s with maps := maps } c g with
    | none => rfl
    | some e =>
      rcases each c g e now with old | ⟨-, early⟩
      · rw [none' g] at old
        cases old
      · rw [early td there] at past
        cases past

/-- Entries go. -/
theorem fewerEntries {maps : Vector (Vector (Option MapEntry) 128) 16}
    (each : ∀ c g e, State.entry { s with maps := maps } c g = some e → s.entry c g = some e) :
    Holding { s with maps := maps } :=
  h.withMaps fun c g e there => .inl (each c g e there)

/-! ## Change of the offers -/

/-- Offers go. -/
theorem fewerOffers {offers : Vector (Option OfferRec) 16}
    (each : ∀ i o, State.offer { s with offers := offers } i = some o → s.offer i = some o) :
    Holding { s with offers := offers } := by
  refine { h with
    offers := fun i o there => ?_, noOffers := fun c td there step i o at' => ?_, loads := h.loads_of rfl rfl }
  · obtain ⟨origin, other, single⟩ := h.offers i o (each i o there)
    exact ⟨origin, other, fun j x hx => single j x (each j x hx)⟩
  · exact h.noOffers c td there step i o (each i o at')

/-- An offer is made (R71). -/
theorem setOffer {i : OfferId} {o : OfferRec} (origin : originOf (s.frame o.frame).holders = some o.offerer)
    (other : holds (s.frame o.frame).holders o.target = false)
    (single : ∀ j x, s.offer j = some x → x.frame = o.frame → x.target ≠ o.target)
    (early : ∀ td, s.teardown o.offerer = some td → td.step = .offers) : Holding (s.setOffer i (some o)) := by
  have offer (j : OfferId) : (s.setOffer i (some o)).offer j = if j = i then some o else s.offer j := State.offer_setOffer ..
  refine { h with
    offers := fun j x there => ?_, noOffers := fun c td there step j x at' => ?_, loads := h.loads_of rfl rfl }
  · rw [offer] at there
    split_ifs at there with hj
    · cases there
      refine ⟨origin, other, fun k y hy frame target => ?_⟩
      rw [offer] at hy
      split_ifs at hy with hk
      · exact hk.trans hj.symm
      · exact absurd target (single k y hy frame)
    · obtain ⟨origin', other', single'⟩ := h.offers j x there
      refine ⟨origin', other', fun k y hy frame target => ?_⟩
      rw [offer] at hy
      split_ifs at hy with hk
      · cases hy
        exact absurd target.symm (single j x there frame.symm)
      · exact single' k y hy frame target
  · rw [offer] at at'
    split_ifs at at' with hj
    · cases at'
      intro same
      exact step (early td (same ▸ there))
    · exact h.noOffers c td there step j x at'

/-! ## Change of a teardown -/

/-- A teardown stands at a step. -/
theorem setTeardown {c : Ctx} {td : Teardown} (placed : TeardownPlaced s c) (starter : StarterFits s c td.starter)
    (noOffers : td.step ≠ .offers → ∀ i o, s.offer i = some o → o.offerer ≠ c)
    (noEntries : pastLoads td.step = true → (∀ g, s.entry c g = none) ∧ loadTargets s c = false)
    (stops : td.step = .loads → Stops c s.loadQueue)
    (drained : pastDrain td.step = true → ∀ p i f, ¬ InTransit s p i c f)
    (departs : ∀ f, td.step = .departure f →
      ∃ x, (s.frame f).holders.head? = some x ∧ x.ctx = c ∧ x.withdrawing = true)
    (drains : ∀ w ∈ s.withdrawals, w.requester = .teardown → w.ctx = c → td.step = .drain) :
    Holding (s.setTeardown c (some td)) := by
  have teardown (d : Ctx) : (s.setTeardown c (some td)).teardown d = if d = c then some td else s.teardown d :=
    State.teardown_setTeardown ..
  refine { h with
    teardowns := fun d there => ?_, starters := fun d x there => ?_, noOffers := fun d x there => ?_,
    noEntries := fun d x there => ?_, stopping := fun d st there => ?_, drained := fun d x there => ?_,
    departures := fun d st f there => ?_, drains := fun w listed who => ?_, loads := h.loads_of rfl rfl }
  · rw [teardown] at there
    split_ifs at there with hd
    · exact hd ▸ placed
    · exact h.teardowns d there
  · rw [teardown] at there
    split_ifs at there with hd
    · cases there
      subst hd
      obtain ⟨st, y⟩ := td
      cases st with
      | destroy p t => exact starter
      | portReset p => exact starter
    · exact h.starters d x there
  · rw [teardown] at there
    split_ifs at there with hd
    · cases there
      exact hd ▸ noOffers
    · exact h.noOffers d x there
  · rw [teardown] at there
    split_ifs at there with hd
    · cases there
      exact hd ▸ noEntries
    · exact h.noEntries d x there
  · rw [teardown] at there
    split_ifs at there with hd
    · cases there
      exact hd ▸ stops rfl
    · exact h.stopping d st there
  · rw [teardown] at there
    split_ifs at there with hd
    · cases there
      exact hd ▸ drained
    · exact h.drained d x there
  · rw [teardown] at there
    split_ifs at there with hd
    · cases there
      exact hd ▸ departs f rfl
    · exact h.departures d st f there
  · obtain ⟨frame, st, there⟩ := h.drains w listed who
    refine ⟨frame, ?_⟩
    rw [teardown]
    split_ifs with hd
    · refine ⟨td.starter, ?_⟩
      rw [← drains w listed who hd]
    · exact ⟨st, there⟩

/-- A teardown moves to another step (R36). -/
theorem withStep {c : Ctx} {st : Starter} {x y : TeardownStep} (there : s.teardown c = some ⟨st, x⟩)
    (offers : x = .offers → y = .offers)
    (noEntries : pastLoads y = true → pastLoads x = true ∨ ((∀ g, s.entry c g = none) ∧ loadTargets s c = false))
    (stops : y = .loads → x = .loads)
    (drained : pastDrain y = true → pastDrain x = true ∨ ∀ p i f, ¬ InTransit s p i c f)
    (departs : ∀ f, y = .departure f →
      ∃ h, (s.frame f).holders.head? = some h ∧ h.ctx = c ∧ h.withdrawing = true)
    (drains : x = .drain → (∀ w ∈ s.withdrawals, w.requester = .teardown → w.ctx ≠ c) ∨ y = .drain) :
    Holding (setStep s c y) := by
  rw [setStep_of_some there]
  refine h.setTeardown (h.placed there) (show StarterFits s c st from h.starter there)
    (fun step => h.noOffers c _ there fun same => step (offers same))
    (fun past => (noEntries past).elim (h.noEntries c _ there) id) (fun step => ?_)
    (fun past => (drained past).elim (h.drained c _ there) id) departs fun w listed who at' => ?_
  · obtain rfl := stops step
    exact h.stopping c st there
  · obtain ⟨-, st', here⟩ := h.drains w listed who
    rw [at', there] at here
    cases here
    exact (drains rfl).elim (fun none' => absurd at' (none' w listed who)) id

/-- A teardown ends. -/
theorem withoutTeardown {c : Ctx} (none' : ∀ w ∈ s.withdrawals, w.requester = .teardown → w.ctx ≠ c) :
    Holding (s.setTeardown c none) := by
  have teardown (d : Ctx) : (s.setTeardown c none).teardown d = if d = c then none else s.teardown d :=
    State.teardown_setTeardown ..
  have old {d : Ctx} {x : Teardown} (there : (s.setTeardown c none).teardown d = some x) : s.teardown d = some x := by
    rw [teardown] at there
    split_ifs at there
    exact there
  refine { h with
    teardowns := fun d there => ?_, starters := fun d x there => ?_,
    noOffers := fun d x there => h.noOffers d x (old there), noEntries := fun d x there => h.noEntries d x (old there),
    stopping := fun d st there => h.stopping d st (old there), drained := fun d x there => h.drained d x (old there),
    departures := fun d st f there => h.departures d st f (old there), drains := fun w listed who => ?_,
    loads := h.loads_of rfl rfl }
  · obtain ⟨x, at'⟩ := Option.isSome_iff_exists.1 there
    exact h.placed (old at')
  · have fits := h.starter (old there)
    obtain ⟨st, y⟩ := x
    cases st with
    | destroy p t => exact fits
    | portReset p => exact fits
  · obtain ⟨frame, st, there⟩ := h.drains w listed who
    refine ⟨frame, st, ?_⟩
    rw [teardown, if_neg (none' w listed who)]
    exact there

/-! ## Change of the withdrawal list -/

/-- Records with empty drain sets leave the list. -/
theorem fewerRecords {list : List Withdrawal} (sub : list.Sublist s.withdrawals)
    (gone : ∀ w ∈ s.withdrawals, w ∈ list ∨ w.drain = []) : Holding { s with withdrawals := list } := by
  have old {w : Withdrawal} (listed : w ∈ list) : w ∈ s.withdrawals := sub.subset listed
  refine { h with
    flagged := fun w listed => h.flagged w (old listed), drains := fun w listed => h.drains w (old listed),
    records := ⟨fun w listed => h.records.1 w (old listed), (sub.map _).nodup h.records.2⟩,
    releases := fun w listed who f at' => ?_, drainSets := fun w listed => h.drainSets w (old listed),
    transit := fun p i c f there => ?_, loads := h.loads_of rfl rfl }
  · obtain ⟨state, only⟩ := h.releases w (old listed) who f at'
    exact ⟨state, fun w' listed' => only w' (old listed')⟩
  · rcases h.transit p i c f there with held | ⟨state, w, listed, who, ctx, at', drains⟩
    · exact .inl held
    · refine .inr ⟨state, w, (gone w listed).resolve_right fun none' => ?_, who, ctx, at', drains⟩
      rw [none'] at drains
      cases drains

/-- A record is placed on the list, of a co-holder that is flagged, or of a teardown at its step 4 (R93). -/
theorem withRecord {w : Withdrawal} (coHolder : ∀ f, w.frame = some f → ofCoHolder w.requester = true ∧
      (s.frame f).state = .held ∧ ∃ x ∈ (s.frame f).holders.tail, x.ctx = w.ctx ∧ x.withdrawing = true)
    (teardown : w.frame = none → w.requester = .teardown ∧ ∃ st, s.teardown w.ctx = some ⟨st, .drain⟩)
    (new : ∀ x ∈ s.withdrawals, x.ctx = w.ctx → x.frame ≠ w.frame)
    (drain : ∀ p i, (p, i) ∈ w.drain ↔ ∃ f, InTransit s p i w.ctx f ∧ (w.frame = none ∨ w.frame = some f)) :
    Holding { s with withdrawals := s.withdrawals ++ [w] } := by
  have split {x : Withdrawal} (listed : x ∈ s.withdrawals ++ [w]) : x ∈ s.withdrawals ∨ x = w :=
    (List.mem_append.1 listed).imp_right List.mem_singleton.1
  have notRelease : ofRelease w.requester = false := by
    cases frame : w.frame with
    | none => rw [(teardown frame).1]; rfl
    | some f =>
      have who := (coHolder f frame).1
      cases asks : w.requester with
      | release p t => rw [asks] at who; cases who
      | leave p t => rfl
      | revoke p t => rfl
      | departure o => rfl
      | teardown => rfl
  refine { h with
    flagged := fun x listed who f at' => ?_, drains := fun x listed who => ?_,
    records := ⟨fun x listed who => ?_, ?_⟩, releases := fun x listed who f at' => ?_,
    drainSets := fun x listed => ?_, transit := fun p i c f there => ?_, loads := h.loads_of rfl rfl }
  · rcases split listed with old | rfl
    · exact h.flagged x old who f at'
    · exact (coHolder f at').2.2
  · rcases split listed with old | rfl
    · exact h.drains x old who
    · cases frame : x.frame with
      | none => exact ⟨rfl, (teardown frame).2⟩
      | some f =>
        have co := (coHolder f frame).1
        rw [who] at co
        cases co
  · rcases split listed with old | rfl
    · exact h.records.1 x old who
    · cases frame : x.frame with
      | none => exact absurd (teardown frame).1 who
      | some f => rfl
  · show ((s.withdrawals ++ [w]).map _).Nodup
    rw [List.map_append, List.map_singleton, List.nodup_append]
    refine ⟨h.records.2, List.nodup_singleton _, fun a ha b hb same => ?_⟩
    obtain ⟨x, listed, rfl⟩ := List.mem_map.1 ha
    cases List.mem_singleton.1 hb
    cases x
    cases w
    simp only [Prod.mk.injEq] at same
    exact new _ listed same.1 same.2
  · rcases split listed with old | rfl
    · obtain ⟨state, only⟩ := h.releases x old who f at'
      refine ⟨state, fun y listed' frame => ?_⟩
      rcases split listed' with old' | rfl
      · exact only y old' frame
      · have held := (coHolder f frame).2.1
        change (s.frame f).state = _ at held
        rw [state] at held
        cases held
    · rw [notRelease] at who
      cases who
  · rcases split listed with old | rfl
    · exact h.drainSets x old
    · exact drain
  · rcases h.transit p i c f there with held | ⟨state, x, listed, rest⟩
    · exact .inl held
    · exact .inr ⟨state, x, List.mem_append_left _ listed, rest⟩

/-! ## Change of a port -/

/-- A port's state or binding changes. -/
theorem setPort {p : Port} {r : PortRec} (transit : ∀ i, r.carrying i = (s.port p).carrying i)
    (state : (s.teardown (homeOf p)).isSome = true → r.state = .teardown (.contexts (homeOf p)))
    (bound : (s.ctx r.bound).state = .live ∧ (s.ctx r.bound).owner = some p)
    (binding : ∀ c t, r.binding = .switching c t → (s.ctx c).state = .live ∧ (s.ctx c).owner = some p) :
    Holding (s.setPort p r) := by
  have port (q : Port) : (s.setPort p r).port q = if q = p then r else s.port q := State.port_setPort ..
  have same (q : Port) (i : Slot) (c : Ctx) (f : Frame) : InTransit (s.setPort p r) q i c f ↔ InTransit s q i c f := by
    rw [carrying_iff, carrying_iff, port]
    split_ifs with hq
    · rw [transit, hq]
    · exact Iff.rfl
  refine { h with
    teardowns := fun c there => ?_, drained := fun c td there past q i f => ?_, drainSets := fun w listed q i => ?_,
    transit := fun q i c f there => ?_, bindings := fun q => ?_, loads := h.loads_of rfl rfl }
  · obtain ⟨td, at'⟩ := Option.isSome_iff_exists.1 there
    have placed := h.placed at'
    show TeardownPlaced _ c
    unfold TeardownPlaced at placed ⊢
    cases home : homePort c with
    | none =>
      rw [home] at placed
      exact placed
    | some q =>
      rw [home] at placed
      show ((s.setPort p r).port q).state = _
      rw [port]
      split_ifs with hq
      · subst hq
        obtain rfl := eq_homeOf home
        exact state there
      · exact placed
  · rw [same]
    exact h.drained c td there past q i f
  · simp only [same]
    exact h.drainSets w listed q i
  · exact h.transit q i c f ((same q i c f).1 there)
  · rw [port]
    split_ifs with hq
    · subst hq
      exact ⟨bound, binding⟩
    · exact h.bindings q

end Holding

end Sys2Proof.Machine
end

section
/-! PROOFS. Every act of a command keeps the law of holdings. -/

namespace Sys2Proof.Machine

open Sys2Proof

/-- The laws that the law of holdings and the law of counts are proved upon. -/
structure Grounds (s : State) : Prop where
  lists : ListsLaw s
  contexts : ContextLaw s
  tables : ∀ p, TablesLaw p (s.port p)

theorem Grounds.moves {s t : State} (g : Grounds s) (moves : Moves s t) : Grounds t :=
  ⟨moves.listsLaw g.lists, moves.contextLaw g.contexts, moves.tablesLaw g.tables⟩

/-! ## What operations leave alike -/

namespace Alike

theorem raiseMapCount (s : State) (f : Frame) : Alike s (raiseMapCount s f) := setFrame rfl rfl

theorem lowerMapCount (s : State) (f : Frame) : Alike s (lowerMapCount s f) := setFrame rfl rfl

theorem modCtx {s : State} {c : Ctx} {g : CtxRec → CtxRec} (state : (g (s.ctx c)).state = (s.ctx c).state)
    (owner : (g (s.ctx c)).owner = (s.ctx c).owner) : Alike s (modCtx s c g) := setCtx state owner

theorem modFrame {s : State} {f : Frame} {g : FrameRec → FrameRec} (state : (g (s.frame f)).state = (s.frame f).state)
    (holders : (g (s.frame f)).holders = (s.frame f).holders) : Alike s (modFrame s f g) := setFrame state holders

theorem makeEntry (s : State) (c : Ctx) (g : Page) (e : MapEntry) :
    Alike { s with maps := (makeEntry s c g e).maps } (makeEntry s c g e) := by
  unfold Machine.makeEntry
  split
  · exact (raiseMapCount (s.setEntry c g (some e)) e.frame).trans (modCtx rfl rfl)
  · split_ifs
    · exact refl _
    · exact (lowerMapCount (s.setEntry c g (some e)) _).trans (raiseMapCount _ _)

theorem clearEntry (s : State) (c : Ctx) (g : Page) :
    Alike { s with maps := (clearEntry s c g).maps } (clearEntry s c g) := by
  unfold Machine.clearEntry
  split
  · exact refl _
  · exact (lowerMapCount (s.setEntry c g none) _).trans (modCtx rfl rfl)

/-- The removal of an offer changes no frame's holding. -/
theorem removeOffer (s : State) (i : OfferId) : Alike (s.setOffer i none) (removeOffer s i) := by
  cases there : s.offer i with
  | none =>
    have same : Machine.removeOffer s i = s := by
      unfold Machine.removeOffer
      rw [there]
    rw [same]
    refine { refl s with offers := fun j => ?_ }
    rw [State.offer_setOffer]
    split_ifs with hj
    · rw [hj, there]
    · rfl
  | some o =>
    rw [removeOffer_of_some there]
    exact setFrame (s := s.setOffer i none) (f := o.frame) rfl rfl

theorem endOffer (s : State) (i : OfferId) (r : OfferEnd) (c : Ctx) : Alike (s.setOffer i none) (endOffer s i r c) := by
  cases there : s.offer i with
  | none =>
    rw [endOffer_of_none there]
    have removed := removeOffer s i
    unfold Machine.removeOffer at removed
    rw [there] at removed
    exact removed
  | some o =>
    rw [endOffer_of_some there]
    exact (removeOffer s i).trans (addressOwner _ _ _)

/-- One slot of a port's transit table changes. -/
theorem carrying_setSlot (r : PortRec) (i j : Slot) (x : TransitSlot) :
    (r.setSlot i x).carrying j = if j = i then x.entry.map fun e => (e.ctx, e.frame) else r.carrying j := by
  unfold PortRec.carrying
  rw [PortRec.slot_setSlot]
  split_ifs <;> rfl

end Alike

namespace Holding

variable {s : State} (h : Holding s)

include h

/-! ## Contexts and ports -/

/-- A pooled context acting at a port that does not use it enters TEARDOWN (R37). -/
theorem startPooledTeardown {c : Ctx} {st : Starter} (pool : pooled c = true) (live : (s.ctx c).state = .live)
    (starter : StarterFits s c st)
    (unbound : ∀ p, (s.port p).bound ≠ c ∧ ∀ t, (s.port p).binding ≠ .switching c t) :
    Holding (startPooledTeardown s c st) := by
  have idle := h.noTeardown_of_pooled pool (by rw [live]; nofun)
  have entered : Holding (modCtx s c fun x => { x with state := .teardown }) := h.setCtx idle unbound
  have record (d : Ctx) : ((modCtx s c fun x => { x with state := .teardown }).ctx d).owner = (s.ctx d).owner := by
    rw [ctx_modCtx]
    split_ifs with hd
    · rw [hd]
    · rfl
  refine entered.setTeardown (td := ⟨st, .offers⟩) (.of_pooled pool ?_) ?_ (absurd rfl) nofun nofun nofun nofun
    fun w listed who at' => ?_
  · rw [ctx_modCtx, if_pos rfl]
  · cases st with
    | destroy p t => exact ⟨starter.1, (record c).trans starter.2⟩
    | portReset p => exact (record c).trans starter
  · obtain ⟨-, st', there⟩ := h.drains w listed who
    rw [at', idle] at there
    cases there

theorem home_state {p : Port} (there : (s.teardown (homeOf p)).isSome = true) :
    (s.port p).state = .teardown (.contexts (homeOf p)) := by
  by_contra other
  rw [h.noTeardown_of_home other] at there
  cases there

/-- What a port in UP uses is LIVE and its own; what another port uses is that one's. -/
theorem unbound_of_owner {c : Ctx} {p : Port} (owner : (s.ctx c).owner = some p)
    (own : (s.port p).bound ≠ c ∧ ∀ t, (s.port p).binding ≠ .switching c t) (q : Port) :
    (s.port q).bound ≠ c ∧ ∀ t, (s.port q).binding ≠ .switching c t := by
  by_cases hq : q = p
  · exact hq ▸ own
  · have other {d : Ctx} (owned : (s.ctx d).owner = some q) : d ≠ c := by
      rintro rfl
      rw [owner] at owned
      exact hq (Option.some.inj owned).symm
    exact ⟨other (h.bindings q).1.2, fun t there => other ((h.bindings q).2 c t there).2 rfl⟩

/-- A context in no use is bound at no port. -/
theorem unbound_of_not_live {c : Ctx} (state : (s.ctx c).state ≠ .live) (q : Port) :
    (s.port q).bound ≠ c ∧ ∀ t, (s.port q).binding ≠ .switching c t :=
  ⟨fun same => state (same ▸ (h.bindings q).1.1), fun t there => state ((h.bindings q).2 c t there).1⟩

theorem completeSwitch {p : Port} {c : Ctx} {t : Tag} (binding : (s.port p).binding = .switching c t) :
    Holding (completeSwitch s p) := by
  unfold Machine.completeSwitch
  rw [binding]
  have bound : Holding (modPort s p fun x => { x with bound := c, binding := .settled }) :=
    h.setPort (fun _ => rfl) h.home_state ((h.bindings p).2 c t binding) nofun
  exact bound.same (.respond _ _ _ _ _) rfl rfl

end Holding

end Sys2Proof.Machine
end

section
/-! PROOFS. Every act of a command keeps the law of holdings: accesses, frames, entries, loads and offers. -/

namespace Sys2Proof.Machine

open Sys2Proof

/-! ## Accesses in transit -/

theorem mem_map_withdrawals {l : List Withdrawal} {g : Withdrawal → Withdrawal} {P : Withdrawal → Prop}
    (h : ∀ w ∈ l, P (g w)) : ∀ w ∈ l.map g, P w := by
  intro w listed
  obtain ⟨x, old, rfl⟩ := List.mem_map.1 listed
  exact h x old

/-- The drain sets change and nothing else of the records. -/
structure SameRecord (w w' : Withdrawal) : Prop where
  ctx : w'.ctx = w.ctx
  frame : w'.frame = w.frame
  requester : w'.requester = w.requester

/-- What the checks of R49 leave. -/
theorem of_holdingFault {s : State} {c : Ctx} {f : Frame} {r : Rights}
    (passed : holdingFault s c f r = none) : (s.frame f).state = .held ∧
      ∃ x ∈ (s.frame f).holders, x.ctx = c ∧ x.withdrawing = false ∧ exceeds r x.rights = false := by
  unfold holdingFault at passed
  split_ifs at passed with held
  refine ⟨not_not.1 held, ?_⟩
  split at passed
  · cases passed
  · rename_i x found
    split_ifs at passed with flag rights
    exact ⟨x, List.mem_of_find?_eq_some found, beq_iff_eq.1 (List.find?_some found :), Bool.not_eq_true _ ▸ flag,
      Bool.not_eq_true _ ▸ rights⟩

namespace Holding

variable {s : State} (h : Holding s)

include h

/-- The transit table of a port changes, with the drain sets. -/
theorem setTransit {p : Port} {r : PortRec} {g : Withdrawal → Withdrawal} (kept : ∀ w, SameRecord w (g w))
    (state : r.state = (s.port p).state) (bound : r.bound = (s.port p).bound) (binding : r.binding = (s.port p).binding)
    (drained : ∀ c td, s.teardown c = some td → pastDrain td.step = true → ∀ q i f, ¬ InTransit (s.setPort p r) q i c f)
    (drainSets : ∀ w ∈ s.withdrawals, ∀ q i, (q, i) ∈ (g w).drain ↔
      ∃ f, InTransit (s.setPort p r) q i w.ctx f ∧ (w.frame = none ∨ w.frame = some f))
    (transit : ∀ q i c f, InTransit (s.setPort p r) q i c f →
      ((s.frame f).state = .held ∧ ∃ h ∈ (s.frame f).holders, h.ctx = c) ∨
        ((s.frame f).state = .reclaim ∧ ∃ w ∈ s.withdrawals,
          ofRelease w.requester = true ∧ w.ctx = c ∧ w.frame = some f ∧ (q, i) ∈ (g w).drain)) :
    Holding { s.setPort p r with withdrawals := s.withdrawals.map g } := by
  have port (q : Port) : (s.setPort p r).port q = if q = p then r else s.port q := State.port_setPort ..
  have states (q : Port) : ((s.setPort p r).port q).state = (s.port q).state := by
    rw [port]
    split_ifs with hq
    · rw [state, hq]
    · rfl
  have records : ((s.withdrawals.map g).map fun w => (w.ctx, w.frame)) = s.withdrawals.map fun w => (w.ctx, w.frame) := by
    rw [List.map_map]
    exact List.map_congr_left fun w _ => by simp only [Function.comp, (kept w).ctx, (kept w).frame]
  refine { h with
    teardowns := fun c there => ?_, drained := drained
    flagged := mem_map_withdrawals fun w listed who f frame => ?_
    drains := mem_map_withdrawals fun w listed who => ?_
    records := ⟨mem_map_withdrawals fun w listed who => ?_, ?_⟩
    releases := mem_map_withdrawals fun w listed who f frame => ?_
    drainSets := mem_map_withdrawals fun w listed q i => ?_
    transit := fun q i c f there => ?_, bindings := fun q => ?_, loads := h.loads_of rfl rfl }
  · obtain ⟨td, at'⟩ := Option.isSome_iff_exists.1 there
    have placed := h.placed at'
    show TeardownPlaced _ c
    unfold TeardownPlaced at placed ⊢
    cases home : homePort c with
    | none =>
      rw [home] at placed
      exact placed
    | some q =>
      rw [home] at placed
      exact (states q).trans placed
  · rw [(kept w).ctx]
    rw [(kept w).requester] at who
    rw [(kept w).frame] at frame
    exact h.flagged w listed who f frame
  · rw [(kept w).requester] at who
    rw [(kept w).frame, (kept w).ctx]
    exact h.drains w listed who
  · rw [(kept w).requester] at who
    rw [(kept w).frame]
    exact h.records.1 w listed who
  · show (List.map _ (s.withdrawals.map g)).Nodup
    rw [records]
    exact h.records.2
  · rw [(kept w).requester] at who
    rw [(kept w).frame] at frame
    obtain ⟨reclaim, only⟩ := h.releases w listed who f frame
    refine ⟨reclaim, mem_map_withdrawals fun w' listed' frame' => ?_⟩
    rw [(kept w').frame] at frame'
    rw [only w' listed' frame']
  · rw [(kept w).ctx, (kept w).frame]
    exact drainSets w listed q i
  · rcases transit q i c f there with held | ⟨reclaim, w, listed, who, ctx, frame, drains⟩
    · exact .inl held
    · exact .inr ⟨reclaim, g w, List.mem_map_of_mem listed, (kept w).requester ▸ who, (kept w).ctx.trans ctx,
        (kept w).frame.trans frame, drains⟩
  · have same : ((s.setPort p r).port q).bound = (s.port q).bound ∧ ((s.setPort p r).port q).binding = (s.port q).binding := by
      rw [port]
      split_ifs with hq
      · rw [bound, binding, hq]
        exact ⟨rfl, rfl⟩
      · exact ⟨rfl, rfl⟩
    refine ⟨?_, fun c t there => (h.bindings q).2 c t (same.2.symm.trans there)⟩
    show (s.ctx ((s.setPort p r).port q).bound).state = .live ∧ (s.ctx ((s.setPort p r).port q).bound).owner = some q
    rw [same.1]
    exact (h.bindings q).1

/-- Nobody waits for an access that rests on a valid entry (R47, R93). -/
theorem not_withdrawn {c : Ctx} {g : Page} {e : MapEntry} (there : s.entry c g = some e) {w : Withdrawal}
    (listed : w ∈ s.withdrawals) (ctx : w.ctx = c) : w.frame ≠ none ∧ w.frame ≠ some e.frame := by
  refine ⟨fun frame => ?_, fun frame => ?_⟩
  · have who : w.requester = .teardown := by
      by_contra other
      have some' := h.records.1 w listed other
      rw [frame] at some'
      cases some'
    obtain ⟨-, st, step⟩ := h.drains w listed who
    have none' := (h.noEntries w.ctx _ step rfl).1 g
    rw [ctx, there] at none'
    cases none'
  · have held := (h.entries c g e there).1
    have coHolder (who : ofCoHolder w.requester = true) : False := by
      obtain ⟨x, tail, same, flag⟩ := h.flagged w listed who e.frame frame
      have free := h.not_withdrawing_of_entry there (List.mem_of_mem_tail tail) (same.trans ctx)
      rw [flag] at free
      cases free
    cases who : w.requester with
    | release p t =>
      have reclaim := (h.releases w listed (by rw [who]; rfl) e.frame frame).1
      rw [held] at reclaim
      cases reclaim
    | leave p t => exact coHolder (by rw [who]; rfl)
    | revoke p t => exact coHolder (by rw [who]; rfl)
    | departure o => exact coHolder (by rw [who]; rfl)
    | teardown =>
      have none' := (h.drains w listed who).1
      rw [frame] at none'
      cases none'

/-- An access is accepted: it rests on a valid entry (R123). -/
theorem allocate {p : Port} {i : Slot} {e : TransitEntry} {g : Page} {m : MapEntry}
    (free : ((s.port p).slot i).entry = none) (mapped : s.entry e.ctx g = some m) (frame : e.frame = m.frame) :
    Holding (allocate s p i e) := by
  obtain ⟨held, x, listed, ctx, -, -⟩ := h.entries e.ctx g m mapped
  let r : PortRec := { (s.port p).setSlot i ⟨((s.port p).slot i).gen + 1, some e⟩ with
    issueQueue := (s.port p).issueQueue ++ [i]
    plainCount := if e.mode = .plain then (s.port p).plainCount + 1 else (s.port p).plainCount }
  have now (q : Port) (j : Slot) (c : Ctx) (f : Frame) : InTransit (s.setPort p r) q j c f ↔
      if q = p ∧ j = i then e.ctx = c ∧ e.frame = f else InTransit s q j c f := by
    rw [carrying_iff, State.port_setPort]
    split_ifs with hq hj hj
    · show (PortRec.carrying (PortRec.setSlot (s.port p) i _) j = _) ↔ _
      rw [Alike.carrying_setSlot, if_pos hj.2]
      simp only [Option.map_some, Option.some.injEq, Prod.mk.injEq]
    · show (PortRec.carrying (PortRec.setSlot (s.port p) i _) j = _) ↔ _
      rw [Alike.carrying_setSlot, if_neg fun same => hj ⟨hq, same⟩, carrying_iff, hq]
    · exact absurd hj.1 hq
    · rw [carrying_iff]
  have empty (c : Ctx) (f : Frame) : ¬ InTransit s p i c f := by
    rintro ⟨y, there, -⟩
    rw [free] at there
    cases there
  have whole : Holding { s.setPort p r with withdrawals := s.withdrawals.map id } := by
    refine h.setTransit (fun w => ⟨rfl, rfl, rfl⟩) rfl rfl rfl (fun c td there past q j f => ?_)
      (fun w at' q j => ?_) fun q j c f there => ?_
    · rw [now]
      split_ifs with new
      · rintro ⟨rfl, -⟩
        have pastLoad : pastLoads td.step = true := by
          cases step : td.step with
          | offers => rw [step] at past; cases past
          | loads => rw [step] at past; cases past
          | drain => rfl
          | frames => rfl
          | turn f => rfl
          | departure f => rfl
        have none' := (h.noEntries e.ctx td there pastLoad).1 g
        rw [mapped] at none'
        cases none'
      · exact h.drained c td there past q j f
    · show (q, j) ∈ w.drain ↔ _
      rw [h.drainSets w at' q j]
      refine exists_congr fun f => and_congr_left fun which => ?_
      rw [now]
      split_ifs with new
      · rw [new.1, new.2]
        refine iff_of_false (empty _ _) ?_
        rintro ⟨same, rfl⟩
        obtain ⟨notAll, notThis⟩ := h.not_withdrawn mapped at' same.symm
        rw [frame] at which
        exact which.elim notAll notThis
      · exact Iff.rfl
    · rw [now] at there
      split_ifs at there with new
      · obtain ⟨rfl, rfl⟩ := there
        rw [frame]
        exact .inl ⟨held, x, listed, ctx⟩
      · exact h.transit q j c f there
  refine whole.same (t := Machine.allocate s p i e) { Alike.refl _ with withdrawals := ?_ } rfl rfl
  exact (List.map_id _).symm

/-- An access ends, and leaves every drain set (R96, R133). -/
theorem free (p : Port) (i : Slot) (e : TransitEntry) : Holding (leaveDrains (dropEntry s p i e) p i) := by
  let r : PortRec := { (s.port p).setSlot i ⟨((s.port p).slot i).gen, none⟩ with
    plainCount := if e.mode = .plain then (s.port p).plainCount - 1 else (s.port p).plainCount }
  have now (q : Port) (j : Slot) (c : Ctx) (f : Frame) : InTransit (s.setPort p r) q j c f ↔
      (q, j) ≠ (p, i) ∧ InTransit s q j c f := by
    rw [carrying_iff, carrying_iff, State.port_setPort]
    split_ifs with hq
    · show (PortRec.carrying (PortRec.setSlot (s.port p) i _) j = _) ↔ _
      rw [Alike.carrying_setSlot]
      split_ifs with hj
      · exact iff_of_false nofun fun both => both.1 (by rw [hq, hj])
      · rw [hq]
        exact (and_iff_right fun same => hj (Prod.mk.inj same).2).symm
    · exact (and_iff_right fun same => hq (Prod.mk.inj same).1).symm
  refine h.setTransit (p := p) (r := r) (g := fun w => { w with drain := w.drain.filter fun x => x != (p, i) })
    (fun w => ⟨rfl, rfl, rfl⟩) rfl rfl rfl (fun c td there past q j f stands => ?_) (fun w at' q j => ?_)
    fun q j c f there => ?_
  · exact h.drained c td there past q j f ((now q j c f).1 stands).2
  · show (q, j) ∈ w.drain.filter _ ↔ _
    rw [List.mem_filter, h.drainSets w at' q j, bne_iff_ne]
    simp only [now]
    constructor
    · rintro ⟨⟨f, stands, which⟩, other⟩
      exact ⟨f, ⟨other, stands⟩, which⟩
    · rintro ⟨f, ⟨other, stands⟩, which⟩
      exact ⟨⟨f, stands, which⟩, other⟩
  · obtain ⟨other, stands⟩ := (now q j c f).1 there
    refine (h.transit q j c f stands).imp_right ?_
    rintro ⟨reclaim, w, listed, who, ctx, frame, drains⟩
    exact ⟨reclaim, w, listed, who, ctx, frame, List.mem_filter.2 ⟨drains, bne_iff_ne.2 other⟩⟩

/-! ## Frames -/

/-- Free frames are claimed, one after the other (R13). -/
theorem claimed (c : Ctx) {l : List Frame} (nodup : l.Nodup) (free : ∀ f ∈ l, (s.frame f).state = .free) :
    Holding (l.foldl (fun s f => modFrame s f (claimedFrame c)) s) := by
  induction l generalizing s with
  | nil => exact h
  | cons f l ih =>
    obtain ⟨fresh, nodup⟩ := List.nodup_cons.1 nodup
    have first : Holding (modFrame s f (claimedFrame c)) := h.setClaimedFrame (free f (.head _)) rfl rfl
    refine ih first nodup fun k hk => ?_
    rw [frame_modFrame, if_neg (by rintro rfl; exact fresh hk)]
    exact free k (.tail _ hk)

theorem claimFrames (lists : ListsLaw s) (c : Ctx) (n : Nat) : Holding (claimFrames s c n) := by
  have dropped : Holding { s with freeList := s.freeList.drop n } := h.same (.of_eq rfl rfl rfl rfl rfl rfl rfl) rfl rfl
  have frames := dropped.claimed c ((s.freeList.take_sublist n).nodup lists.freeNodup) fun f hf =>
    (lists.free f).1 (List.mem_of_mem_take hf)
  exact frames.same (t := modCtx _ c fun x => { x with charged := x.charged + n }) (.modCtx rfl rfl) rfl rfl

/-- The scrub engine's frame leaves SCRUB (R112, R113). -/
theorem leaveScrub {f : Frame} {r : FrameRec} (before : (s.frame f).state = .scrub) (after : r.state ≠ .held)
    (holders : r.holders = (s.frame f).holders) : Holding (s.setFrame f r) := by
  have notHeld : (s.frame f).state ≠ .held := by rw [before]; nofun
  refine h.setIdleFrame notHeld after (holders.trans (h.noHolders notHeld)) fun w listed who frame => ?_
  have reclaim := (h.releases w listed who f frame).1
  rw [before] at reclaim
  cases reclaim

/-! ## Entries -/

theorem makeEntry {c : Ctx} {g : Page} {e : MapEntry} (rests : holdingFault s c e.frame e.rights = none)
    (early : ∀ td, s.teardown c = some td → pastLoads td.step = false) : Holding (makeEntry s c g e) := by
  have maps : Holding { s with maps := (Machine.makeEntry s c g e).maps } := by
    refine h.withMaps fun d k x there => ?_
    change (Machine.makeEntry s c g e).entry d k = some x at there
    rw [entry_makeEntry] at there
    split_ifs at there with hd
    · cases there
      obtain ⟨rfl, -⟩ := hd
      exact .inr ⟨of_holdingFault rests, early⟩
    · exact .inl there
  exact maps.same (.makeEntry s c g e) (by rw [makeEntry_frame]) (by rw [makeEntry_frame])

theorem clearEntry (c : Ctx) (g : Page) : Holding (clearEntry s c g) := by
  have maps : Holding { s with maps := (Machine.clearEntry s c g).maps } := by
    refine h.fewerEntries fun d k x there => ?_
    change (Machine.clearEntry s c g).entry d k = some x at there
    rw [entry_clearEntry] at there
    split_ifs at there
    exact there
  exact maps.same (.clearEntry s c g) (by rw [clearEntry_frame]) (by rw [clearEntry_frame])

/-! ## Loads -/

/-- A load joins the queue, of a context in no teardown (R140). -/
theorem acceptLoad {p : Port} {t : Tag} {r : LoadRec} (idle : s.teardown r.target = none)
    (fresh : r.next = 0 ∧ r.stop = none) (count : 1 ≤ r.count ∧ r.count ≤ 128)
    (room : s.loadQueue.length < Config.loadQueueSize) : Holding (acceptLoad s p t r) := by
  have queue : QueueLaw (s.loadQueue ++ [r]) := by
    refine ⟨?_, fun x hx => ?_, fun x hx => ?_⟩
    · rw [List.length_append]
      exact room
    · rcases List.mem_append.1 hx with old | new
      · exact h.loads.counts x old
      · cases List.mem_singleton.1 new
        rw [fresh.1]
        exact count
    · cases old : s.loadQueue with
      | nil =>
        rw [old] at hx
        cases hx
      | cons y rest =>
        rw [old] at hx
        rcases List.mem_append.1 (show x ∈ rest ++ [r] from hx) with older | new
        · exact h.loads.queued x (by rw [old]; exact older)
        · cases List.mem_singleton.1 new
          exact fresh
  have targets {c : Ctx} (other : r.target ≠ c) (none' : loadTargets s c = false) :
      ((s.loadQueue ++ [r]).any fun r => r.target == c) = false := by
    rw [List.any_append, Bool.or_eq_false_iff]
    exact ⟨none', by simpa using other⟩
  have stops {c : Ctx} (other : r.target ≠ c) (before : Stops c s.loadQueue) : Stops c (s.loadQueue ++ [r]) := by
    cases old : s.loadQueue with
    | nil =>
      intro y rest same
      cases same
      exact ⟨nofun, fun target => absurd target other⟩
    | cons y rest =>
      intro x rest' same
      cases same
      obtain ⟨others, first⟩ := before y rest old
      refine ⟨fun z hz => ?_, first⟩
      rcases List.mem_append.1 hz with older | new
      · exact others z older
      · cases List.mem_singleton.1 new
        exact other
  have other {c : Ctx} {td : Teardown} (there : s.teardown c = some td) : r.target ≠ c := by
    rintro rfl
    rw [idle] at there
    cases there
  unfold Machine.acceptLoad
  dsimp only
  let u : State := { activate s p t with loadQueue := s.loadQueue ++ [r] }
  have alike : Alike s u := (Alike.activate s p t).trans (.of_eq rfl rfl rfl rfl rfl rfl rfl)
  split_ifs with empty
  · have ran := LoadsEnd.runLoads u
    exact h.of_alike (alike.trans ran.alike) ⟨(ran.queue.law queue).loadLaw (.runLoads u),
      fun c td there _ none' => ran.queue.targets c (targets (other there) none'),
      fun c td there before => ran.queue.stops c (stops (other there) before)⟩
  · have some' : s.loadQueue ≠ [] := fun none' => empty (by rw [none']; rfl)
    have engine : EngineLaw u := by
      refine ⟨?_, fun ready x first => h.loads.ready ready x ?_⟩
      · show s.load = .idle ↔ s.loadQueue ++ [r] = []
        rw [h.loads.idle]
        exact iff_of_false some' (by simp)
      · change (s.loadQueue ++ [r]).head? = some x at first
        cases old : s.loadQueue with
        | nil => exact absurd old some'
        | cons y rest =>
          rw [old] at first
          exact first
    exact h.of_alike alike ⟨queue.loadLaw engine, fun c td there _ none' => targets (other there) none',
      fun c td there before => stops (other there) before⟩

/-! ## Offers -/

theorem dropOffer (i : OfferId) : Holding (s.setOffer i none) := by
  refine h.fewerOffers fun j x there => ?_
  change (s.setOffer i none).offer j = some x at there
  rw [State.offer_setOffer] at there
  split_ifs at there
  exact there

theorem endOffer (i : OfferId) (r : OfferEnd) (c : Ctx) : Holding (endOffer s i r c) :=
  (h.dropOffer i).same (.endOffer s i r c) (by
    unfold Machine.endOffer
    split
    · rfl
    · rename_i there
      rw [removeOffer_of_some there]
      unfold Machine.addressOwner
      split <;> rfl) (by
    unfold Machine.endOffer
    split
    · rfl
    · rename_i there
      rw [removeOffer_of_some there]
      unfold Machine.addressOwner
      split <;> rfl)

/-- A context joins the holder list of a frame that is offered to nobody like it (R73). -/
theorem appendHolder {f : Frame} {c : Ctx} {r : Rights} (held : (s.frame f).state = .held)
    (new : holds (s.frame f).holders c = false) (single : ∀ i o, s.offer i = some o → o.frame = f → o.target ≠ c) :
    Holding (appendHolder s f c r) := by
  have some' : (s.frame f).holders ≠ [] := (h.holders f).1.1 held
  obtain ⟨x, rest, list⟩ := List.exists_cons_of_ne_nil some'
  have head : ((s.frame f).holders ++ [(⟨c, r, false⟩ : Holder)]).head? = (s.frame f).holders.head? := by
    rw [list]
    rfl
  have tail : ((s.frame f).holders ++ [(⟨c, r, false⟩ : Holder)]).tail = (s.frame f).holders.tail ++ [⟨c, r, false⟩] := by
    rw [list]
    rfl
  have frame : Holding (s.setFrame f { s.frame f with holders := (s.frame f).holders ++ [⟨c, r, false⟩] }) := by
    refine h.setFrame ⟨⟨iff_of_true held (by simp), ?_⟩, fun y first => ?_, fun d g e there at' => ?_,
      fun i o there at' => ?_, fun d st there => ?_, fun w listed who at' => ?_, fun w listed who at' => ?_,
      fun p i d there => ?_⟩
    · rw [List.map_append, List.map_singleton, List.nodup_append]
      refine ⟨(h.holders f).2, List.nodup_singleton _, fun a ha b hb => ?_⟩
      obtain ⟨y, listed, rfl⟩ := List.mem_map.1 ha
      rw [List.mem_singleton.1 hb]
      exact (holds_eq_false _ _).1 new y listed
    · exact h.origins f y (head ▸ first)
    · obtain ⟨state, y, listed, rest⟩ := h.entries d g e there
      rw [at'] at listed
      exact ⟨held, y, List.mem_append_left _ listed, rest⟩
    · obtain ⟨origin, other, -⟩ := h.offers i o there
      rw [at'] at origin other
      refine ⟨?_, ?_⟩
      · unfold originOf at origin ⊢
        rw [head]
        exact origin
      · rw [holds_eq_false] at other ⊢
        intro y listed
        rcases List.mem_append.1 listed with old | new
        · exact other y old
        · cases List.mem_singleton.1 new
          exact (single i o there at').symm
    · obtain ⟨y, first, rest⟩ := h.departures d st f there
      exact ⟨y, head.trans first, rest⟩
    · obtain ⟨y, listed', rest⟩ := h.flagged w listed who f at'
      refine ⟨y, ?_, rest⟩
      show y ∈ ((s.frame f).holders ++ [(⟨c, r, false⟩ : Holder)]).tail
      rw [tail]
      exact List.mem_append_left _ listed'
    · exact (h.releases w listed who f at').1
    · rcases h.transit p i d f there with ⟨state, y, listed, ctx⟩ | reclaim
      · exact .inl ⟨state, y, List.mem_append_left _ listed, ctx⟩
      · exact .inr reclaim
  exact frame.same (.modCtx rfl rfl) rfl rfl

end Holding

/-! ## The acts -/

theorem Act.holding {s t : State} (act : Act s t) (g : Grounds s) (h : Holding s) : Holding t := by
  cases act with
  | ports ps each kept =>
    exact h.same { Alike.refl s with
      states := fun p => (kept p).state, bound := fun p => (kept p).bound, bindings := fun p => (kept p).binding,
      transit := fun p i => (kept p).transit i } rfl rfl
  | aside us ms pointer readGen requests choices load idle ready =>
    exact h.congr (.of_eq rfl rfl rfl rfl rfl rfl rfl) rfl idle ready
  | engine x gen kept => exact h.same (.of_eq rfl rfl rfl rfl rfl rfl rfl) rfl rfl
  | @failed f k age current =>
    have before := g.lists.state_current current
    have retired : Holding (modFrame s f fun x => { x with state := .retired, errorMark := true }) :=
      h.leaveScrub before nofun rfl
    exact retired.same (t := scrubFail s f) (.of_eq rfl rfl rfl rfl rfl rfl rfl) rfl rfl
  | marked f => exact h.same (.setFrame rfl rfl) rfl rfl
  | admitted => exact h.same (.setPort rfl rfl rfl rfl) rfl rfl
  | answered => exact h.same (.respond _ _ _ _ _) rfl rfl
  | @woke p ended =>
    refine h.setPort (fun _ => rfl) (fun there => ?_) (h.bindings p).1 (h.bindings p).2
    rw [h.noTeardown_of_home (by rw [ended]; nofun)] at there
    cases there
  | @bound p c up settled acting => exact h.setPort (fun _ => rfl) h.home_state ⟨acting.live, acting.owner⟩ (h.bindings p).2
  | @switching p t c waits settled acting =>
    have active : Holding (activate s p t) := h.same (.activate s p t) rfl rfl
    exact active.setPort (fun _ => rfl) active.home_state (active.bindings p).1
      fun d u there => by cases there; exact ⟨acting.live, acting.owner⟩
  | switched binding => exact h.completeSwitch binding
  | allocated up free waiting tag translating mapped frame => exact h.allocate free mapped frame
  | freed => exact h.free _ _ _
  | @claimed c n => exact h.claimFrames g.lists c n
  | @created c p classes pool free =>
    exact h.setCtx (h.noTeardown_of_pooled pool (by rw [free]; nofun)) (h.unbound_of_not_live (by rw [free]; nofun))
  | @destroyed p t c waits pool acting unused =>
    have active : Holding (activate s p t) := h.same (.activate s p t) rfl rfl
    unfold inUse at unused
    rw [Bool.or_eq_false_iff, beq_eq_false_iff_ne] at unused
    obtain ⟨unbound, target⟩ := unused
    have unbinding (u : Tag) : (s.port p).binding ≠ .switching c u := by
      intro there
      rw [there] at target
      exact (beq_eq_false_iff_ne.1 target) rfl
    refine active.startPooledTeardown pool acting.live ⟨homePort_of_pooled pool, acting.owner⟩
      (active.unbound_of_owner acting.owner ?_)
    rw [(Alike.activate s p t).bound, (Alike.activate s p t).bindings]
    exact ⟨unbound, unbinding⟩
  | ceded => exact h.same ((Alike.modCtx rfl rfl).trans (.modCtx rfl rfl)) rfl rfl
  | @entrySet c k e rests live by' =>
    refine h.makeEntry rests fun td there => ?_
    rcases by' with ⟨p, owner, up⟩ | targets
    · rw [h.noTeardown_of_acting g.contexts ⟨owner, live⟩ up] at there
      cases there
    · by_contra past
      rw [(h.noEntries c td there (Bool.not_eq_false _ ▸ past)).2] at targets
      cases targets
  | entryCleared c k => exact h.clearEntry c k
  | @joined p t r waits named acting fresh count room =>
    exact h.acceptLoad (h.noTeardown_of_acting g.contexts acting waits.up) fresh count room
  | loadEnded e => exact h.loadsEnd (.endLoad s e) (.endLoad s e)
  | @goesOn r rest queue more =>
    have head : LoadsEnd s { s with loadQueue := { r with next := r.next + 1 } :: rest } :=
      .withQueue s (queue ▸ .head rest rfl (fun ⟨low, high⟩ => ⟨by dsimp only; omega, high⟩) id) s.load
    exact h.loadsEnd (head.trans (.runLoads _)) (.runLoads _)
  | idled empty => exact h.loadsEnd (.withLoad s _) ⟨iff_of_true rfl empty, nofun⟩
  | unqueued which e => exact h.loadsEnd (.removeQueued s which e) (h.loads.engine.removeQueued which e)
  | stopPlaced q => exact h.loadsEnd (.placeStop s q) (h.loads.engine.placeStop q)
  | @offered p x i acting up origin other single places empty =>
    have offered := h.setOffer (i := i) (o := ⟨s.nextSerial, x.frame, x.offerer, x.target, x.rights, x.lifetime⟩) origin other
      (fun j y there frame target => by
        refine Bool.eq_false_iff.1 single ((offerPending_iff s x.frame x.target).2 ⟨j, ?_⟩)
        rw [there, Option.map_some, frame, target])
      fun td there => by
        rw [h.noTeardown_of_acting g.contexts acting up] at there
        cases there
    have serial := offered.same (t := { s.setOffer i (some ⟨s.nextSerial, x.frame, x.offerer, x.target, x.rights, x.lifetime⟩)
      with nextSerial := s.nextSerial + 1 }) (.of_eq rfl rfl rfl rfl rfl rfl rfl) rfl rfl
    exact serial.same (.modFrame rfl rfl) rfl rfl
  | offerRemoved i =>
    refine (h.dropOffer i).same (.removeOffer s i) ?_ ?_
    · unfold removeOffer
      split <;> rfl
    · unfold removeOffer
      split <;> rfl
  | @accepted i o there live =>
    obtain ⟨origin, other, single⟩ := h.offers i o there
    have ended := h.endOffer i .accepted o.offerer
    have alike := Alike.endOffer s i .accepted o.offerer
    generalize endOffer s i .accepted o.offerer = u at ended alike
    have frame : (u.frame o.frame).state = (s.frame o.frame).state ∧ (u.frame o.frame).holders = (s.frame o.frame).holders :=
      alike.frames o.frame
    refine ended.appendHolder ?_ (by rw [frame.2]; exact other) fun j x hx at' => ?_
    · rw [frame.1]
      by_contra notHeld
      exact h.noOffer_of_not_held notHeld there rfl
    · obtain ⟨y, hy, frame', -, target⟩ := alike.offer_of hx
      rw [State.offer_setOffer] at hy
      split_ifs at hy with hj
      intro same
      exact hj (single j y hy (frame'.symm.trans at') (target.symm.trans same))
  | lowered =>
    refine h.same { Alike.refl s with offers := fun i => ?_ } rfl rfl
    refine (congrArg (Option.map OfferRec.parties) (mapVec_get _ s.offers i)).trans ?_
    rw [Option.map_map]
    rfl

end Sys2Proof.Machine
end

section
/-! PROOFS. Everything that can be due keeps the law of holdings. -/

namespace Sys2Proof.Machine

open Sys2Proof

/-! ## States that differ in nothing the law of holdings speaks of -/

/-- `t` has what the law of holdings speaks of in `s`. -/
structure Kept (s t : State) : Prop where
  alike : Alike s t
  queue : t.loadQueue = s.loadQueue
  load : t.load = s.load

theorem Holding.kept {s t : State} (h : Holding s) (kept : Kept s t) : Holding t := h.same kept.alike kept.queue kept.load

namespace Kept

theorem refl (s : State) : Kept s s := ⟨.refl s, rfl, rfl⟩

theorem trans {s t u : State} (h : Kept s t) (k : Kept t u) : Kept s u :=
  ⟨h.alike.trans k.alike, k.queue.trans h.queue, k.load.trans h.load⟩

variable (s : State)

theorem respond (p : Port) (t : Tag) (v : Verdict) (rs : List Byte) : Kept s (respond s p t v rs) :=
  ⟨.respond s p t v rs, rfl, rfl⟩

theorem activate (p : Port) (t : Tag) : Kept s (activate s p t) := ⟨.activate s p t, rfl, rfl⟩

theorem notifyOwner (c : Ctx) (n : Notice) : Kept s (notifyOwner s c n) := by
  refine ⟨.notifyOwner s c n, ?_, ?_⟩
  all_goals
    unfold Machine.notifyOwner
    split <;> rfl

theorem notifyOrigin (f : Frame) (n : Notice) : Kept s (notifyOrigin s f n) := by
  unfold Machine.notifyOrigin
  split
  · exact notifyOwner s _ n
  · exact refl s

theorem placeNotices : Kept s (placeNotices s) := by
  refine ⟨{ Alike.refl s with
    states := fun p => ?_, bound := fun p => ?_, bindings := fun p => ?_, transit := fun p i => ?_ }, rfl, rfl⟩
  all_goals rw [port_placeNotices, placed_eq]
  rfl

/-- The invalidation changes the entries only. -/
theorem invalidate (c : Ctx) (o : Option Frame) : Kept { s with maps := (invalidate s c o).maps } (invalidate s c o) := by
  have ended := invalidated s c o
  have rest := invalidate_frame s c o
  generalize Machine.invalidate s c o = t at ended rest
  obtain ⟨a, b, m, rfl⟩ : ∃ a b m, t = { s with frames := a, contexts := b, maps := m } := ⟨_, _, _, rest⟩
  refine ⟨⟨fun f => ?_, fun d => ?_, fun _ _ => rfl, fun _ => rfl, fun _ => rfl, rfl, fun _ => rfl, fun _ => rfl,
    fun _ => rfl, fun _ _ => rfl⟩, rfl, rfl⟩
  · rw [ended.frame]
    exact ⟨rfl, rfl⟩
  · rw [ended.ctx]
    split_ifs with hd
    · subst hd
      exact ⟨rfl, rfl⟩
    · exact ⟨rfl, rfl⟩

/-- The cancellation of an offer removes it. -/
theorem cancelOffer (i : OfferId) (c : Ctx) : Kept (s.setOffer i none) (cancelOffer s i c) := by
  unfold Machine.cancelOffer
  cases there : s.offer i with
  | none =>
    have removed := Alike.removeOffer s i
    unfold Machine.removeOffer at removed
    rw [there] at removed
    exact ⟨removed, rfl, rfl⟩
  | some o =>
    have removed : Kept (s.setOffer i none) (removeOffer s i) :=
      ⟨.removeOffer s i, by rw [removeOffer_of_some there]; rfl, by rw [removeOffer_of_some there]; rfl⟩
    exact removed.trans (notifyOwner _ _ _)

/-- Two alike states stay so as the withdrawal list is replaced in both. -/
theorem withWithdrawals {s t : State} (h : Kept s t) (list : List Withdrawal) :
    Kept { s with withdrawals := list } { t with withdrawals := list } :=
  ⟨{ h.alike with withdrawals := rfl }, h.queue, h.load⟩

theorem setStep {s t : State} (h : Kept s t) (c : Ctx) (y : TeardownStep) : Kept (setStep s c y) (setStep t c y) := by
  unfold Machine.setStep
  rw [h.alike.teardowns c]
  cases s.teardown c with
  | none => exact h
  | some td =>
    refine ⟨{ h.alike with teardowns := fun d => ?_ }, h.queue, h.load⟩
    rw [State.teardown_setTeardown, State.teardown_setTeardown, h.alike.teardowns d]

end Kept

/-- The offers that are left of some. -/
def FewerOffers (s t : State) : Prop := ∀ i o, t.offer i = some o → s.offer i = some o

theorem Holding.cancelled {s : State} (h : Holding s) (i : OfferId) (c : Ctx) : Holding (cancelOffer s i c) :=
  (h.dropOffer i).kept (.cancelOffer s i c)

theorem Holding.cancelOffersOf {s : State} (h : Holding s) (c : Ctx) : Holding (cancelOffersOf s c) := by
  unfold Machine.cancelOffersOf
  refine foldl_keeps (P := Holding) (fun u i k => ?_) _ h
  split
  · exact k
  · split_ifs
    · exact k.cancelled i _
    · exact k.cancelled i _
    · exact k

/-- The drain set holds the accesses in transit that the withdrawal is of (R94). -/
theorem mem_drainSet_iff (s : State) (c : Ctx) (o : Option Frame) (p : Port) (i : Slot) :
    (p, i) ∈ drainSet s c o ↔ ∃ f, InTransit s p i c f ∧ (o = none ∨ o = some f) := by
  rw [mem_drainSet]
  constructor
  · rintro ⟨e, there, ctx, named⟩
    exact ⟨e.frame, ⟨e, there, ctx, rfl⟩, named⟩
  · rintro ⟨f, ⟨e, there, ctx, rfl⟩, named⟩
    exact ⟨e, there, ctx, named⟩

/-! ## Frames -/

/-- A record's context and frame are named by no other record. -/
theorem of_removeRecord {s : State} {w x : Withdrawal} (left : x ∈ (Machine.removeRecord s w).withdrawals) :
    x ∈ s.withdrawals ∧ ¬ (x.ctx = w.ctx ∧ x.frame = w.frame) := by
  obtain ⟨listed, other⟩ := List.mem_filter.1 left
  refine ⟨listed, fun same => ?_⟩
  rw [same.1, same.2] at other
  simp at other

namespace Holding

variable {s : State} (h : Holding s)

include h

theorem removeRecord {w : Withdrawal} (listed : w ∈ s.withdrawals) (empty : w.drain = []) : Holding (removeRecord s w) := by
  refine h.fewerRecords List.filter_sublist fun x hx => ?_
  by_cases same : x.ctx = w.ctx ∧ x.frame = w.frame
  · exact .inr (h.record_unique hx listed same.1 same.2 ▸ empty)
  · refine .inl (List.mem_filter.2 ⟨hx, ?_⟩)
    rw [Bool.not_eq_true', Bool.and_eq_false_iff, beq_eq_false_iff_ne, beq_eq_false_iff_ne]
    exact not_and_or.1 same

/-- No access of a context on a frame, where the withdrawal of them has drained. -/
theorem not_inTransit {w : Withdrawal} (listed : w ∈ s.withdrawals) (empty : w.drain = []) {f : Frame}
    (named : w.frame = none ∨ w.frame = some f) (p : Port) (i : Slot) : ¬ InTransit s p i w.ctx f := by
  intro stands
  have drains := (h.drainSets w listed p i).2 ⟨f, stands, named⟩
  rw [empty] at drains
  cases drains

theorem reclaimExit {f : Frame} (unreleased : ∀ w ∈ s.withdrawals, ofRelease w.requester = true → w.frame ≠ some f) :
    Holding (reclaimExit s f) := by
  rw [reclaimExit_eq]
  by_cases other : (s.frame f).state ≠ .reclaim
  · rw [if_pos other]
    exact h
  rw [if_neg other]
  have before : (s.frame f).state ≠ .held := by rw [not_not.1 other]; nofun
  by_cases mark : (s.frame f).errorMark = true
  · rw [if_pos mark]
    exact h.setIdleFrame before (r := { s.frame f with state := .retired }) nofun (h.noHolders before) unreleased
  · rw [if_neg mark]
    have left := h.setIdleFrame before (r := { s.frame f with state := .scrub }) nofun (h.noHolders before) unreleased
    exact left.kept ⟨.of_eq rfl rfl rfl rfl rfl rfl rfl, rfl, rfl⟩

/-- A co-holder that nothing rests on leaves the holder list (R6). -/
theorem removeHolder {f : Frame} {c : Ctx} (other : ∀ x, (s.frame f).holders.head? = some x → x.ctx ≠ c)
    (noEntries : ∀ g e, s.entry c g = some e → e.frame ≠ f) (noTransit : ∀ p i, ¬ InTransit s p i c f)
    (noRecord : ∀ w ∈ s.withdrawals, ofCoHolder w.requester = true → w.frame = some f → w.ctx ≠ c) :
    Holding (removeHolder s f c) := by
  let keep : Holder → Bool := fun h => h.ctx != c
  have stays {x : Holder} (listed : x ∈ (s.frame f).holders) (ne : x.ctx ≠ c) : x ∈ (s.frame f).holders.filter keep :=
    List.mem_filter.2 ⟨listed, bne_iff_ne.2 ne⟩
  have parts : ((s.frame f).holders.filter keep).head? = (s.frame f).holders.head? ∧
      ((s.frame f).holders.filter keep).tail = (s.frame f).holders.tail.filter keep := by
    cases list : (s.frame f).holders with
    | nil => exact ⟨rfl, rfl⟩
    | cons x rest =>
      have first : keep x = true := bne_iff_ne.2 (other x (by rw [list]; rfl))
      rw [List.filter_cons_of_pos first]
      exact ⟨rfl, rfl⟩
  have frame : Holding (s.setFrame f { s.frame f with holders := (s.frame f).holders.filter keep }) := by
    refine h.setFrame ⟨⟨?_, ?_⟩, fun y first => ?_, fun d g e there at' => ?_, fun i o there at' => ?_, fun d st there => ?_,
      fun w listed who at' => ?_, fun w listed who at' => ?_, fun p i d there => ?_⟩
    · show (s.frame f).state = .held ↔ (s.frame f).holders.filter keep ≠ []
      rw [(h.holders f).1, ne_eq, ne_eq, ← List.head?_eq_none_iff, ← List.head?_eq_none_iff, parts.1]
    · exact (List.filter_sublist.map _).nodup (h.holders f).2
    · exact h.origins f y (parts.1 ▸ first)
    · obtain ⟨state, y, listed, ctx, rest⟩ := h.entries d g e there
      rw [at'] at state listed
      refine ⟨state, y, stays listed ?_, ctx, rest⟩
      rintro rfl
      subst ctx
      exact noEntries g e there at'
    · obtain ⟨origin, out, -⟩ := h.offers i o there
      rw [at'] at origin out
      unfold originOf at origin ⊢
      rw [holds_eq_false] at out ⊢
      exact ⟨(congrArg _ parts.1).trans origin, fun y hy => out y (List.mem_filter.1 hy).1⟩
    · obtain ⟨y, first, rest⟩ := h.departures d st f there
      exact ⟨y, parts.1.trans first, rest⟩
    · obtain ⟨y, listed', ctx, flag⟩ := h.flagged w listed who f at'
      refine ⟨y, ?_, ctx, flag⟩
      show y ∈ ((s.frame f).holders.filter keep).tail
      rw [parts.2]
      exact List.mem_filter.2 ⟨listed', bne_iff_ne.2 (ctx.trans_ne (noRecord w listed who at'))⟩
    · exact (h.releases w listed who f at').1
    · rcases h.transit p i d f there with ⟨state, y, listed, ctx⟩ | reclaim
      · refine .inl ⟨state, y, stays listed ?_, ctx⟩
        rintro rfl
        subst ctx
        exact noTransit p i there
      · exact .inr reclaim
  exact frame.kept ⟨.modCtx rfl rfl, rfl, rfl⟩

/-- A holder is flagged that no entry rests on (R6). -/
theorem markWithdrawing {f : Frame} {c : Ctx} (noEntries : ∀ g e, s.entry c g = some e → e.frame ≠ f) :
    Holding (markWithdrawing s f c) := by
  let mark : Holder → Holder := fun h => if h.ctx = c then { h with withdrawing := true } else h
  have ctx (x : Holder) : (mark x).ctx = x.ctx := by
    show (if x.ctx = c then _ else x).ctx = _
    split_ifs <;> rfl
  have rights (x : Holder) : (mark x).rights = x.rights := by
    show (if x.ctx = c then _ else x).rights = _
    split_ifs <;> rfl
  have flag {x : Holder} (set : x.withdrawing = true) : (mark x).withdrawing = true := by
    show (if x.ctx = c then _ else x).withdrawing = _
    split_ifs
    · rfl
    · exact set
  have contexts : ((s.frame f).holders.map mark).map Holder.ctx = (s.frame f).holders.map Holder.ctx := by
    rw [List.map_map]
    exact List.map_congr_left fun x _ => ctx x
  have head : ((s.frame f).holders.map mark).head? = (s.frame f).holders.head?.map mark := List.head?_map
  refine h.setFrame ⟨⟨?_, contexts.symm ▸ (h.holders f).2⟩, fun y first => ?_, fun d g e there at' => ?_,
    fun i o there at' => ?_, fun d st there => ?_, fun w listed who at' => ?_, fun w listed who at' => ?_,
    fun p i d there => ?_⟩
  · show (s.frame f).state = .held ↔ (s.frame f).holders.map mark ≠ []
    rw [(h.holders f).1, ne_eq, ne_eq, List.map_eq_nil_iff]
  · obtain ⟨x, first', rfl⟩ := Option.map_eq_some_iff.1 (head.symm.trans first)
    exact (rights x).trans (h.origins f x first')
  · obtain ⟨state, y, listed, same, free, rest⟩ := h.entries d g e there
    rw [at'] at state listed
    have kept : mark y = y := by
      refine if_neg fun isC => ?_
      obtain rfl := same.symm.trans isC
      exact noEntries g e there at'
    exact ⟨state, y, List.mem_map.2 ⟨y, listed, kept⟩, same, free, rest⟩
  · obtain ⟨origin, out, -⟩ := h.offers i o there
    rw [at'] at origin out
    rw [originOf_eq] at origin ⊢
    refine ⟨(congrArg _ contexts).trans origin, ?_⟩
    rw [holds_eq_false] at out ⊢
    intro y hy
    obtain ⟨x, listed, rfl⟩ := List.mem_map.1 hy
    exact (ctx x).trans_ne (out x listed)
  · obtain ⟨y, first, same, set⟩ := h.departures d st f there
    exact ⟨mark y, head.trans (by rw [first]; rfl), (ctx y).trans same, flag set⟩
  · obtain ⟨y, listed', same, set⟩ := h.flagged w listed who f at'
    refine ⟨mark y, ?_, (ctx y).trans same, flag set⟩
    show mark y ∈ ((s.frame f).holders.map mark).tail
    rw [← List.map_tail]
    exact List.mem_map_of_mem listed'
  · exact (h.releases w listed who f at').1
  · rcases h.transit p i d f there with ⟨state, y, listed, same⟩ | reclaim
    · exact .inl ⟨state, mark y, List.mem_map_of_mem listed, (ctx y).trans same⟩
    · exact .inr reclaim

/-- A sole holder that nothing rests on gives the frame up (R6). -/
theorem giveUp {f : Frame} {c : Ctx} (held : (s.frame f).state = .held) (sole : ∀ x ∈ (s.frame f).holders, x.ctx = c)
    (tail : (s.frame f).holders.tail = []) (noEntries : ∀ g, s.entry c g = none)
    (noOffers : ∀ i o, s.offer i = some o → o.offerer ≠ c) (noTransit : ∀ p i, ¬ InTransit s p i c f)
    (noDeparture : ∀ st, s.teardown c ≠ some ⟨st, .departure f⟩) : Holding (giveUp s f c) := by
  have frame : Holding (modFrame s f fun x => { x with state := .reclaim, holders := [], pendingOffers := 0 }) := by
    refine h.setFrame ⟨⟨iff_of_false nofun fun none => none rfl, List.nodup_nil⟩, nofun, fun d g e there at' => ?_,
      fun i o there at' => ?_, fun d st there => ?_, fun w listed who at' => ?_, fun _ _ _ _ => rfl, fun p i d there => ?_⟩
    · obtain ⟨-, y, listed, ctx, -⟩ := h.entries d g e there
      rw [at'] at listed
      obtain rfl := ctx.symm.trans (sole y listed)
      rw [noEntries g] at there
      cases there
    · have origin := (h.offers i o there).1
      rw [at'] at origin
      obtain ⟨y, first, ctx⟩ := (originOf_iff _ _).1 origin
      exact absurd (ctx.symm.trans (sole y (List.mem_of_mem_head? first))) (noOffers i o there)
    · obtain ⟨y, first, ctx, -⟩ := h.departures d st f there
      obtain rfl := ctx.symm.trans (sole y (List.mem_of_mem_head? first))
      exact absurd there (noDeparture st)
    · obtain ⟨y, listed', -⟩ := h.flagged w listed who f at'
      rw [tail] at listed'
      cases listed'
    · rcases h.transit p i d f there with ⟨-, y, listed, ctx⟩ | ⟨reclaim, -⟩
      · obtain rfl := ctx.symm.trans (sole y listed)
        exact absurd there (noTransit p i)
      · rw [held] at reclaim
        cases reclaim
  exact frame.kept ⟨.modCtx rfl rfl, rfl, rfl⟩

/-- The origin hands its frame to a co-holder (R86). -/
theorem promote {f : Frame} {c : Ctx} {d : Holder} (held : (s.frame f).state = .held)
    (free : anyWithdrawing (s.frame f).holders = false) (origin : ((s.frame f).holders.map Holder.ctx).head? = some c)
    (noEntries : ∀ g, s.entry c g = none) (noOffers : ∀ i o, s.offer i = some o → o.offerer ≠ c)
    (noTransit : ∀ p i, ¬ InTransit s p i c f) : Holding (promote s f c d.ctx) := by
  have flagless := (anyWithdrawing_eq_false _).1 free
  let keep : Holder → Bool := fun h => h.ctx != c && h.ctx != d.ctx
  let list : List Holder := ⟨d.ctx, .readWrite, false⟩ :: (s.frame f).holders.filter keep
  have stays {x : Holder} (listed : x ∈ (s.frame f).holders) (ne : x.ctx ≠ c) : x.ctx = d.ctx ∨ x ∈ list := by
    by_cases heir : x.ctx = d.ctx
    · exact .inl heir
    · exact .inr (.tail _ (List.mem_filter.2 ⟨listed, Bool.and_eq_true_iff.2 ⟨bne_iff_ne.2 ne, bne_iff_ne.2 heir⟩⟩))
  have frame : Holding (modFrame s f fun x => { x with holders := list }) := by
    refine h.setFrame ⟨⟨iff_of_true held nofun, ?_⟩, fun y first => ?_, fun b g e there at' => ?_, fun i o there at' => ?_,
      fun b st there => ?_, fun w listed who at' => ?_, fun w listed who at' => ?_, fun p i b there => ?_⟩
    · refine List.nodup_cons.2 ⟨fun again => ?_, (List.filter_sublist.map _).nodup (h.holders f).2⟩
      obtain ⟨x, hx, same⟩ := List.mem_map.1 again
      have out := (List.mem_filter.1 hx).2
      rw [Bool.and_eq_true, bne_iff_ne, bne_iff_ne] at out
      exact out.2 same
    · obtain rfl := Option.some.inj first
      rfl
    · obtain ⟨-, y, listed, ctx, flag, rights⟩ := h.entries b g e there
      rw [at'] at listed
      refine ⟨held, ?_⟩
      have ne : y.ctx ≠ c := by
        rintro rfl
        subst ctx
        rw [noEntries g] at there
        cases there
      rcases stays listed ne with heir | left
      · exact ⟨_, .head _, heir.symm.trans ctx, rfl, exceeds_readWrite _⟩
      · exact ⟨y, left, ctx, flag, rights⟩
    · have first := (h.offers i o there).1
      rw [at', originOf_eq, origin] at first
      exact absurd (Option.some.inj first).symm (noOffers i o there)
    · obtain ⟨y, first, -, flag⟩ := h.departures b st f there
      rw [flagless y (List.mem_of_mem_head? first)] at flag
      cases flag
    · obtain ⟨y, listed', -, flag⟩ := h.flagged w listed who f at'
      rw [flagless y (List.mem_of_mem_tail listed')] at flag
      cases flag
    · have reclaim := (h.releases w listed who f at').1
      rw [held] at reclaim
      cases reclaim
    · rcases h.transit p i b f there with ⟨-, y, listed, ctx⟩ | ⟨reclaim, -⟩
      · refine .inl ⟨held, ?_⟩
        have ne : y.ctx ≠ c := by
          rintro rfl
          subst ctx
          exact noTransit p i there
        rcases stays listed ne with heir | left
        · exact ⟨_, .head _, heir.symm.trans ctx⟩
        · exact ⟨y, left, ctx⟩
      · rw [held] at reclaim
        cases reclaim
  have charged : Kept (modFrame s f fun x => { x with holders := list }) (Machine.promote s f c d.ctx) := by
    refine ⟨?_, rfl, rfl⟩
    refine Alike.trans (t := modCtx _ d.ctx fun x => { x with charged := x.charged + 1, shareCount := x.shareCount - 1 })
      (.modCtx rfl rfl) ?_
    exact Alike.modCtx (g := fun x => { x with charged := x.charged - 1 }) rfl rfl
  exact frame.kept charged

/-! ## Withdrawals -/

/-- The entries that an invalidation of another state with these entries leaves. -/
theorem withMapsOf {t u : State} {c : Ctx} {o : Option Frame} {l : List Page} (ended : Invalidated t c o l u)
    (entries : ∀ d g, t.entry d g = s.entry d g) : Holding { s with maps := u.maps } := by
  refine h.fewerEntries fun d g e there => ?_
  change u.entry d g = some e at there
  rw [ended.entry] at there
  split_ifs at there
  rw [← entries]
  exact there

/-- A co-holder's withdrawal starts (R79, R81, R87, R93). -/
theorem withdrawHolder {f : Frame} {x : Holder} {who : Requester} (requester : ofCoHolder who = true)
    (held : (s.frame f).state = .held) (coHolder : x ∈ (s.frame f).holders.tail) (free : x.withdrawing = false) :
    Holding (withdrawHolder s x.ctx f who) := by
  have ended := invalidated (Machine.markWithdrawing s f x.ctx) x.ctx (some f)
  have kept := Kept.invalidate (Machine.markWithdrawing s f x.ctx) x.ctx (some f)
  rw [withdrawHolder_eq, startWithdrawal_eq]
  generalize invalidate (Machine.markWithdrawing s f x.ctx) x.ctx (some f) = u at ended kept ⊢
  have maps : Holding { s with maps := u.maps } := h.withMapsOf ended fun _ _ => rfl
  have marked : Holding (Machine.markWithdrawing { s with maps := u.maps } f x.ctx) := by
    refine maps.markWithdrawing fun g e there at' => ?_
    change u.entry x.ctx g = some e at there
    have before := ended.entry x.ctx g
    rw [there] at before
    split_ifs at before with lost
    refine lost ⟨rfl, List.mem_finRange g, (loses_iff _ x.ctx (some f) g).2 ⟨f, ?_, .inr rfl⟩⟩
    rw [← before, Option.map_some, at']
  refine Holding.kept (marked.withRecord ?_ (fun at' => by cases at') ?_ ?_) (kept.withWithdrawals _)
  · intro k at'
    obtain rfl := Option.some.inj at'
    have frame : (Machine.markWithdrawing { s with maps := u.maps } f x.ctx).frame f =
        { s.frame f with holders := (s.frame f).holders.map fun h =>
          if h.ctx = x.ctx then { h with withdrawing := true } else h } := by
      unfold Machine.markWithdrawing
      rw [frame_modFrame, if_pos rfl]
      rfl
    rw [frame]
    refine ⟨requester, held, { x with withdrawing := true }, ?_, rfl, rfl⟩
    rw [← List.map_tail]
    exact List.mem_map.2 ⟨x, coHolder, if_pos rfl⟩
  · intro w listed ctx at'
    have coHeld (asks : ofCoHolder w.requester = true) : False := by
      obtain ⟨y, listed', same, flag⟩ := h.flagged w listed asks f at'
      rw [holder_unique (h.holders f).2 (List.mem_of_mem_tail listed') (List.mem_of_mem_tail coHolder) (same.trans ctx),
        free] at flag
      cases flag
    cases asks : w.requester with
    | release p t =>
      have reclaim := (h.releases w listed (by rw [asks]; rfl) f at').1
      rw [held] at reclaim
      cases reclaim
    | leave p t => exact coHeld (by rw [asks]; rfl)
    | revoke p t => exact coHeld (by rw [asks]; rfl)
    | departure o => exact coHeld (by rw [asks]; rfl)
    | teardown =>
      have none' := (h.drains w listed asks).1
      rw [at'] at none'
      cases none'
  · exact mem_drainSet_iff _ _ _

/-- Step 4 of a teardown starts (R40). -/
theorem startContextWithdrawal {c : Ctx} {st : Starter} (teardown : s.teardown c = some ⟨st, .loads⟩)
    (idle : loadTargets s c = false) : Holding (startContextWithdrawal s c) := by
  have moved : setStep s c .drain = s.setTeardown c (some ⟨st, .drain⟩) := setStep_of_some teardown _
  unfold Machine.startContextWithdrawal
  rw [moved, startWithdrawal_eq]
  have ended := invalidated (s.setTeardown c (some ⟨st, .drain⟩)) c none
  have kept := Kept.invalidate (s.setTeardown c (some ⟨st, .drain⟩)) c none
  generalize invalidate (s.setTeardown c (some ⟨st, .drain⟩)) c none = u at ended kept ⊢
  have maps : Holding { s with maps := u.maps } := h.withMapsOf ended fun _ _ => rfl
  have gone (g : Page) : u.entry c g = none := by
    rw [ended.entry]
    split_ifs with lost
    · rfl
    · cases there : (s.setTeardown c (some ⟨st, .drain⟩)).entry c g with
      | none => rfl
      | some e =>
        refine absurd ⟨rfl, List.mem_finRange g, (loses_iff _ c none g).2 ⟨e.frame, ?_, .inl rfl⟩⟩ lost
        rw [there]
        rfl
  have stepped : Holding { s.setTeardown c (some ⟨st, .drain⟩) with maps := u.maps } := by
    have step := maps.withStep (y := .drain) teardown nofun (fun _ => .inr ⟨gone, idle⟩) nofun nofun nofun nofun
    rwa [setStep_of_some (s := { s with maps := u.maps }) teardown] at step
  refine Holding.kept (stepped.withRecord (fun f at' => by cases at') (fun _ => ⟨rfl, st, ?_⟩) ?_ ?_) (kept.withWithdrawals _)
  · exact (State.teardown_setTeardown s c c _).trans (if_pos rfl)
  · intro w listed ctx at'
    have who : w.requester = .teardown := by
      by_contra other
      have some' := h.records.1 w listed other
      rw [at'] at some'
      cases some'
    obtain ⟨-, st', there⟩ := h.drains w listed who
    change w.ctx = c at ctx
    rw [ctx, teardown] at there
    cases there
  · exact mem_drainSet_iff _ _ _

end Holding

end Sys2Proof.Machine
end

section
/-! PROOFS. The law of holdings at every step. -/

namespace Sys2Proof.Machine

open Sys2Proof

/-! ## The operations that go on -/

theorem Stops.endLoadsWhere (s : State) (c : Ctx) (q : StopRequest) :
    Stops c (endLoadsWhere s (fun r => r.target == c) q).loadQueue := by
  have others : ∀ r rest, (removeQueued s (fun r => r.target == c) (stopped .contextGone 0)).loadQueue = r :: rest →
      ∀ x ∈ rest, x.target ≠ c := by
    intro r rest queue x hx
    unfold removeQueued at queue
    split at queue
    · rename_i empty
      rw [empty] at queue
      cases queue
    · rename_i y old list
      have kept (l : List LoadRec) (u : State) : (l.foldl (fun s q =>
          respond s q.port q.tag (stopped .contextGone 0).1 (stopped .contextGone 0).2) u).loadQueue = u.loadQueue :=
        foldl_keeps (P := fun v : State => v.loadQueue = u.loadQueue)
          (g := fun s q => respond s q.port q.tag (stopped .contextGone 0).1 (stopped .contextGone 0).2) (fun _ _ h => h) l rfl
      rw [kept] at queue
      cases queue
      simpa using (List.mem_filter.1 hx).2
  unfold Machine.endLoadsWhere
  dsimp only
  split
  · rename_i empty
    rw [empty]
    nofun
  · rename_i r rest queue
    have queued := others r rest queue
    split_ifs with target
    · unfold placeStop
      rw [queue]
      dsimp only
      have stops : Stops c ({ r with stop := some q } :: rest) := by
        intro x l same
        cases same
        exact ⟨queued, fun _ => nofun⟩
      split_ifs with there
      · rw [queue]
        intro x l same
        cases same
        exact ⟨queued, fun _ none' => by rw [none'] at there; cases there⟩
      · exact (LoadsEnd.runLoads _).queue.stops c stops
      · exact stops
    · rw [queue]
      intro x l same
      cases same
      exact ⟨queued, fun at' => absurd (beq_iff_eq.2 at') target⟩

namespace Kept

/-- Two alike states stay so as the entries and the offers are replaced in both. -/
theorem withTables {s t : State} (h : Kept s t) (maps : Vector (Vector (Option MapEntry) 128) 16)
    (offers : Vector (Option OfferRec) 16) :
    Kept { s with maps := maps, offers := offers } { t with maps := maps, offers := offers } :=
  ⟨{ h.alike with entries := fun _ _ => rfl, offers := fun _ => rfl }, h.queue, h.load⟩

/-- One more offer is cancelled. -/
theorem cancelNext {s u : State} (h : Kept { s with offers := u.offers } u) (i : OfferId) (c : Ctx) :
    Kept { s with offers := (Machine.cancelOffer u i c).offers } (Machine.cancelOffer u i c) := by
  have removed : Kept ({ s with offers := u.offers }.setOffer i none) (u.setOffer i none) :=
    ⟨{ h.alike with offers := fun _ => rfl }, h.queue, h.load⟩
  have all := removed.trans (cancelOffer u i c)
  exact ⟨{ all.alike with offers := fun _ => rfl }, all.queue, all.load⟩

/-- The cancellation at a RELEASE changes the offers only. -/
theorem cancelOffersOn (s : State) (f : Frame) :
    Kept { s with offers := (cancelOffersOn s f).offers } (cancelOffersOn s f) := by
  unfold Machine.cancelOffersOn
  refine foldl_keeps (P := fun u : State => Kept { s with offers := u.offers } u) (fun u i h => ?_) _ (refl s)
  split
  · exact h
  · split_ifs
    · exact h.cancelNext i _
    · exact h

/-- The cancellation at step 2 of a teardown changes the offers only. -/
theorem cancelOffersOf (s : State) (c : Ctx) :
    Kept { s with offers := (cancelOffersOf s c).offers } (cancelOffersOf s c) := by
  unfold Machine.cancelOffersOf
  refine foldl_keeps (P := fun u : State => Kept { s with offers := u.offers } u) (fun u i h => ?_) _ (refl s)
  split
  · exact h
  · split_ifs
    · exact h.cancelNext i _
    · exact h.cancelNext i _
    · exact h

/-- A frame given up, whose offers and whose entries go with it. -/
theorem givenUp (s : State) (p : Port) (t : Tag) (f : Frame) (c : Ctx) :
    Kept (modFrame s f fun x => { x with state := .reclaim, holders := [], pendingOffers := 0 })
      (giveUp (Machine.activate s p t) f c) := by
  let u := modFrame s f fun x => { x with state := .reclaim, holders := [], pendingOffers := 0 }
  refine (activate u p t).trans ⟨?_, rfl, rfl⟩
  exact Alike.modCtx (s := Machine.activate u p t) (g := fun x => { x with charged := x.charged - 1 }) rfl rfl

end Kept

theorem pastLoads_of_pastDrain {x : TeardownStep} (past : pastDrain x = true) : pastLoads x = true := by
  cases x with
  | offers => cases past
  | loads => cases past
  | drain => rfl
  | frames => rfl
  | turn f => rfl
  | departure f => rfl

namespace Holding

variable {s : State} (h : Holding s)

include h

/-- Steps 2 and 3 of a teardown (R38, R39). -/
theorem cancelThenEndLoads {c : Ctx} {st : Starter} (placed : TeardownPlaced s c) (starter : StarterFits s c st)
    (before : ∀ td, s.teardown c = some td → td.step = .offers) : Holding (cancelThenEndLoads s c st) := by
  have cancelled := h.cancelOffersOf c
  have spec := offersEnded_cancelOffersOf s c
  have alike := (Kept.cancelOffersOf s c).alike
  unfold Machine.cancelThenEndLoads
  generalize Machine.cancelOffersOf s c = v at cancelled spec alike ⊢
  have ends : LoadsEnd (v.setTeardown c (some ⟨st, .loads⟩)) (endLoadsOfCtx (v.setTeardown c (some ⟨st, .loads⟩)) c) :=
    .endLoadsWhere _ _ _
  have engine : EngineLaw (endLoadsOfCtx (v.setTeardown c (some ⟨st, .loads⟩)) c) :=
    EngineLaw.endLoadsWhere (s := v.setTeardown c (some ⟨st, .loads⟩)) (cancelled.loads.engine.of_eq rfl rfl) _ _
  have stops : Stops c (endLoadsOfCtx (v.setTeardown c (some ⟨st, .loads⟩)) c).loadQueue := .endLoadsWhere _ _ _
  generalize endLoadsOfCtx (v.setTeardown c (some ⟨st, .loads⟩)) c = t at ends engine stops ⊢
  let u : State := { v with loadQueue := t.loadQueue, load := t.load }
  have ended : Holding u := cancelled.of_alike (.of_eq rfl rfl rfl rfl rfl rfl rfl)
    ⟨QueueLaw.loadLaw (s := u) (ends.queue.law cancelled.loads.queue) (engine.of_eq rfl rfl),
      fun d _ _ _ none' => ends.queue.targets d none', fun d _ _ before => ends.queue.stops d before⟩
  have placed' : TeardownPlaced v c := by
    unfold TeardownPlaced at placed ⊢
    cases home : homePort c with
    | none =>
      rw [home] at placed
      exact (alike.contexts c).1.trans placed
    | some p =>
      rw [home] at placed
      exact (alike.states p).trans placed
  have starter' : StarterFits v c st := by
    cases st with
    | destroy p t => exact ⟨starter.1, (alike.contexts c).2.trans starter.2⟩
    | portReset p => exact (alike.contexts c).2.trans starter
  have entered : Holding (u.setTeardown c (some ⟨st, .loads⟩)) := by
    refine ended.setTeardown (td := ⟨st, .loads⟩) placed' starter' (fun _ i o there => ?_) nofun (fun _ => stops) nofun nofun
      fun w listed who at' => ?_
    · have gone := spec.offer i
      change v.offer i = some o at there
      rw [there] at gone
      split_ifs at gone with hit
      rintro rfl
      refine hit ⟨List.mem_finRange i, ?_⟩
      rw [← gone]
      simp
    · obtain ⟨-, st', there⟩ := cancelled.drains w listed who
      rw [at', alike.teardowns] at there
      have early := before _ there
      cases early
  exact entered.kept ⟨Alike.trans (t := v.setTeardown c (some ⟨st, .loads⟩)) (.of_eq rfl rfl rfl rfl rfl rfl rfl) ends.alike,
    rfl, rfl⟩

/-- A teardown goes on within step 5. -/
theorem withinStep5 {c : Ctx} {st : Starter} {x y : TeardownStep} (there : s.teardown c = some ⟨st, x⟩)
    (past : pastDrain x = true) (departs : ∀ f, y = .departure f →
      ∃ h, (s.frame f).holders.head? = some h ∧ h.ctx = c ∧ h.withdrawing = true) (later : pastDrain y = true) :
    Holding (setStep s c y) := by
  have pastLoad : pastLoads x = true := pastLoads_of_pastDrain past
  refine h.withStep there ?_ (fun _ => .inl pastLoad) ?_ (fun _ => .inl past) departs ?_
  · rintro rfl
    cases past
  · rintro rfl
    cases later
  · rintro rfl
    cases past

/-- A frame that one context holds alone goes to RECLAIM with its withdrawal on the list (R16). -/
theorem release {f : Frame} {r : FrameRec} {w : Withdrawal} (reclaim : r.state = .reclaim) (empty : r.holders = [])
    (held : (s.frame f).state = .held) (sole : ∀ x ∈ (s.frame f).holders, x.ctx = w.ctx)
    (tail : (s.frame f).holders.tail = []) (noEntries : ∀ d g e, s.entry d g = some e → e.frame ≠ f)
    (noOffers : ∀ i o, s.offer i = some o → o.frame ≠ f) (noDeparture : ∀ st, s.teardown w.ctx ≠ some ⟨st, .departure f⟩)
    (who : ofRelease w.requester = true) (frame : w.frame = some f)
    (drain : ∀ p i, (p, i) ∈ w.drain ↔ ∃ k, InTransit s p i w.ctx k ∧ (w.frame = none ∨ w.frame = some k)) :
    Holding { s.setFrame f r with withdrawals := s.withdrawals ++ [w] } := by
  have frames (k : Frame) : (s.setFrame f r).frame k = if k = f then r else s.frame k := State.frame_setFrame ..
  have split {x : Withdrawal} (listed : x ∈ s.withdrawals ++ [w]) : x ∈ s.withdrawals ∨ x = w :=
    (List.mem_append.1 listed).imp_right List.mem_singleton.1
  have notReclaim : (s.frame f).state ≠ .reclaim := by rw [held]; nofun
  have none' {x : Withdrawal} (listed : x ∈ s.withdrawals) : x.frame ≠ some f := by
    intro at'
    have coHeld (asks : ofCoHolder x.requester = true) : False := by
      obtain ⟨y, listed', -⟩ := h.flagged x listed asks f at'
      rw [tail] at listed'
      cases listed'
    cases asks : x.requester with
    | release p t => exact notReclaim (h.releases x listed (by rw [asks]; rfl) f at').1
    | leave p t => exact coHeld (by rw [asks]; rfl)
    | revoke p t => exact coHeld (by rw [asks]; rfl)
    | departure o => exact coHeld (by rw [asks]; rfl)
    | teardown =>
      have whole := (h.drains x listed asks).1
      rw [at'] at whole
      cases whole
  have teardown : w.requester ≠ .teardown := by
    intro asks
    rw [asks] at who
    cases who
  refine { h with
    holders := fun k => ?_, origins := fun k x => ?_, entries := fun c g e there => ?_, offers := fun i o there => ?_,
    departures := fun c st k there => ?_, flagged := fun x listed asks k at' => ?_, drains := fun x listed asks => ?_,
    records := ⟨fun x listed asks => ?_, ?_⟩, releases := fun x listed asks k at' => ?_,
    drainSets := fun x listed => ?_, transit := fun p i c k there => ?_, loads := h.loads_of rfl rfl }
  · show (((s.setFrame f r).frame k).state = .held ↔ ((s.setFrame f r).frame k).holders ≠ []) ∧
      (((s.setFrame f r).frame k).holders.map Holder.ctx).Nodup
    rw [frames]
    split_ifs
    · rw [empty, reclaim]
      exact ⟨iff_of_false nofun fun none => none rfl, List.nodup_nil⟩
    · exact h.holders k
  · show ((s.setFrame f r).frame k).holders.head? = some x → _
    rw [frames]
    split_ifs
    · rw [empty]
      nofun
    · exact h.origins k x
  · show ((s.setFrame f r).frame e.frame).state = .held ∧ ∃ x ∈ ((s.setFrame f r).frame e.frame).holders, _
    rw [frames, if_neg (noEntries c g e there)]
    exact h.entries c g e there
  · obtain ⟨origin, other, single⟩ := h.offers i o there
    show originOf ((s.setFrame f r).frame o.frame).holders = _ ∧ holds ((s.setFrame f r).frame o.frame).holders _ = _ ∧ _
    rw [frames, if_neg (noOffers i o there)]
    exact ⟨origin, other, single⟩
  · obtain ⟨x, first, ctx, flag⟩ := h.departures c st k there
    have other : k ≠ f := by
      rintro rfl
      obtain rfl := ctx.symm.trans (sole x (List.mem_of_mem_head? first))
      exact noDeparture st there
    show ∃ x, ((s.setFrame f r).frame k).holders.head? = some x ∧ _
    rw [frames, if_neg other]
    exact ⟨x, first, ctx, flag⟩
  · show ∃ y ∈ ((s.setFrame f r).frame k).holders.tail, _
    rcases split listed with old | rfl
    · rw [frames, if_neg (by rintro rfl; exact none' old at')]
      exact h.flagged x old asks k at'
    · cases req : x.requester with
      | release p t =>
        rw [req] at asks
        cases asks
      | leave p t => rw [req] at who; cases who
      | revoke p t => rw [req] at who; cases who
      | departure o => rw [req] at who; cases who
      | teardown => exact absurd req teardown
  · rcases split listed with old | rfl
    · exact h.drains x old asks
    · exact absurd asks teardown
  · rcases split listed with old | rfl
    · exact h.records.1 x old asks
    · rw [frame]
      rfl
  · show ((s.withdrawals ++ [w]).map _).Nodup
    rw [List.map_append, List.map_singleton, List.nodup_append]
    refine ⟨h.records.2, List.nodup_singleton _, fun a ha b hb same => ?_⟩
    obtain ⟨x, listed, rfl⟩ := List.mem_map.1 ha
    cases List.mem_singleton.1 hb
    exact none' listed ((congrArg Prod.snd same).trans frame)
  · show ((s.setFrame f r).frame k).state = .reclaim ∧ _
    rw [frames]
    rcases split listed with old | rfl
    · have other : k ≠ f := by
        rintro rfl
        exact none' old at'
      rw [if_neg other]
      obtain ⟨state, only⟩ := h.releases x old asks k at'
      refine ⟨state, fun y listed' atY => ?_⟩
      rcases split listed' with old' | rfl
      · exact only y old' atY
      · exact absurd (Option.some.inj (atY.symm.trans frame)) other
    · obtain rfl := Option.some.inj (at'.symm.trans frame)
      rw [if_pos rfl]
      refine ⟨reclaim, fun y listed' atY => ?_⟩
      rcases split listed' with old' | rfl
      · exact absurd atY (none' old')
      · rfl
  · rcases split listed with old | rfl
    · exact h.drainSets x old
    · exact drain
  · show ((s.setFrame f r).frame k).state = .held ∧ (∃ y ∈ ((s.setFrame f r).frame k).holders, _) ∨
      ((s.setFrame f r).frame k).state = .reclaim ∧ _
    rw [frames]
    split_ifs with hk
    · subst hk
      rcases h.transit p i c k there with ⟨-, y, listed, ctx⟩ | ⟨state, -⟩
      · have same : c = w.ctx := ctx.symm.trans (sole y listed)
        refine .inr ⟨reclaim, w, List.mem_append_right _ (.head _), who, same.symm, frame, ?_⟩
        exact (drain p i).2 ⟨k, same ▸ there, .inr frame⟩
      · exact absurd state notReclaim
    · rcases h.transit p i c k there with held' | ⟨state, x, listed, rest⟩
      · exact .inl held'
      · exact .inr ⟨state, x, List.mem_append_left _ listed, rest⟩

/-- A RELEASE is accepted (R16). -/
theorem acceptRelease {p : Port} {t : Tag} {c : Ctx} {f : Frame} (held : (s.frame f).state = .held)
    (origin : originOf (s.frame f).holders = some c) (tail : (s.frame f).holders.tail = [])
    (idle : ∀ st, s.teardown c ≠ some ⟨st, .departure f⟩) :
    Holding (startWithdrawal (cancelOffersOn (Machine.giveUp (activate s p t) f c) f) c (some f) (.release p t)) := by
  have given := Kept.givenUp s p t f c
  generalize Machine.giveUp (activate s p t) f c = g at given ⊢
  have offersEnded := offersEnded_cancelOffersOn g f
  have cancelled := Kept.cancelOffersOn g f
  generalize cancelOffersOn g f = v at offersEnded cancelled ⊢
  have entriesEnded := invalidated v c (some f)
  have invalid := Kept.invalidate v c (some f)
  rw [startWithdrawal_eq]
  generalize invalidate v c (some f) = u at entriesEnded invalid ⊢
  have sole : ∀ x ∈ (s.frame f).holders, x.ctx = c := by
    obtain ⟨y, first, ctx⟩ := (originOf_iff _ _).1 origin
    intro x listed
    cases list : (s.frame f).holders with
    | nil =>
      rw [list] at listed
      cases listed
    | cons z rest =>
      rw [list] at tail first listed
      obtain rfl : rest = [] := tail
      obtain rfl := Option.some.inj first
      rw [List.mem_singleton.1 listed]
      exact ctx
  have offer (i : OfferId) : (g.offer i).map OfferRec.parties = (s.offer i).map OfferRec.parties := given.alike.offers i
  have entry (d : Ctx) (k : Page) : v.entry d k = s.entry d k :=
    (cancelled.alike.entries d k).trans (given.alike.entries d k)
  have maps : Holding { s with maps := u.maps } := h.withMapsOf entriesEnded entry
  have tables : Holding { s with maps := u.maps, offers := g.offers } := by
    refine maps.kept ⟨{ Alike.refl _ with offers := offer }, rfl, rfl⟩
  have fewer : Holding { s with maps := u.maps, offers := v.offers } := by
    refine tables.fewerOffers fun i o there => ?_
    change v.offer i = some o at there
    have was := offersEnded.offer i
    rw [there] at was
    split_ifs at was
    exact was.symm
  have recorded := fewer.release (f := f) (w := ⟨c, some f, .release p t, drainSet v c (some f)⟩)
    (r := { s.frame f with state := .reclaim, holders := [], pendingOffers := 0 }) rfl rfl held sole tail
    (fun d k e there at' => by
      change u.entry d k = some e at there
      have was := entriesEnded.entry d k
      rw [there] at was
      split_ifs at was with lost
      have old : s.entry d k = some e := (entry d k).symm.trans was.symm
      obtain ⟨-, y, listed, ctx, -⟩ := h.entries d k e old
      rw [at'] at listed
      obtain rfl := ctx.symm.trans (sole y listed)
      refine lost ⟨rfl, List.mem_finRange k, (loses_iff v _ (some f) k).2 ⟨f, ?_, .inr rfl⟩⟩
      rw [← was, Option.map_some, at'])
    (fun i o there at' => by
      change v.offer i = some o at there
      have was := offersEnded.offer i
      rw [there] at was
      split_ifs at was with hit
      refine hit ⟨List.mem_finRange i, ?_⟩
      rw [← was]
      simpa using at')
    idle rfl rfl (fun q i => by
      rw [mem_drainSet_iff]
      refine exists_congr fun k => and_congr_left fun _ => ?_
      exact (cancelled.alike.inTransit q i c k).trans (given.alike.inTransit q i c k))
  have tablesKept := (given.withTables u.maps v.offers).trans
    (show Kept { g with maps := u.maps, offers := v.offers } { v with maps := u.maps } from
      cancelled.withTables u.maps v.offers)
  have withdrawals : v.withdrawals = s.withdrawals := cancelled.alike.withdrawals.trans given.alike.withdrawals
  rw [withdrawals]
  exact recorded.kept ((tablesKept.trans invalid).withWithdrawals _)

end Holding

/-! ## What is due -/

theorem setStep_reclaimExit (s : State) (f : Frame) (c d : Ctx) (y : TeardownStep) :
    setStep (reclaimExit (giveUp s f c) f) d y = reclaimExit (giveUp (setStep s d y) f c) f := by
  have teardown : (reclaimExit (giveUp s f c) f).teardown d = s.teardown d := by
    rw [reclaimExit_frame]
    rfl
  unfold setStep
  rw [teardown]
  cases s.teardown d with
  | none => rfl
  | some td =>
    dsimp only
    rw [reclaimExit_eq, reclaimExit_eq]
    have frame : (giveUp (s.setTeardown d (some { td with step := y })) f c).frame f = (giveUp s f c).frame f := rfl
    have engine : (giveUp (s.setTeardown d (some { td with step := y })) f c).scrub = (giveUp s f c).scrub := rfl
    rw [frame, engine]
    split_ifs <;> rfl

theorem DueStep.holding {s t : State} (due : DueStep s t) (g : Grounds s) (h : Holding s) : Holding t := by
  have coHolderEnds {w : Withdrawal} (listed : w ∈ s.withdrawals) (empty : w.drain = []) {f : Frame}
      (frame : w.frame = some f) (who : ofCoHolder w.requester = true) :
      Holding (removeHolder (removeRecord s w) f w.ctx) := by
    obtain ⟨x, tail, ctx, flag⟩ := h.flagged w listed who f frame
    refine (h.removeRecord listed empty).removeHolder (fun y first same => ?_) (fun k e there at' => ?_)
      (h.not_inTransit listed empty (.inr frame)) fun v left _ at' same => ?_
    · exact coHolder_ne_head (h.holders f).2 tail first (ctx.trans same.symm)
    · subst at'
      have free := h.not_withdrawing_of_entry there (List.mem_of_mem_tail tail) ctx
      rw [flag] at free
      cases free
    · exact (of_removeRecord left).2 ⟨same, at'.trans frame.symm⟩
  cases due with
  | @released w listed empty f frame p t who results =>
    have exits := (h.removeRecord listed empty).reclaimExit (f := f) fun v left asks at' => by
      obtain ⟨old, other⟩ := of_removeRecord left
      obtain rfl := (h.releases w listed (by rw [who]; rfl) f frame).2 v old at'
      exact other ⟨rfl, rfl⟩
    exact exits.kept (.respond _ _ _ _ _)
  | @hasLeft w listed empty f frame p t who =>
    exact (coHolderEnds listed empty frame (by rw [who]; rfl)).kept ((Kept.notifyOrigin _ _ _).trans (.respond _ _ _ _ _))
  | @revoked w listed empty f frame p t who =>
    exact (coHolderEnds listed empty frame (by rw [who]; rfl)).kept ((Kept.notifyOwner _ _ _).trans (.respond _ _ _ _ _))
  | @departed w listed empty f frame o who =>
    exact (coHolderEnds listed empty frame (by rw [who]; rfl)).kept (.notifyOwner _ _ _)
  | @drained w listed empty who =>
    obtain ⟨frame, st, there⟩ := h.drains w listed who
    have removed := h.removeRecord listed empty
    have there' : (removeRecord s w).teardown w.ctx = some ⟨st, .drain⟩ := there
    unfold endDrain
    rw [there']
    refine removed.withStep there' nofun (fun _ => .inl rfl) nofun
      (fun _ => .inr fun p i f => h.not_inTransit listed empty (.inl frame) p i) nofun fun _ => .inl fun v left asks same => ?_
    obtain ⟨old, other⟩ := of_removeRecord left
    exact other ⟨same, (h.drains v old asks).1.trans frame.symm⟩
  | @dropped w listed empty frame who =>
    have some' := h.records.1 w listed who
    rw [frame] at some'
    cases some'
  | drains teardown idle => exact h.startContextWithdrawal teardown idle
  | gone teardown past => exact h.withinStep5 teardown past nofun rfl
  | waits teardown past => exact h.withinStep5 teardown past nofun rfl
  | @leaves c st x teardown past f held stands free other =>
    have entries := (h.noEntries c _ teardown (pastLoads_of_pastDrain past)).1
    have left : Holding (removeHolder s f c) := by
      refine h.removeHolder (fun y first same => other ?_) (fun k e there => ?_) (fun p i => h.drained c _ teardown past p i f)
        fun w listed who at' _ => ?_
      · rw [List.head?_map, first, Option.map_some, same]
      · rw [entries k] at there
        cases there
      · obtain ⟨y, tail, -, flag⟩ := h.flagged w listed who f at'
        rw [(anyWithdrawing_eq_false _).1 free y (List.mem_of_mem_tail tail)] at flag
        cases flag
    have told := left.kept (.notifyOrigin _ f (.shareLeft f c))
    refine told.withinStep5 (st := st) (x := x) ?_ past nofun rfl
    rw [(Kept.notifyOrigin _ _ _).alike.teardowns]
    exact teardown
  | @givesUp c st x teardown past f held origin sole =>
    rw [setStep_reclaimExit]
    have stepped : Holding (setStep s c .frames) := h.withinStep5 teardown past nofun rfl
    have now : (setStep s c .frames).teardown c = some ⟨st, .frames⟩ := teardown_setStep s c teardown
    have pastLoad := pastLoads_of_pastDrain past
    have first : originOf (s.frame f).holders = some c := by
      rcases origin with rfl | ⟨first, -⟩
      · obtain ⟨y, head, ctx, -⟩ := h.departures c st f teardown
        exact (originOf_iff _ _).2 ⟨y, head, ctx⟩
      · rw [originOf_eq]
        exact first
    rw [setStep_of_some teardown] at stepped now ⊢
    have only : ∀ y ∈ (s.frame f).holders, y.ctx = c := by
      obtain ⟨y, head, ctx⟩ := (originOf_iff _ _).1 first
      intro z listed
      cases list : (s.frame f).holders with
      | nil =>
        rw [list] at listed
        cases listed
      | cons a rest =>
        rw [list] at sole head listed
        obtain rfl : rest = [] := sole
        obtain rfl := Option.some.inj head
        rw [List.mem_singleton.1 listed]
        exact ctx
    have given := stepped.giveUp (f := f) (c := c) held only sole (h.noEntries c _ teardown pastLoad).1
      (h.noOffers c _ teardown (by rintro rfl; cases past)) (fun p i => h.drained c _ teardown past p i f)
      fun st' there => by
        rw [now] at there
        cases there
    refine given.reclaimExit fun w listed who at' => ?_
    have reclaim := (h.releases w listed who f at').1
    rw [held] at reclaim
    cases reclaim
  | @inherits c st x teardown past f held free origin d heir room =>
    have promoted := h.promote (d := d) held free origin (h.noEntries c _ teardown (pastLoads_of_pastDrain past)).1
      (h.noOffers c _ teardown (by rintro rfl; cases past)) fun p i => h.drained c _ teardown past p i f
    have told := promoted.kept (.notifyOwner _ d.ctx (.originInherited f d.ctx))
    refine told.withinStep5 (st := st) (x := x) ?_ past nofun rfl
    rw [(Kept.notifyOwner _ _ _).alike.teardowns]
    exact teardown
  | @departs c st x teardown past f held free origin =>
    have marked : Holding (markWithdrawing s f c) := h.markWithdrawing fun k e there => by
      rw [(h.noEntries c _ teardown (pastLoads_of_pastDrain past)).1 k] at there
      cases there
    refine marked.withinStep5 (st := st) (x := x) teardown past (fun k same => ?_) rfl
    cases same
    obtain ⟨y, head, ctx⟩ := Option.map_eq_some_iff.1 (List.head?_map.symm.trans origin)
    refine ⟨{ y with withdrawing := true }, ?_, ctx, rfl⟩
    unfold markWithdrawing
    rw [frame_modFrame, if_pos rfl]
    exact List.head?_map.trans (by rw [head, Option.map_some, if_pos ctx])
  | @takesNext c st f teardown held d next free =>
    exact h.withdrawHolder rfl held (List.mem_of_mem_head? next) free
  | @finishes c st teardown nowhere =>
    have ended : Holding (s.setTeardown c none) := by
      refine h.withoutTeardown fun w listed who at' => ?_
      obtain ⟨-, st', there⟩ := h.drains w listed who
      rw [at', teardown] at there
      cases there
    have freed (pool : pooled c = true) : Holding (freedCtx s c) := by
      have state : (s.ctx c).state = .teardown := by
        have placed := h.placed teardown
        unfold TeardownPlaced at placed
        rw [homePort_of_pooled pool] at placed
        exact placed
      have unbound := h.unbound_of_not_live (c := c) (by rw [state]; nofun)
      have gone : (s.setTeardown c none).teardown c = none := by rw [State.teardown_setTeardown, if_pos rfl]
      unfold freedCtx
      cases (s.ctx c).owner with
      | none => exact ended.setCtx gone unbound
      | some p =>
        have returned : Holding (modCtx (s.setTeardown c none) (homeOf p) fun x =>
            { x with quota := x.quota + (s.ctx c).quota }) := ended.kept ⟨.modCtx rfl rfl, rfl, rfl⟩
        exact returned.setCtx gone unbound
    rcases finishTeardown_cases s c with ⟨-, same⟩ | ⟨pool, ⟨p, t, x, -, same⟩ | ⟨-, same⟩⟩
    · rw [same]
      exact ended
    · rw [same]
      exact (freed pool).kept (.respond _ _ _ _ _)
    · rw [same]
      exact freed pool
  | @enters p c down pool owned live before =>
    have idle := h.noTeardown_of_home before
    have entered : Holding (modPort s p fun x => { x with state := .teardown (.contexts c) }) :=
      h.setPort (fun _ => rfl) (fun there => by rw [idle] at there; cases there) (h.bindings p).1 (h.bindings p).2
    refine entered.startPooledTeardown pool live owned (entered.unbound_of_owner owned ?_)
    obtain ⟨-, -, bound, binding⟩ := (g.tables p).lanes down
    rw [port_modPort, if_pos rfl]
    refine ⟨?_, fun t there => ?_⟩
    · show (s.port p).bound ≠ c
      rw [bound]
      rintro rfl
      rw [pooled_homeOf] at pool
      cases pool
    · change (s.port p).binding = _ at there
      rw [binding] at there
      cases there
  | @joins p c down pool owned teardown before =>
    have idle := h.noTeardown_of_home before
    exact h.setPort (fun _ => rfl) (fun there => by rw [idle] at there; cases there) (h.bindings p).1 (h.bindings p).2
  | @entersHome p down before =>
    have idle := h.noTeardown_of_home before
    have entered : Holding (modPort s p fun x => { x with state := .teardown (.contexts (homeOf p)) }) :=
      h.setPort (fun _ => rfl) (fun _ => rfl) (h.bindings p).1 (h.bindings p).2
    refine entered.cancelThenEndLoads (.of_home ?_) (g.contexts.home p).2 fun td there => ?_
    · rw [port_modPort, if_pos rfl]
    · change s.teardown (homeOf p) = some td at there
      rw [idle] at there
      cases there
  | @ends p state ended =>
    exact h.setPort (fun _ => rfl) (fun there => by rw [ended] at there; cases there) (h.bindings p).1 (h.bindings p).2

/-! ## Every step -/

theorem Start.holding {s t : State} (start : Start s t) (g : Grounds s) (h : Holding s) : Holding t := by
  cases start with
  | act act => exact act.holding g h
  | due due => exact due.holding g h
  | @released p t c f waits acting held origin sole =>
    refine h.acceptRelease held origin sole fun st there => ?_
    rw [h.noTeardown_of_acting g.contexts acting waits.up] at there
    cases there
  | @withdraws p t k who f d waits slot requester held coHolder free =>
    have active : Holding (activate s p t) := h.kept (.activate s p t)
    exact active.withdrawHolder requester held coHolder free
  | @offersCancelled c st teardown =>
    refine h.cancelThenEndLoads (h.placed teardown) (h.starter teardown) fun td there => ?_
    rw [teardown] at there
    cases there
    rfl
  | @cut p up =>
    obtain ⟨l, k, -, started⟩ := startPortTeardown_eq s p
    rw [started]
    have idle := h.noTeardown_of_home (p := p) (by rw [up]; nofun)
    have cut : Holding (s.setPort p { s.port p with
        state := .teardown .loads
        notices := []
        dropped := 0
        arriving := []
        bound := homeOf p
        binding := .settled
        plainLane := []
        elevatedLane := []
        lastLane := .plain
        accessResponses := (s.port p).accessResponses ++ l
        slots := (s.port p).slots.filterMap discardSlot }) :=
      h.setPort (fun _ => rfl) (fun there => by rw [idle] at there; cases there) (g.contexts.home p) nofun
    have chosen := cut.kept (t := { State.setPort s p _ with choices := k }) ⟨.of_eq rfl rfl rfl rfl rfl rfl rfl, rfl, rfl⟩
    exact chosen.loadsEnd (.endLoadsWhere _ _ _) (chosen.loads.engine.endLoadsWhere _ _)

theorem Holding.settle {s : State} (g : Grounds s) (h : Holding s) : Holding (settle s) := by
  have both := DueStep.kept_by_settle (P := fun s => Grounds s ∧ Holding s)
    (fun s n k => ⟨⟨k.1.lists.of_eq (fun _ => rfl) rfl rfl rfl, k.1.contexts.of_eq fun _ => rfl, k.1.tables⟩, k.2.kept ⟨.of_eq rfl rfl rfl rfl rfl rfl rfl, rfl, rfl⟩⟩)
    (fun s t k due => ⟨k.1.moves due.moves, due.holding k.1 k.2⟩)
    (fun s k => ⟨k.1.moves (Moves.placeNotices s), k.2.kept (.placeNotices s)⟩) ⟨g, h⟩
  exact both.2

theorem Turn.holding {s t : State} (turn : Turn s t) (g : Grounds s) (h : Holding s) : Holding t := by
  cases turn with
  | act act => exact act.holding g h
  | @event u starts =>
    have both : Grounds u ∧ Holding u := by
      induction starts with
      | refl => exact ⟨g, h⟩
      | tail _ last ih => exact ⟨ih.1.moves last.moves, last.holding ih.1 ih.2⟩
    exact both.2.settle both.1

theorem Turns.holding {s t : State} (turns : Turns s t) (g : Grounds s) (h : Holding s) : Holding t := by
  have both : Grounds t ∧ Holding t := by
    induction turns with
    | refl => exact ⟨g, h⟩
    | tail _ last ih => exact ⟨ih.1.moves last.moves, last.holding ih.1 ih.2⟩
  exact both.2

/-- A state held in reset has its reset contents. -/
theorem InReset.fresh {s : State} (h : InReset s) : Fresh s := by
  have fresh := fresh_resetBlocks s true s.part .down .idle
  rwa [h.contents] at fresh

theorem holding_exec {c : Instr} {s t : State} (lists : FrameLists s) (contexts : ContextLaw s) (ports : PortTables s)
    (h : Holding s) (run : exec c s = .next t) : Holding t := by
  have tables (p : Port) : TablesLaw p (s.port p) := ((portLaw_iff p _).1 (ports.port p)).1
  cases asserted : s.rstAsserted with
  | true =>
    have reset := lists.inReset_of asserted
    rcases reset.exec run with ⟨part, rfl⟩ | rfl | ⟨p, level, access, control, rfl⟩
    · obtain rfl : (if s.rstAsserted then releaseReset s part else s) = t := by injection run
      rw [if_pos asserted]
      exact (fresh_releaseReset s part).holding
    · exact h
    · exact (reset.setPort p level access control).fresh.holding
  | false =>
    have grounds : Grounds s := ⟨lists.listsLaw asserted, contexts, tables⟩
    rcases turns_of_exec tables run with turns | rfl | ⟨part, rfl⟩ | ⟨f, ⟨⟨k, age, -, current⟩, -⟩, rfl⟩
    · exact turns.holding grounds h
    · obtain rfl : (if s.rstAsserted then s else assertReset s) = t := by injection run
      rw [if_neg (by rw [asserted]; nofun)]
      exact (fresh_assertReset s).holding
    · obtain rfl : (if s.rstAsserted then releaseReset s part else s) = t := by injection run
      rw [if_neg (by rw [asserted]; nofun)]
      exact h
    · have freed : Holding (modFrame s f fun x => { x with state := .free, errorMark := false }) :=
        h.leaveScrub (grounds.lists.state_current current) nofun rfl
      exact freed.kept (t := scrubbed s f) ⟨.of_eq rfl rfl rfl rfl rfl rfl rfl, rfl, rfl⟩

/-- Settles O56: each act and each thing due keeps the law, upon the laws of the frame lists, of the contexts and of the ports'
tables, which hold within an event too. -/
theorem holdingKept : Obligations.HoldingKept := by
  intro s t lists contexts ports h run
  rcases of_step run with rfl | ⟨c, rest, -, run⟩
  · exact h
  · have queued : PortTables { s with pending := rest } :=
      ⟨ports.port, SameCarried.carried (s := s) (.of_eq rfl rfl rfl rfl) ports.carried⟩
    exact holding_exec (lists.withPending rest) (contexts.of_eq fun _ => rfl) queued
      (h.kept ⟨.of_eq rfl rfl rfl rfl rfl rfl rfl, rfl, rfl⟩) run

end Sys2Proof.Machine
end

section
/-! SUPPORT. How the law of counts bears a change of one entry, one holder list or one offer. -/

namespace Sys2Proof.Machine

open Sys2Proof

/-! ## Sums and counts -/

/-- Two sums over sixteen contexts that differ in one term at most. -/
theorem sum_change {a b : Ctx → Nat} (c : Ctx) (same : ∀ d, d ≠ c → b d = a d) :
    ((List.finRange 16).map b).sum + a c = ((List.finRange 16).map a).sum + b c := by
  have rest : ∑ d ∈ Finset.univ.erase c, b d = ∑ d ∈ Finset.univ.erase c, a d :=
    Finset.sum_congr rfl fun d hd => same d (Finset.ne_of_mem_erase hd)
  have sum (f : Ctx → Nat) : ((List.finRange 16).map f).sum = ∑ d, f d := (Fin.sum_univ_def f).symm
  rw [sum, sum, ← Finset.add_sum_erase _ _ (Finset.mem_univ c), rest,
    ← Finset.add_sum_erase (a := c) _ a (Finset.mem_univ c)]
  omega

theorem count_pos {n : Nat} {test : Fin n → Bool} {i : Fin n} (h : test i = true) : 0 < count test :=
  List.countP_pos_iff.2 ⟨i, List.mem_finRange i, h⟩

theorem count_eq_zero {n : Nat} {test : Fin n → Bool} : count test = 0 ↔ ∀ i, test i = false := by
  unfold count
  rw [List.countP_eq_zero]
  simp only [List.mem_finRange, forall_const, Bool.not_eq_true]

/-! ## What is counted -/

/-- The entry names the frame. -/
def Names (x : Option MapEntry) (f : Frame) : Bool := x.map MapEntry.frame == some f

/-- The context is the origin in the list. -/
def Originates (hs : List Holder) (c : Ctx) : Bool := originOf hs == some c

/-- The context is a co-holder in the list. -/
def Shares (hs : List Holder) (c : Ctx) : Bool := holds hs.tail c

theorem originates_congr {hs hs' : List Holder} (same : hs'.map Holder.ctx = hs.map Holder.ctx) (c : Ctx) :
    Originates hs' c = Originates hs c := by
  unfold Originates
  rw [originOf_eq, originOf_eq, same]

theorem holds_congr {hs hs' : List Holder} (same : hs'.map Holder.ctx = hs.map Holder.ctx) (c : Ctx) :
    holds hs' c = holds hs c := by
  rw [Bool.eq_iff_iff, holds_iff, holds_iff, same]

theorem shares_congr {hs hs' : List Holder} (same : hs'.map Holder.ctx = hs.map Holder.ctx) (c : Ctx) :
    Shares hs' c = Shares hs c := by
  refine holds_congr ?_ c
  rw [List.map_tail, List.map_tail, same]

theorem length_congr {hs hs' : List Holder} (same : hs'.map Holder.ctx = hs.map Holder.ctx) : hs'.length = hs.length := by
  rw [← List.length_map (f := Holder.ctx), same, List.length_map]

/-! ## States that the law of counts cannot tell apart -/

/-- `t` has what the law of counts speaks of in `s`. -/
structure SameCounts (s t : State) : Prop where
  holders : ∀ f, (t.frame f).holders.map Holder.ctx = (s.frame f).holders.map Holder.ctx
  mapCount : ∀ f, (t.frame f).mapCount = (s.frame f).mapCount
  pending : ∀ f, (t.frame f).pendingOffers = (s.frame f).pendingOffers
  valid : ∀ c, (t.ctx c).validCount = (s.ctx c).validCount
  charged : ∀ c, (t.ctx c).charged = (s.ctx c).charged
  shared : ∀ c, (t.ctx c).shareCount = (s.ctx c).shareCount
  free : ∀ c, (t.ctx c).state = .free → (s.ctx c).state = .free
  entries : ∀ c g, (t.entry c g).map MapEntry.frame = (s.entry c g).map MapEntry.frame
  offers : ∀ i, (t.offer i).map OfferRec.frame = (s.offer i).map OfferRec.frame

section
variable {s t : State}

theorem entriesNaming_congr (entries : ∀ c g, (t.entry c g).map MapEntry.frame = (s.entry c g).map MapEntry.frame)
    (f : Frame) : entriesNaming t f = entriesNaming s f :=
  congrArg List.sum (List.map_congr_left fun c _ => count_congr fun g => by rw [entries])

theorem entriesOf_congr (entries : ∀ c g, (t.entry c g).map MapEntry.frame = (s.entry c g).map MapEntry.frame)
    (c : Ctx) : entriesOf t c = entriesOf s c :=
  count_congr fun g => by rw [← Option.isSome_map (f := MapEntry.frame), entries, Option.isSome_map]

theorem framesOriginated_congr (holders : ∀ f, (t.frame f).holders.map Holder.ctx = (s.frame f).holders.map Holder.ctx)
    (c : Ctx) : framesOriginated t c = framesOriginated s c :=
  count_congr fun f => originates_congr (holders f) c

theorem framesShared_congr (holders : ∀ f, (t.frame f).holders.map Holder.ctx = (s.frame f).holders.map Holder.ctx)
    (c : Ctx) : framesShared t c = framesShared s c :=
  count_congr fun f => shares_congr (holders f) c

theorem offersOn_congr (offers : ∀ i, (t.offer i).map OfferRec.frame = (s.offer i).map OfferRec.frame) (f : Frame) :
    offersOn t f = offersOn s f :=
  count_congr fun i => by rw [offers]

end

theorem CountLaw.congr {s t : State} (h : CountLaw s) (same : SameCounts s t) : CountLaw t where
  mapCount f := by rw [same.mapCount, entriesNaming_congr same.entries, h.mapCount]
  validCount c := by rw [same.valid, entriesOf_congr same.entries, h.validCount]
  charged c := by rw [same.charged, framesOriginated_congr same.holders, h.charged]
  shareCount c := by rw [same.shared, framesShared_congr same.holders, h.shareCount]
  pendingOffers f := by rw [same.pending, offersOn_congr same.offers, h.pendingOffers]
  places f := by
    rw [length_congr (same.holders f), same.pending]
    exact h.places f
  freeCtx c free := by
    obtain ⟨none', nowhere⟩ := h.freeCtx c (same.free c free)
    rw [entriesOf_congr same.entries]
    exact ⟨none', fun f => (holds_congr (same.holders f) c).trans (nowhere f)⟩

namespace SameCounts

theorem refl (s : State) : SameCounts s s :=
  ⟨fun _ => rfl, fun _ => rfl, fun _ => rfl, fun _ => rfl, fun _ => rfl, fun _ => rfl, fun _ => id, fun _ _ => rfl,
    fun _ => rfl⟩

theorem trans {s t u : State} (h : SameCounts s t) (k : SameCounts t u) : SameCounts s u where
  holders f := (k.holders f).trans (h.holders f)
  mapCount f := (k.mapCount f).trans (h.mapCount f)
  pending f := (k.pending f).trans (h.pending f)
  valid c := (k.valid c).trans (h.valid c)
  charged c := (k.charged c).trans (h.charged c)
  shared c := (k.shared c).trans (h.shared c)
  free c free := h.free c (k.free c free)
  entries c g := (k.entries c g).trans (h.entries c g)
  offers i := (k.offers i).trans (h.offers i)

variable {s t : State}

/-- The tables that the law speaks of are the same. -/
theorem of_eq (frames : t.frames = s.frames) (contexts : t.contexts = s.contexts) (maps : t.maps = s.maps)
    (offers : t.offers = s.offers) : SameCounts s t := by
  have frame (f : Frame) : t.frame f = s.frame f := by
    unfold State.frame
    rw [frames]
  have ctx (c : Ctx) : t.ctx c = s.ctx c := by
    unfold State.ctx
    rw [contexts]
  refine ⟨fun f => ?_, fun f => ?_, fun f => ?_, fun c => ?_, fun c => ?_, fun c => ?_, fun c => ?_, fun c g => ?_, fun i => ?_⟩
  · rw [frame]
  · rw [frame]
  · rw [frame]
  · rw [ctx]
  · rw [ctx]
  · rw [ctx]
  · rw [ctx]
    exact id
  · unfold State.entry
    rw [maps]
  · unfold State.offer
    rw [offers]

/-- A frame's record changes in what the law does not speak of. -/
theorem modFrame {f : Frame} {g : FrameRec → FrameRec}
    (holders : (g (s.frame f)).holders.map Holder.ctx = (s.frame f).holders.map Holder.ctx)
    (mapCount : (g (s.frame f)).mapCount = (s.frame f).mapCount)
    (pending : (g (s.frame f)).pendingOffers = (s.frame f).pendingOffers) : SameCounts s (modFrame s f g) := by
  refine { refl s with holders := fun k => ?_, mapCount := fun k => ?_, pending := fun k => ?_ }
  all_goals
    rw [frame_modFrame]
    split_ifs with hk
  · rw [hk, holders]
  · rfl
  · rw [hk, mapCount]
  · rfl
  · rw [hk, pending]
  · rfl

/-- A context's record changes in what the law does not speak of. -/
theorem modCtx {c : Ctx} {g : CtxRec → CtxRec} (valid : (g (s.ctx c)).validCount = (s.ctx c).validCount)
    (charged : (g (s.ctx c)).charged = (s.ctx c).charged) (shared : (g (s.ctx c)).shareCount = (s.ctx c).shareCount)
    (free : (g (s.ctx c)).state = .free → (s.ctx c).state = .free) : SameCounts s (modCtx s c g) := by
  refine { refl s with valid := fun d => ?_, charged := fun d => ?_, shared := fun d => ?_, free := fun d => ?_ }
  all_goals
    rw [ctx_modCtx]
    split_ifs with hd
  · rw [hd, valid]
  · rfl
  · rw [hd, charged]
  · rfl
  · rw [hd, shared]
  · rfl
  · rw [hd]
    exact free
  · exact id

theorem respond (s : State) (p : Port) (t : Tag) (v : Verdict) (rs : List Byte) : SameCounts s (respond s p t v rs) :=
  of_eq rfl rfl rfl rfl

theorem addressOwner (s : State) (c : Ctx) (n : Notice) : SameCounts s (addressOwner s c n) := by
  unfold Machine.addressOwner
  split
  · exact of_eq rfl rfl rfl rfl
  · exact refl s

theorem notifyOwner (s : State) (c : Ctx) (n : Notice) : SameCounts s (notifyOwner s c n) := by
  unfold Machine.notifyOwner
  split
  · exact of_eq rfl rfl rfl rfl
  · exact refl s

theorem notifyOrigin (s : State) (f : Frame) (n : Notice) : SameCounts s (notifyOrigin s f n) := by
  unfold Machine.notifyOrigin
  split
  · exact notifyOwner _ _ _
  · exact refl s

theorem setStep (s : State) (c : Ctx) (y : TeardownStep) : SameCounts s (setStep s c y) := by
  unfold Machine.setStep
  split
  · exact of_eq rfl rfl rfl rfl
  · exact refl s

theorem reclaimExit (s : State) (f : Frame) : SameCounts s (reclaimExit s f) := by
  have retired : SameCounts s (Machine.modFrame s f fun x => { x with state := .retired }) := modFrame rfl rfl rfl
  have scrub : SameCounts s (Machine.modFrame s f fun x => { x with state := .scrub }) := modFrame rfl rfl rfl
  rw [reclaimExit_eq]
  split_ifs
  · exact refl s
  · exact retired
  · exact scrub.trans (of_eq rfl rfl rfl rfl)
  · exact scrub.trans (of_eq rfl rfl rfl rfl)

theorem markWithdrawing (s : State) (f : Frame) (c : Ctx) : SameCounts s (markWithdrawing s f c) := by
  refine modFrame ?_ rfl rfl
  rw [List.map_map]
  refine List.map_congr_left fun x _ => ?_
  simp only [Function.comp]
  split_ifs <;> rfl

theorem endRunning (s : State) (e : LoadEnd) : SameCounts s (endRunning s e) := by
  unfold Machine.endRunning
  split
  · exact refl s
  · exact of_eq rfl rfl rfl rfl

theorem runLoadsFor (n : Nat) (s : State) : SameCounts s (runLoadsFor n s) := by
  induction n generalizing s with
  | zero => exact refl s
  | succ n ih =>
    unfold Machine.runLoadsFor
    split
    · exact of_eq rfl rfl rfl rfl
    · split
      · exact of_eq rfl rfl rfl rfl
      · exact (endRunning s _).trans (ih _)

theorem runLoads (s : State) : SameCounts s (runLoads s) := runLoadsFor _ s

theorem removeQueued (s : State) (which : LoadRec → Bool) (e : LoadEnd) : SameCounts s (removeQueued s which e) := by
  unfold Machine.removeQueued
  split
  · exact refl s
  · exact foldl_keeps (P := SameCounts s) (fun v q k => k.trans (respond v q.port q.tag e.1 e.2)) _ (of_eq rfl rfl rfl rfl)

theorem placeStop (s : State) (q : StopRequest) : SameCounts s (placeStop s q) := by
  unfold Machine.placeStop
  split
  · exact refl s
  · rename_i r rest queue
    have stopped : SameCounts s { s with loadQueue := { r with stop := some q } :: rest } := of_eq rfl rfl rfl rfl
    split_ifs
    · exact refl s
    · exact stopped.trans (runLoads _)
    · exact stopped

theorem endLoadsWhere (s : State) (which : LoadRec → Bool) (q : StopRequest) : SameCounts s (endLoadsWhere s which q) := by
  unfold Machine.endLoadsWhere
  dsimp only
  split
  · exact removeQueued s _ _
  · split_ifs
    · exact (removeQueued s _ _).trans (placeStop _ _)
    · exact removeQueued s _ _

end SameCounts

/-! ## One entry -/

section
variable {s t : State} {c : Ctx} {g : Page} (same : ∀ d k, ¬ (d = c ∧ k = g) → t.entry d k = s.entry d k)
include same

theorem entriesNaming_change (f : Frame) :
    entriesNaming t f + (Names (s.entry c g) f).toNat = entriesNaming s f + (Names (t.entry c g) f).toNat := by
  have sums := sum_change (a := fun d => count fun k => Names (s.entry d k) f) (b := fun d => count fun k => Names (t.entry d k) f)
    c fun d hd => count_congr fun k => by rw [same d k fun both => hd both.1]
  have counts := count_change (test := fun k => Names (s.entry c k) f) (test' := fun k => Names (t.entry c k) f) g
    fun k hk => by rw [same c k fun both => hk both.2]
  change entriesNaming t f + _ = entriesNaming s f + _ at sums
  omega

theorem entriesOf_change (d : Ctx) : entriesOf t d + (if d = c then (s.entry c g).isSome.toNat else 0) =
    entriesOf s d + (if d = c then (t.entry c g).isSome.toNat else 0) := by
  split_ifs with hd
  · subst hd
    exact count_change (test := fun k => (s.entry d k).isSome) (test' := fun k => (t.entry d k).isSome) g
      fun k hk => by rw [same d k fun both => hk both.2]
  · exact congrArg (· + 0) (count_congr fun k => by rw [same d k fun both => hd both.1])

end

theorem entriesNaming_pos {s : State} {c : Ctx} {g : Page} {e : MapEntry} (there : s.entry c g = some e) :
    0 < entriesNaming s e.frame := by
  unfold entriesNaming
  refine Nat.lt_of_lt_of_le ?_ (List.le_sum_of_mem (List.mem_map_of_mem (List.mem_finRange c)))
  exact count_pos (i := g) (by rw [there]; exact beq_iff_eq.2 rfl)

theorem entriesOf_pos {s : State} {c : Ctx} {g : Page} {e : MapEntry} (there : s.entry c g = some e) : 0 < entriesOf s c :=
  count_pos (i := g) (by rw [there]; rfl)

/-- Nothing but entries and their counts differs. -/
structure SameBesideEntries (s t : State) : Prop where
  holders : ∀ f, (t.frame f).holders = (s.frame f).holders
  pending : ∀ f, (t.frame f).pendingOffers = (s.frame f).pendingOffers
  charged : ∀ c, (t.ctx c).charged = (s.ctx c).charged
  shared : ∀ c, (t.ctx c).shareCount = (s.ctx c).shareCount
  state : ∀ c, (t.ctx c).state = (s.ctx c).state
  offers : t.offers = s.offers

namespace CountLaw

variable {s t : State} (h : CountLaw s)

include h

/-- One entry changes, the counts with it. -/
theorem entryChanged {c : Ctx} {g : Page} (beside : SameBesideEntries s t)
    (same : ∀ d k, ¬ (d = c ∧ k = g) → t.entry d k = s.entry d k)
    (mapCount : ∀ f, (t.frame f).mapCount + (Names (s.entry c g) f).toNat =
      (s.frame f).mapCount + (Names (t.entry c g) f).toNat)
    (valid : ∀ d, (t.ctx d).validCount + (if d = c then (s.entry c g).isSome.toNat else 0) =
      (s.ctx d).validCount + (if d = c then (t.entry c g).isSome.toNat else 0))
    (live : (t.entry c g).isSome = true → (s.ctx c).state ≠ .free) : CountLaw t where
  mapCount f := by
    have entries := entriesNaming_change same f
    have count := mapCount f
    rw [h.mapCount] at count
    omega
  validCount d := by
    have entries := entriesOf_change same d
    have count := valid d
    rw [h.validCount] at count
    omega
  charged d := by rw [beside.charged, framesOriginated_congr (s := s) (t := t) fun f => by rw [beside.holders], h.charged]
  shareCount d := by rw [beside.shared, framesShared_congr (s := s) (t := t) fun f => by rw [beside.holders], h.shareCount]
  pendingOffers f := by
    rw [beside.pending, h.pendingOffers]
    exact (offersOn_congr (fun i => by unfold State.offer; rw [beside.offers]) f).symm
  places f := by
    rw [beside.holders, beside.pending]
    exact h.places f
  freeCtx d free := by
    rw [beside.state] at free
    obtain ⟨none', nowhere⟩ := h.freeCtx d free
    refine ⟨?_, fun f => by rw [beside.holders]; exact nowhere f⟩
    have entries := entriesOf_change same d
    split_ifs at entries with hd
    · subst hd
      cases now : (t.entry d g).isSome with
      | true => exact absurd free (live now)
      | false =>
        rw [now] at entries
        change _ = _ + 0 at entries
        omega
    · omega

theorem makeEntry {c : Ctx} {g : Page} {e : MapEntry} (live : (s.ctx c).state ≠ .free) : CountLaw (makeEntry s c g e) := by
  have entry (d : Ctx) (k : Page) := entry_makeEntry s c d g k e
  have now : (Machine.makeEntry s c g e).entry c g = some e := by rw [entry, if_pos ⟨rfl, rfl⟩]
  have beside := makeEntry_beside_tables s c g e
  have ctx (d : Ctx) : (Machine.makeEntry s c g e).ctx d =
      if d = c ∧ s.entry c g = none then { s.ctx c with validCount := (s.ctx c).validCount + 1 } else s.ctx d := by
    refine (congrArg (fun x : State => x.ctx d) beside).trans ?_
    by_cases none' : s.entry c g = none
    · rw [if_pos none']
      refine (State.ctx_setCtx s c d _).trans ?_
      exact if_congr (and_iff_left none').symm rfl rfl
    · rw [if_neg none', if_neg fun both => none' both.2]
  refine h.entryChanged (c := c) (g := g) ⟨fun f => ?_, fun f => ?_, fun d => ?_, fun d => ?_, fun d => ?_, ?_⟩
    (fun d k other => ?_) (fun f => ?_) (fun d => ?_) fun _ => live
  · rw [frame_makeEntry]
  · rw [frame_makeEntry]
  · rw [ctx]
    split_ifs with hd
    · rw [hd.1]
    · rfl
  · rw [ctx]
    split_ifs with hd
    · rw [hd.1]
    · rfl
  · rw [ctx]
    split_ifs with hd
    · rw [hd.1]
    · rfl
  · rw [makeEntry_frame]
  · rw [entry, if_neg other]
  · rw [frame_makeEntry, now]
    dsimp only
    have positive : Names (s.entry c g) f = true → 0 < (s.frame f).mapCount := by
      intro names
      cases there : s.entry c g with
      | none =>
        rw [there] at names
        cases names
      | some old =>
        rw [there] at names
        obtain rfl := Option.some.inj (beq_iff_eq.1 names)
        rw [h.mapCount]
        exact entriesNaming_pos there
    have newNames : Names (some e) f = decide (f = e.frame) := by
      unfold Names
      rw [Option.map_some, Bool.eq_iff_iff, beq_iff_eq, decide_eq_true_iff, Option.some.injEq, eq_comm]
    have oldNames : Names (s.entry c g) f = decide ((s.entry c g).map MapEntry.frame = some f) := by
      unfold Names
      rw [Bool.eq_iff_iff, beq_iff_eq, decide_eq_true_iff]
    rw [newNames]
    by_cases hf : f = e.frame
    · subst hf
      by_cases old : (s.entry c g).map MapEntry.frame = some e.frame
      · simp [oldNames, old]
      · simp [oldNames, old]
    · by_cases old : (s.entry c g).map MapEntry.frame = some f
      · have many := positive (by simpa [oldNames] using old)
        simp only [oldNames, old, hf, ne_eq, not_false_eq_true, and_self, if_true, decide_true, Bool.toNat_true, false_and,
          if_false, decide_false, Bool.toNat_false]
        omega
      · simp [oldNames, old, hf]
  · rw [ctx, now]
    by_cases hd : d = c
    · subst hd
      cases s.entry d g <;> simp
    · simp [hd]

theorem clearEntry (c : Ctx) (g : Page) : CountLaw (clearEntry s c g) := by
  have entry (d : Ctx) (k : Page) := entry_clearEntry s c d g k
  have now : (Machine.clearEntry s c g).entry c g = none := by rw [entry, if_pos ⟨rfl, rfl⟩]
  refine h.entryChanged (c := c) (g := g) ⟨fun f => ?_, fun f => ?_, fun d => ?_, fun d => ?_, fun d => ?_, ?_⟩
    (fun d k other => ?_) (fun f => ?_) (fun d => ?_) fun some' => ?_
  · rw [frame_clearEntry]
  · rw [frame_clearEntry]
  · rw [ctx_clearEntry]
    split_ifs with hd
    · rw [hd.1]
    · rfl
  · rw [ctx_clearEntry]
    split_ifs with hd
    · rw [hd.1]
    · rfl
  · rw [ctx_clearEntry]
    split_ifs with hd
    · rw [hd.1]
    · rfl
  · rw [clearEntry_frame]
  · rw [entry, if_neg other]
  · rw [frame_clearEntry, now]
    dsimp only
    unfold Names
    by_cases old : (s.entry c g).map MapEntry.frame = some f
    · obtain ⟨e, there, rfl⟩ := Option.map_eq_some_iff.1 old
      have many := entriesNaming_pos there
      rw [← h.mapCount] at many
      rw [if_pos old, old]
      simp
      omega
    · rw [if_neg old]
      simp [old]
  · rw [ctx_clearEntry, now]
    by_cases hd : d = c
    · subst hd
      cases there : s.entry d g with
      | none => simp
      | some e =>
        have many := entriesOf_pos there
        rw [← h.validCount] at many
        simp
        omega
    · simp [hd]
  · rw [now] at some'
    cases some'

theorem invalidate (c : Ctx) (o : Option Frame) : CountLaw (invalidate s c o) := by
  unfold Machine.invalidate
  refine foldl_keeps (P := CountLaw) (fun u g k => ?_) _ h
  split
  · exact k
  · split_ifs
    · exact k.clearEntry c g
    · exact k

end CountLaw

end Sys2Proof.Machine
end

section
/-! SUPPORT. How the law of counts bears a change of one holder list or one offer. -/

namespace Sys2Proof.Machine

open Sys2Proof

/-! ## Holder lists and counts -/

theorem originates_iff (hs : List Holder) (c : Ctx) : Originates hs c = true ↔ (hs.map Holder.ctx).head? = some c := by
  unfold Originates
  rw [beq_iff_eq, originOf_eq]

theorem shares_iff (hs : List Holder) (c : Ctx) : Shares hs c = true ↔ c ∈ (hs.map Holder.ctx).tail := by
  unfold Shares
  rw [holds_iff, List.map_tail]

/-- Nothing but the holder list of one frame and the counts of holders differs. -/
structure SameBesideHolders (s t : State) (f : Frame) : Prop where
  others : ∀ k, k ≠ f → (t.frame k).holders = (s.frame k).holders
  mapCount : ∀ k, (t.frame k).mapCount = (s.frame k).mapCount
  pending : ∀ k, (t.frame k).pendingOffers = (s.frame k).pendingOffers
  valid : ∀ c, (t.ctx c).validCount = (s.ctx c).validCount
  maps : t.maps = s.maps
  offers : t.offers = s.offers

/-- An offer on the frame. -/
def OfferedOn (x : Option OfferRec) (f : Frame) : Bool := x.map OfferRec.frame == some f

theorem offersOn_pos {s : State} {i : OfferId} {o : OfferRec} (there : s.offer i = some o) : 0 < offersOn s o.frame :=
  count_pos (i := i) (by rw [there]; exact beq_iff_eq.2 rfl)

/-- Nothing but one offer and the pending offer counts differs. -/
structure SameBesideOffer (s t : State) (i : OfferId) : Prop where
  others : ∀ j, j ≠ i → t.offer j = s.offer j
  holders : ∀ f, (t.frame f).holders = (s.frame f).holders
  mapCount : ∀ f, (t.frame f).mapCount = (s.frame f).mapCount
  contexts : t.contexts = s.contexts
  maps : t.maps = s.maps

theorem offeredOn_some (o : OfferRec) (f : Frame) : OfferedOn (some o) f = decide (f = o.frame) := by
  unfold OfferedOn
  rw [Option.map_some, Bool.eq_iff_iff, beq_iff_eq, decide_eq_true_iff, Option.some.injEq, eq_comm]

theorem frame_removeOffer {s : State} {i : OfferId} {o : OfferRec} (there : s.offer i = some o) (f : Frame) :
    (removeOffer s i).frame f =
      if f = o.frame then { s.frame f with pendingOffers := (s.frame f).pendingOffers - 1 } else s.frame f := by
  rw [removeOffer_of_some there]
  refine (State.frame_setFrame (s.setOffer i none) o.frame f _).trans ?_
  split_ifs with hf
  · rw [hf]
  · rfl

namespace CountLaw

variable {s t : State} (h : CountLaw s)

include h

/-- One holder list changes, the counts with it. -/
theorem holdersChanged {f : Frame} (beside : SameBesideHolders s t f)
    (charged : ∀ d, (t.ctx d).charged + (Originates (s.frame f).holders d).toNat =
      (s.ctx d).charged + (Originates (t.frame f).holders d).toNat)
    (shared : ∀ d, (t.ctx d).shareCount + (Shares (s.frame f).holders d).toNat =
      (s.ctx d).shareCount + (Shares (t.frame f).holders d).toNat)
    (room : (t.frame f).holders.length + (s.frame f).pendingOffers ≤ Config.holdersMax)
    (free : ∀ d, (t.ctx d).state = .free → (s.ctx d).state = .free ∧ holds (t.frame f).holders d = false) : CountLaw t := by
  have entry (c : Ctx) (g : Page) : t.entry c g = s.entry c g := by
    unfold State.entry
    rw [beside.maps]
  refine ⟨fun k => ?_, fun c => ?_, fun c => ?_, fun c => ?_, fun k => ?_, fun k => ?_, fun c now => ?_⟩
  · rw [beside.mapCount, h.mapCount]
    exact (entriesNaming_congr (fun c g => by rw [entry]) k).symm
  · rw [beside.valid, h.validCount]
    exact (entriesOf_congr (fun c g => by rw [entry]) c).symm
  · have frames := count_change (test := fun k => Originates (s.frame k).holders c)
      (test' := fun k => Originates (t.frame k).holders c) f fun k hk => by rw [beside.others k hk]
    have count := charged c
    change framesOriginated t c + _ = framesOriginated s c + _ at frames
    rw [h.charged] at count
    omega
  · have frames := count_change (test := fun k => Shares (s.frame k).holders c)
      (test' := fun k => Shares (t.frame k).holders c) f fun k hk => by rw [beside.others k hk]
    have count := shared c
    change framesShared t c + _ = framesShared s c + _ at frames
    rw [h.shareCount] at count
    omega
  · rw [beside.pending, h.pendingOffers]
    exact (offersOn_congr (fun i => by unfold State.offer; rw [beside.offers]) k).symm
  · rw [beside.pending]
    by_cases hk : k = f
    · rw [hk]
      exact room
    · rw [beside.others k hk]
      exact h.places k
  · obtain ⟨before, out⟩ := free c now
    obtain ⟨none', nowhere⟩ := h.freeCtx c before
    refine ⟨(entriesOf_congr (fun c g => by rw [entry]) c).trans none', fun k => ?_⟩
    by_cases hk : k = f
    · rw [hk]
      exact out
    · rw [beside.others k hk]
      exact nowhere k

theorem shareCount_pos {f : Frame} {c : Ctx} (shares : Shares (s.frame f).holders c = true) : 0 < (s.ctx c).shareCount := by
  rw [h.shareCount]
  exact count_pos shares

theorem charged_pos {f : Frame} {c : Ctx} (origin : Originates (s.frame f).holders c = true) : 0 < (s.ctx c).charged := by
  rw [h.charged]
  exact count_pos origin

theorem not_free {f : Frame} {c : Ctx} (stands : holds (s.frame f).holders c = true) : (s.ctx c).state ≠ .free := by
  intro free
  rw [(h.freeCtx c free).2 f] at stands
  cases stands

/-- A co-holder leaves the list (R6). -/
theorem removeHolder {f : Frame} {c : Ctx} (shares : Shares (s.frame f).holders c = true)
    (nodup : ((s.frame f).holders.map Holder.ctx).Nodup) : CountLaw (removeHolder s f c) := by
  have frame (k : Frame) : (Machine.removeHolder s f c).frame k =
      if k = f then { s.frame f with holders := (s.frame f).holders.filter fun h => h.ctx != c } else s.frame k := by
    unfold Machine.removeHolder
    rw [frame_modCtx, frame_modFrame]
  have ctx (d : Ctx) : (Machine.removeHolder s f c).ctx d =
      if d = c then { s.ctx c with shareCount := (s.ctx c).shareCount - 1 } else s.ctx d := by
    unfold Machine.removeHolder
    rw [ctx_modCtx, ctx_modFrame, ctx_modFrame]
  have contexts : ((s.frame f).holders.filter fun h => h.ctx != c).map Holder.ctx =
      ((s.frame f).holders.map Holder.ctx).filter fun d => d != c := by
    rw [List.filter_map]
    rfl
  have member := (shares_iff _ _).1 shares
  have parts : (((s.frame f).holders.map Holder.ctx).filter fun d => d != c).head? = ((s.frame f).holders.map Holder.ctx).head? ∧
      (((s.frame f).holders.map Holder.ctx).filter fun d => d != c).tail =
        ((s.frame f).holders.map Holder.ctx).tail.filter fun d => d != c := by
    cases list : (s.frame f).holders.map Holder.ctx with
    | nil => exact ⟨rfl, rfl⟩
    | cons x rest =>
      rw [list] at member nodup
      have first : (x != c) = true := by
        rw [bne_iff_ne]
        rintro rfl
        exact (List.nodup_cons.1 nodup).1 member
      rw [List.filter_cons_of_pos (p := fun d => d != c) first]
      exact ⟨rfl, rfl⟩
  have origin (d : Ctx) : Originates ((s.frame f).holders.filter fun h => h.ctx != c) d = Originates (s.frame f).holders d := by
    rw [Bool.eq_iff_iff, originates_iff, originates_iff, contexts, parts.1]
  have share (d : Ctx) : Shares ((s.frame f).holders.filter fun h => h.ctx != c) d =
      (Shares (s.frame f).holders d && d != c) := by
    rw [Bool.eq_iff_iff, Bool.and_eq_true, shares_iff, shares_iff, contexts, parts.2, List.mem_filter]
  refine h.holdersChanged (f := f) ⟨fun k hk => ?_, fun k => ?_, fun k => ?_, fun d => ?_, rfl, rfl⟩ (fun d => ?_)
    (fun d => ?_) ?_ fun d free => ?_
  · rw [frame, if_neg hk]
  · rw [frame]
    split_ifs with hk
    · rw [hk]
    · rfl
  · rw [frame]
    split_ifs with hk
    · rw [hk]
    · rfl
  · rw [ctx]
    split_ifs with hd
    · rw [hd]
    · rfl
  · rw [frame, if_pos rfl, ctx, origin]
    split_ifs with hd
    · rw [hd]
    · rfl
  · rw [frame, if_pos rfl, ctx, share]
    split_ifs with hd
    · subst hd
      have some' := h.shareCount_pos shares
      rw [shares, bne_self_eq_false]
      simp only [Bool.toNat_true, Bool.and_false, Bool.toNat_false]
      omega
    · rw [bne_iff_ne.2 hd, Bool.and_true]
  · rw [frame, if_pos rfl]
    have shorter := List.length_filter_le (fun h : Holder => h.ctx != c) (s.frame f).holders
    have room := h.places f
    dsimp only
    omega
  · have before : (s.ctx d).state = .free := by
      rw [ctx] at free
      split_ifs at free with hd
      · exact hd ▸ free
      · exact free
    refine ⟨before, ?_⟩
    rw [frame, if_pos rfl, holds_eq_false]
    intro x listed
    exact (holds_eq_false _ _).1 ((h.freeCtx d before).2 f) x (List.mem_filter.1 listed).1

/-- A sole holder gives a frame up that is on no offer (R6). -/
theorem giveUp {f : Frame} {c : Ctx} (sole : (s.frame f).holders.map Holder.ctx = [c]) (unoffered : offersOn s f = 0) :
    CountLaw (giveUp s f c) := by
  have pending : (s.frame f).pendingOffers = 0 := (h.pendingOffers f).trans unoffered
  have origin (d : Ctx) : Originates (s.frame f).holders d = decide (d = c) := by
    rw [Bool.eq_iff_iff, originates_iff, sole, decide_eq_true_iff, List.head?_cons, Option.some.injEq, eq_comm]
  have share (d : Ctx) : Shares (s.frame f).holders d = false := by
    rw [Bool.eq_false_iff, ne_eq, shares_iff, sole]
    exact List.not_mem_nil
  refine h.holdersChanged (f := f) ⟨fun k hk => ?_, fun k => ?_, fun k => ?_, fun d => ?_, rfl, rfl⟩ (fun d => ?_)
    (fun d => ?_) ?_ fun d free => ?_
  · rw [frame_giveUp, if_neg hk]
  · rw [frame_giveUp]
    split_ifs with hk
    · rw [hk]
    · rfl
  · rw [frame_giveUp]
    split_ifs with hk
    · rw [hk, pending]
    · rfl
  · rw [ctx_giveUp]
    split_ifs with hd
    · rw [hd]
    · rfl
  · rw [frame_giveUp, if_pos rfl, ctx_giveUp, origin]
    split_ifs with hd
    · have some' := h.charged_pos (f := f) (c := c) (by rw [origin, decide_eq_true rfl])
      rw [hd, decide_eq_true rfl]
      show (s.ctx c).charged - 1 + 1 = (s.ctx c).charged + 0
      omega
    · rw [decide_eq_false hd]
      rfl
  · rw [frame_giveUp, if_pos rfl, ctx_giveUp, share]
    split_ifs with hd
    · rw [hd]
      rfl
    · rfl
  · rw [frame_giveUp, if_pos rfl, pending]
    exact Nat.zero_le _
  · refine ⟨?_, by rw [frame_giveUp, if_pos rfl]; rfl⟩
    rw [ctx_giveUp] at free
    split_ifs at free with hd
    · exact hd ▸ free
    · exact free

/-- The origin hands the frame to a co-holder (R86). -/
theorem promote {f : Frame} {c d : Ctx} (origin : ((s.frame f).holders.map Holder.ctx).head? = some c)
    (shares : Shares (s.frame f).holders d = true) (nodup : ((s.frame f).holders.map Holder.ctx).Nodup) :
    CountLaw (promote s f c d) := by
  obtain ⟨rest, list⟩ : ∃ rest, (s.frame f).holders.map Holder.ctx = c :: rest := by
    cases whole : (s.frame f).holders.map Holder.ctx with
    | nil =>
      rw [whole] at origin
      cases origin
    | cons x rest =>
      rw [whole] at origin
      exact ⟨rest, by rw [Option.some.inj origin]⟩
  have member : d ∈ rest := by
    have inside := (shares_iff _ _).1 shares
    rw [list] at inside
    exact inside
  obtain ⟨fresh, -⟩ := List.nodup_cons.1 (list ▸ nodup)
  have ne : d ≠ c := by
    rintro rfl
    exact fresh member
  let hs : List Holder := ⟨d, .readWrite, false⟩ :: (s.frame f).holders.filter fun h => h.ctx != c && h.ctx != d
  have kept : ((s.frame f).holders.filter fun h => h.ctx != c && h.ctx != d).map Holder.ctx =
      rest.filter fun b => b != c && b != d := by
    have mapped : ((s.frame f).holders.filter fun h => h.ctx != c && h.ctx != d).map Holder.ctx =
        ((s.frame f).holders.map Holder.ctx).filter fun b => b != c && b != d := by
      rw [List.filter_map]
      rfl
    rw [mapped, list, List.filter_cons_of_neg (by simp)]
  have contexts : hs.map Holder.ctx = d :: rest.filter fun b => b != c && b != d := congrArg (d :: ·) kept
  have frame (k : Frame) : (Machine.promote s f c d).frame k = if k = f then { s.frame f with holders := hs } else s.frame k := by
    unfold Machine.promote
    rw [frame_modCtx, frame_modCtx, frame_modFrame]
  have ctx (b : Ctx) : (Machine.promote s f c d).ctx b =
      if b = c then { s.ctx c with charged := (s.ctx c).charged - 1 }
      else if b = d then { s.ctx d with charged := (s.ctx d).charged + 1, shareCount := (s.ctx d).shareCount - 1 }
      else s.ctx b := by
    unfold Machine.promote
    rw [ctx_modCtx, ctx_modCtx, ctx_modCtx, if_neg ne.symm]
    rfl
  have oldOrigin (b : Ctx) : Originates (s.frame f).holders b = decide (b = c) := by
    rw [Bool.eq_iff_iff, originates_iff, list, decide_eq_true_iff, List.head?_cons, Option.some.injEq, eq_comm]
  have newOrigin (b : Ctx) : Originates hs b = decide (b = d) := by
    rw [Bool.eq_iff_iff, originates_iff, contexts, decide_eq_true_iff, List.head?_cons, Option.some.injEq, eq_comm]
  have oldShare (b : Ctx) : Shares (s.frame f).holders b = decide (b ∈ rest) := by
    rw [Bool.eq_iff_iff, shares_iff, list, decide_eq_true_iff, List.tail_cons]
  have newShare (b : Ctx) : Shares hs b = decide (b ∈ rest ∧ b ≠ d) := by
    rw [Bool.eq_iff_iff, shares_iff, contexts, decide_eq_true_iff, List.tail_cons, List.mem_filter, Bool.and_eq_true,
      bne_iff_ne, bne_iff_ne]
    exact and_congr_right fun inside => and_iff_right fun same => fresh (same ▸ inside)
  have charged := h.charged_pos (f := f) (c := c) (by rw [oldOrigin, decide_eq_true rfl])
  have shared := h.shareCount_pos shares
  refine h.holdersChanged (f := f) ⟨fun k hk => ?_, fun k => ?_, fun k => ?_, fun b => ?_, rfl, rfl⟩ (fun b => ?_)
    (fun b => ?_) ?_ fun b free => ?_
  · rw [frame, if_neg hk]
  · rw [frame]
    split_ifs with hk
    · rw [hk]
    · rfl
  · rw [frame]
    split_ifs with hk
    · rw [hk]
    · rfl
  · rw [ctx]
    split_ifs with hc hd
    · rw [hc]
    · rw [hd]
    · rfl
  · rw [frame, if_pos rfl, ctx, oldOrigin, newOrigin]
    split_ifs with hc hd
    · rw [hc, decide_eq_true rfl, decide_eq_false ne.symm]
      show (s.ctx c).charged - 1 + 1 = (s.ctx c).charged + 0
      omega
    · rw [hd, decide_eq_true rfl, decide_eq_false ne]
      rfl
    · rw [decide_eq_false hc, decide_eq_false hd]
  · rw [frame, if_pos rfl, ctx, oldShare, newShare]
    split_ifs with hc hd
    · rw [hc, decide_eq_false fresh, decide_eq_false fun both => fresh both.1]
    · rw [hd, decide_eq_true member, decide_eq_false fun both => both.2 rfl]
      show (s.ctx d).shareCount - 1 + 1 = (s.ctx d).shareCount + 0
      omega
    · rw [decide_eq_decide.2 (and_iff_left hd)]
  · rw [frame, if_pos rfl]
    have shorter : (rest.filter fun b => b != c && b != d).length ≤ rest.length := List.length_filter_le _ _
    have new : hs.length = (rest.filter fun b => b != c && b != d).length + 1 := by
      rw [← List.length_map (f := Holder.ctx), contexts, List.length_cons]
    have old : (s.frame f).holders.length = rest.length + 1 := by
      rw [← List.length_map (f := Holder.ctx), list, List.length_cons]
    have room := h.places f
    show hs.length + _ ≤ _
    omega
  · have stands {x : Ctx} (inside : x ∈ (s.frame f).holders.map Holder.ctx) : (s.ctx x).state ≠ .free :=
      h.not_free (f := f) ((holds_iff _ _).2 inside)
    rw [ctx] at free
    split_ifs at free with hc hd
    · exact absurd free (stands (by rw [list]; exact .head _))
    · exact absurd free (stands (by rw [list]; exact .tail _ member))
    · refine ⟨free, ?_⟩
      rw [frame, if_pos rfl, holds_eq_false]
      intro x listed
      have inside : x.ctx ∈ hs.map Holder.ctx := List.mem_map_of_mem listed
      rw [contexts] at inside
      rintro rfl
      rcases List.mem_cons.1 inside with heir | old
      · exact hd heir
      · exact stands (by rw [list]; exact .tail _ (List.mem_filter.1 old).1) free

/-- A context joins a list with room (R73). -/
theorem appendHolder {f : Frame} {c : Ctx} {r : Rights} (some' : (s.frame f).holders ≠ [])
    (new : holds (s.frame f).holders c = false) (live : (s.ctx c).state ≠ .free)
    (room : (s.frame f).holders.length + (s.frame f).pendingOffers < Config.holdersMax) :
    CountLaw (appendHolder s f c r) := by
  let hs : List Holder := (s.frame f).holders ++ [⟨c, r, false⟩]
  have frame (k : Frame) : (Machine.appendHolder s f c r).frame k = if k = f then { s.frame f with holders := hs } else s.frame k := by
    unfold Machine.appendHolder
    rw [frame_modCtx, frame_modFrame]
  have ctx (d : Ctx) : (Machine.appendHolder s f c r).ctx d =
      if d = c then { s.ctx c with shareCount := (s.ctx c).shareCount + 1 } else s.ctx d := by
    unfold Machine.appendHolder
    rw [ctx_modCtx, ctx_modFrame, ctx_modFrame]
  obtain ⟨x, rest, list⟩ := List.exists_cons_of_ne_nil some'
  have out : c ∉ (s.frame f).holders.map Holder.ctx := by
    rw [← holds_iff, new]
    exact Bool.false_ne_true
  have contexts : hs.map Holder.ctx = (s.frame f).holders.map Holder.ctx ++ [c] := List.map_append
  have origin (d : Ctx) : Originates hs d = Originates (s.frame f).holders d := by
    rw [Bool.eq_iff_iff, originates_iff, originates_iff, contexts, list]
    rfl
  have share (d : Ctx) : Shares hs d = (Shares (s.frame f).holders d || decide (d = c)) := by
    rw [Bool.eq_iff_iff, Bool.or_eq_true, shares_iff, shares_iff, contexts, list, decide_eq_true_iff]
    show d ∈ rest.map Holder.ctx ++ [c] ↔ d ∈ rest.map Holder.ctx ∨ d = c
    rw [List.mem_append, List.mem_singleton]
  have notShared : Shares (s.frame f).holders c = false := by
    rw [Bool.eq_false_iff, ne_eq, shares_iff]
    exact fun inside => out (List.mem_of_mem_tail inside)
  refine h.holdersChanged (f := f) ⟨fun k hk => ?_, fun k => ?_, fun k => ?_, fun d => ?_, rfl, rfl⟩ (fun d => ?_)
    (fun d => ?_) ?_ fun d free => ?_
  · rw [frame, if_neg hk]
  · rw [frame]
    split_ifs with hk
    · rw [hk]
    · rfl
  · rw [frame]
    split_ifs with hk
    · rw [hk]
    · rfl
  · rw [ctx]
    split_ifs with hd
    · rw [hd]
    · rfl
  · rw [frame, if_pos rfl, ctx, origin]
    split_ifs with hd
    · rw [hd]
    · rfl
  · rw [frame, if_pos rfl, ctx, share]
    split_ifs with hd
    · rw [hd, notShared, decide_eq_true rfl]
      rfl
    · rw [decide_eq_false hd, Bool.or_false]
  · rw [frame, if_pos rfl]
    show ((s.frame f).holders ++ [_]).length + _ ≤ _
    rw [List.length_append, List.length_singleton]
    omega
  · have other : d ≠ c := by
      rintro rfl
      rw [ctx, if_pos rfl] at free
      exact live free
    rw [ctx, if_neg other] at free
    refine ⟨free, ?_⟩
    rw [frame, if_pos rfl, Bool.eq_false_iff, ne_eq, holds_iff, contexts, List.mem_append, List.mem_singleton]
    rintro (old | same)
    · exact h.not_free ((holds_iff _ _).2 old) free
    · exact other same

/-- One FREE frame is claimed (R13). -/
theorem claimOne {f : Frame} {c : Ctx} (empty : (s.frame f).holders = []) (unnamed : (s.frame f).mapCount = 0)
    (unoffered : (s.frame f).pendingOffers = 0) (live : (s.ctx c).state ≠ .free) :
    CountLaw (modCtx (modFrame s f (claimedFrame c)) c fun x => { x with charged := x.charged + 1 }) := by
  have frame (k : Frame) : (modCtx (modFrame s f (claimedFrame c)) c fun x => { x with charged := x.charged + 1 }).frame k =
      if k = f then claimedFrame c (s.frame f) else s.frame k := by
    rw [frame_modCtx, frame_modFrame]
  have ctx (d : Ctx) : (modCtx (modFrame s f (claimedFrame c)) c fun x => { x with charged := x.charged + 1 }).ctx d =
      if d = c then { s.ctx c with charged := (s.ctx c).charged + 1 } else s.ctx d := by
    rw [ctx_modCtx, ctx_modFrame, ctx_modFrame]
  have origin (d : Ctx) : Originates (claimedFrame c (s.frame f)).holders d = decide (d = c) := by
    show (some c == some d) = _
    rw [Bool.eq_iff_iff, beq_iff_eq, decide_eq_true_iff, Option.some.injEq, eq_comm]
  refine h.holdersChanged (f := f) ⟨fun k hk => ?_, fun k => ?_, fun k => ?_, fun d => ?_, rfl, rfl⟩ (fun d => ?_)
    (fun d => ?_) ?_ fun d free => ?_
  · rw [frame, if_neg hk]
  · rw [frame]
    split_ifs with hk
    · rw [hk, unnamed]
      rfl
    · rfl
  · rw [frame]
    split_ifs with hk
    · rw [hk, unoffered]
      rfl
    · rfl
  · rw [ctx]
    split_ifs with hd
    · rw [hd]
    · rfl
  · rw [frame, if_pos rfl, ctx, origin, empty]
    split_ifs with hd
    · rw [hd, decide_eq_true rfl]
      rfl
    · rw [decide_eq_false hd]
      rfl
  · rw [frame, if_pos rfl, ctx, empty]
    split_ifs with hd
    · rw [hd]
      rfl
    · rfl
  · rw [frame, if_pos rfl, unoffered]
    exact (by decide : 1 + 0 ≤ Config.holdersMax)
  · have other : d ≠ c := by
      rintro rfl
      rw [ctx, if_pos rfl] at free
      exact live free
    rw [ctx, if_neg other] at free
    refine ⟨free, ?_⟩
    rw [frame, if_pos rfl, Bool.eq_false_iff, ne_eq, holds_iff]
    exact fun inside => other (List.mem_singleton.1 inside)

/-! ## One offer -/

/-- One offer changes, the pending offer counts with it. -/
theorem offerChanged {i : OfferId} (beside : SameBesideOffer s t i)
    (pending : ∀ f, (t.frame f).pendingOffers + (OfferedOn (s.offer i) f).toNat =
      (s.frame f).pendingOffers + (OfferedOn (t.offer i) f).toNat)
    (room : ∀ f, (s.frame f).holders.length + (t.frame f).pendingOffers ≤ Config.holdersMax) : CountLaw t := by
  have entry (c : Ctx) (g : Page) : t.entry c g = s.entry c g := by
    unfold State.entry
    rw [beside.maps]
  have ctx (c : Ctx) : t.ctx c = s.ctx c := by
    unfold State.ctx
    rw [beside.contexts]
  have lists (f : Frame) : (t.frame f).holders.map Holder.ctx = (s.frame f).holders.map Holder.ctx := by rw [beside.holders]
  refine ⟨fun k => ?_, fun c => ?_, fun c => ?_, fun c => ?_, fun k => ?_, fun k => ?_, fun c now => ?_⟩
  · rw [beside.mapCount, h.mapCount]
    exact (entriesNaming_congr (fun c g => by rw [entry]) k).symm
  · rw [ctx, h.validCount]
    exact (entriesOf_congr (fun c g => by rw [entry]) c).symm
  · rw [ctx, h.charged]
    exact (framesOriginated_congr lists c).symm
  · rw [ctx, h.shareCount]
    exact (framesShared_congr lists c).symm
  · have offers := count_change (test := fun j => OfferedOn (s.offer j) k) (test' := fun j => OfferedOn (t.offer j) k) i
      fun j hj => by rw [beside.others j hj]
    have count := pending k
    change offersOn t k + _ = offersOn s k + _ at offers
    rw [h.pendingOffers] at count
    omega
  · rw [beside.holders]
    exact room k
  · rw [ctx] at now
    obtain ⟨none', nowhere⟩ := h.freeCtx c now
    exact ⟨(entriesOf_congr (fun c g => by rw [entry]) c).trans none', fun k => (holds_congr (lists k) c).trans (nowhere k)⟩

theorem removeOffer (i : OfferId) : CountLaw (removeOffer s i) := by
  cases there : s.offer i with
  | none =>
    have same : Machine.removeOffer s i = s := by
      unfold Machine.removeOffer
      rw [there]
    rw [same]
    exact h
  | some o =>
    have frame := frame_removeOffer there
    have offer (j : OfferId) : (Machine.removeOffer s i).offer j = if j = i then none else s.offer j := by
      rw [removeOffer_of_some there]
      exact State.offer_setOffer s i j none
    have many := offersOn_pos there
    rw [← h.pendingOffers] at many
    refine h.offerChanged (i := i) ⟨fun j hj => ?_, fun f => ?_, fun f => ?_, ?_, ?_⟩ (fun f => ?_) fun f => ?_
    · rw [offer, if_neg hj]
    · rw [frame]
      split_ifs <;> rfl
    · rw [frame]
      split_ifs <;> rfl
    · rw [removeOffer_of_some there]
    · rw [removeOffer_of_some there]
    · rw [frame, offer, if_pos rfl, there, offeredOn_some]
      split_ifs with hf
      · subst hf
        rw [decide_eq_true rfl]
        show (s.frame o.frame).pendingOffers - 1 + 1 = (s.frame o.frame).pendingOffers + 0
        omega
      · rw [decide_eq_false hf]
        rfl
    · have room := h.places f
      rw [frame]
      split_ifs
      · show _ + ((s.frame f).pendingOffers - 1) ≤ _
        omega
      · exact room

theorem endOffer (i : OfferId) (r : OfferEnd) (c : Ctx) : CountLaw (endOffer s i r c) := by
  unfold Machine.endOffer
  split
  · exact h
  · exact (h.removeOffer i).congr (.addressOwner _ _ _)

theorem cancelOffer (i : OfferId) (c : Ctx) : CountLaw (cancelOffer s i c) := by
  unfold Machine.cancelOffer
  split
  · exact h
  · exact (h.removeOffer i).congr (.notifyOwner _ _ _)

theorem cancelOffersOf (c : Ctx) : CountLaw (cancelOffersOf s c) := by
  unfold Machine.cancelOffersOf
  refine foldl_keeps (P := CountLaw) (fun u i k => ?_) _ h
  split
  · exact k
  · split_ifs
    · exact k.cancelOffer i _
    · exact k.cancelOffer i _
    · exact k

theorem cancelOffersOn (f : Frame) : CountLaw (cancelOffersOn s f) := by
  unfold Machine.cancelOffersOn
  refine foldl_keeps (P := CountLaw) (fun u i k => ?_) _ h
  split
  · exact k
  · split_ifs
    · exact k.cancelOffer i _
    · exact k

end CountLaw

end Sys2Proof.Machine
end

section
/-! PROOFS. Every step keeps the law of counts. -/

namespace Sys2Proof.Machine

open Sys2Proof

namespace SameCounts

theorem activate (s : State) (p : Port) (t : Tag) : SameCounts s (activate s p t) := of_eq rfl rfl rfl rfl

/-- The offers without what the law does not speak of. -/
theorem removeRecord (s : State) (w : Withdrawal) : SameCounts s (removeRecord s w) := of_eq rfl rfl rfl rfl

theorem startPooledTeardown (s : State) (c : Ctx) (st : Starter) : SameCounts s (startPooledTeardown s c st) := by
  have entered : SameCounts s (Machine.modCtx s c fun x => { x with state := .teardown }) := modCtx rfl rfl rfl nofun
  exact entered.trans (of_eq rfl rfl rfl rfl)

theorem completeSwitch (s : State) (p : Port) : SameCounts s (completeSwitch s p) := by
  unfold Machine.completeSwitch
  split
  · exact refl s
  · exact of_eq rfl rfl rfl rfl

end SameCounts

/-- Charging a context commutes with the change of frames. -/
theorem foldl_modCtx (c : Ctx) (n : Nat) (l : List Frame) (s : State) :
    l.foldl (fun s f => modFrame s f (claimedFrame c)) (modCtx s c fun x => { x with charged := x.charged + n }) =
      modCtx (l.foldl (fun s f => modFrame s f (claimedFrame c)) s) c fun x => { x with charged := x.charged + n } := by
  induction l generalizing s with
  | nil => rfl
  | cons f l ih => exact ih (modFrame s f (claimedFrame c))

theorem modCtx_modCtx (s : State) (c : Ctx) (g h : CtxRec → CtxRec) :
    modCtx (modCtx s c g) c h = s.setCtx c (h (g (s.ctx c))) := by
  have record : (modCtx s c g).ctx c = g (s.ctx c) := by rw [ctx_modCtx, if_pos rfl]
  have again : modCtx (modCtx s c g) c h = (modCtx s c g).setCtx c (h ((modCtx s c g).ctx c)) := rfl
  rw [again, record]
  exact congrArg (fun contexts => { s with contexts := contexts }) (Vector.set_set ..)

theorem charged_twice (s : State) (c : Ctx) (m n : Nat) :
    modCtx (modCtx s c fun x => { x with charged := x.charged + m }) c (fun x => { x with charged := x.charged + n }) =
      modCtx s c fun x => { x with charged := x.charged + (m + n) } := by
  rw [modCtx_modCtx]
  dsimp only
  rw [Nat.add_assoc]
  rfl

/-- The ends of offers leave the entries alone. -/
theorem OffersEnded.maps {s u : State} {hit : OfferRec → Bool} {tell : OfferId → OfferRec → State → State} {l : List OfferId}
    (h : OffersEnded s hit tell l u) : u.maps = s.maps := by
  have kept := congrArg (fun x : State => x.maps) h.rest
  exact kept

namespace CountLaw

variable {s : State} (k : CountLaw s)

include k

/-- What a FREE frame counts (R4, R7, R9). -/
theorem of_not_held (h : Holding s) {f : Frame} (state : (s.frame f).state ≠ .held) :
    (s.frame f).holders = [] ∧ (s.frame f).mapCount = 0 ∧ (s.frame f).pendingOffers = 0 := by
  refine ⟨h.noHolders state, ?_, ?_⟩
  · rw [k.mapCount]
    refine List.sum_eq_zero fun n mem => ?_
    obtain ⟨c, -, rfl⟩ := List.mem_map.1 mem
    refine count_eq_zero.2 fun g => ?_
    cases there : s.entry c g with
    | none => rfl
    | some e =>
      rw [Option.map_some, beq_eq_false_iff_ne]
      intro same
      exact state (Option.some.inj same ▸ (h.entries c g e there).1)
  · rw [k.pendingOffers]
    refine count_eq_zero.2 fun i => ?_
    cases there : s.offer i with
    | none => rfl
    | some o =>
      rw [Option.map_some, beq_eq_false_iff_ne]
      intro same
      exact h.noOffer_of_not_held state there (Option.some.inj same)

/-- Frames with nothing counted on them are claimed (R13). -/
theorem claimed {c : Ctx} (live : (s.ctx c).state ≠ .free) {l : List Frame} (nodup : l.Nodup)
    (blank : ∀ f ∈ l, (s.frame f).holders = [] ∧ (s.frame f).mapCount = 0 ∧ (s.frame f).pendingOffers = 0) :
    CountLaw (modCtx (l.foldl (fun s f => modFrame s f (claimedFrame c)) s) c fun x =>
      { x with charged := x.charged + l.length }) := by
  induction l generalizing s with
  | nil => exact k.congr (.modCtx rfl rfl rfl id)
  | cons f l ih =>
    obtain ⟨fresh, nodup⟩ := List.nodup_cons.1 nodup
    obtain ⟨empty, unnamed, unoffered⟩ := blank f (.head _)
    have one := k.claimOne empty unnamed unoffered live
    have rest := ih one (by rw [ctx_modCtx, if_pos rfl]; exact live) nodup fun j hj => by
      rw [frame_modCtx, frame_modFrame, if_neg (by rintro rfl; exact fresh hj)]
      exact blank j (.tail _ hj)
    rw [foldl_modCtx] at rest
    rw [charged_twice, Nat.add_comm 1] at rest
    exact rest

theorem claimFrames (h : Holding s) (lists : ListsLaw s) {c : Ctx} {n : Nat} (live : (s.ctx c).state ≠ .free)
    (enough : n ≤ s.freeList.length) : CountLaw (claimFrames s c n) := by
  have dropped : CountLaw { s with freeList := s.freeList.drop n } := k.congr (.of_eq rfl rfl rfl rfl)
  have frames := dropped.claimed live ((s.freeList.take_sublist n).nodup lists.freeNodup) fun f hf =>
    k.of_not_held h (by rw [(lists.free f).1 (List.mem_of_mem_take hf)]; nofun)
  rw [List.length_take, Nat.min_eq_left enough] at frames
  exact frames

/-- A context with nothing counted on it takes another record (R29, R43). -/
theorem setBlankCtx {c : Ctx} {r : CtxRec} (counts : r.validCount = 0 ∧ r.charged = 0 ∧ r.shareCount = 0)
    (noEntries : entriesOf s c = 0) (nowhere : ∀ f, holds (s.frame f).holders c = false) : CountLaw (s.setCtx c r) := by
  have ctx (d : Ctx) : (s.setCtx c r).ctx d = if d = c then r else s.ctx d := State.ctx_setCtx ..
  have out (f : Frame) : c ∉ (s.frame f).holders.map Holder.ctx := by
    rw [← holds_iff, nowhere]
    exact Bool.false_ne_true
  refine ⟨k.mapCount, fun d => ?_, fun d => ?_, fun d => ?_, k.pendingOffers, k.places, fun d free => ?_⟩
  · rw [ctx]
    split_ifs with hd
    · rw [counts.1, hd]
      exact noEntries.symm
    · exact k.validCount d
  · rw [ctx]
    split_ifs with hd
    · rw [counts.2.1, hd]
      refine (count_eq_zero.2 fun f => ?_).symm
      refine Bool.eq_false_iff.2 fun origin => out f (List.mem_of_mem_head? ?_)
      exact (originates_iff _ _).1 origin
    · exact k.charged d
  · rw [ctx]
    split_ifs with hd
    · rw [counts.2.2, hd]
      refine (count_eq_zero.2 fun f => ?_).symm
      exact Bool.eq_false_iff.2 fun share => out f (List.mem_of_mem_tail ((shares_iff _ _).1 share))
    · exact k.shareCount d
  · rw [ctx] at free
    split_ifs at free with hd
    · rw [hd]
      exact ⟨noEntries, nowhere⟩
    · exact k.freeCtx d free

theorem withdrawal (c : Ctx) (o : Option Frame) (q : Requester) : CountLaw (startWithdrawal s c o q) := by
  have ended := k.invalidate c o
  rw [startWithdrawal_eq]
  generalize Machine.invalidate s c o = u at ended ⊢
  exact ended.congr (.of_eq rfl rfl rfl rfl)

theorem withdrawHolder (c : Ctx) (f : Frame) (q : Requester) : CountLaw (withdrawHolder s c f q) := by
  rw [withdrawHolder_eq]
  exact (k.congr (.markWithdrawing s f c)).withdrawal c (some f) q

theorem cancelThenEndLoads (c : Ctx) (st : Starter) : CountLaw (cancelThenEndLoads s c st) := by
  have cancelled := k.cancelOffersOf c
  unfold Machine.cancelThenEndLoads
  generalize Machine.cancelOffersOf s c = u at cancelled ⊢
  have entered : CountLaw (u.setTeardown c (some ⟨st, .loads⟩)) := cancelled.congr (.of_eq rfl rfl rfl rfl)
  exact entered.congr (.endLoadsWhere _ _ _)

/-- The frame that a RELEASE gives up, with its offers (R16, R76). -/
theorem acceptRelease {p : Port} {t : Tag} {c : Ctx} {f : Frame} (origin : originOf (s.frame f).holders = some c)
    (tail : (s.frame f).holders.tail = []) :
    CountLaw (startWithdrawal (Machine.cancelOffersOn (Machine.giveUp (activate s p t) f c) f) c (some f) (.release p t)) := by
  refine CountLaw.withdrawal ?_ c (some f) (.release p t)
  have sole : (s.frame f).holders.map Holder.ctx = [c] := by
    cases list : (s.frame f).holders with
    | nil =>
      rw [list] at origin
      cases origin
    | cons x rest =>
      rw [list] at origin tail
      obtain rfl : rest = [] := tail
      have same : x.ctx = c := Option.some.inj origin
      rw [List.map_singleton, same]
  -- The offers may go first: the two orders leave the same counts.
  have first := offersEnded_cancelOffersOn s f
  have cancelled := k.cancelOffersOn f
  generalize Machine.cancelOffersOn s f = u at first cancelled
  have unoffered : offersOn u f = 0 := by
    refine count_eq_zero.2 fun i => ?_
    rw [first.offer]
    split_ifs with hit
    · rfl
    · cases there : s.offer i with
      | none => rfl
      | some o =>
        rw [Option.map_some, beq_eq_false_iff_ne]
        intro same
        refine hit ⟨List.mem_finRange i, ?_⟩
        rw [there]
        exact beq_iff_eq.2 (Option.some.inj same)
  have lists (j : Frame) : (u.frame j).holders = (s.frame j).holders ∧ (u.frame j).mapCount = (s.frame j).mapCount := by
    rw [first.frame]
    exact ⟨rfl, rfl⟩
  have given := cancelled.giveUp (f := f) (c := c) (by rw [(lists f).1]; exact sole) unoffered
  have second := offersEnded_cancelOffersOn (Machine.giveUp (activate s p t) f c) f
  generalize Machine.cancelOffersOn (Machine.giveUp (activate s p t) f c) f = v at second
  have before (j : Frame) : (Machine.giveUp (activate s p t) f c).frame j =
      if j = f then { s.frame f with state := .reclaim, holders := [], pendingOffers := 0 } else s.frame j := frame_giveUp ..
  have firstRest : u.contexts = s.contexts ∧ u.maps = s.maps :=
    ⟨first.contexts, first.maps⟩
  have secondRest : v.contexts = (Machine.giveUp (activate s p t) f c).contexts ∧ v.maps = s.maps :=
    ⟨second.contexts, second.maps⟩
  have ctx (d : Ctx) : v.ctx d = (Machine.giveUp u f c).ctx d := by
    have one : v.ctx d = (Machine.giveUp (activate s p t) f c).ctx d := congrArg (fun x => x.get d) secondRest.1
    have same (e : Ctx) : u.ctx e = s.ctx e := congrArg (fun x => x.get e) firstRest.1
    rw [one, ctx_giveUp, ctx_giveUp, same, same]
    rfl
  refine given.congr ⟨fun j => ?_, fun j => ?_, fun j => ?_, fun d => ?_, fun d => ?_, fun d => ?_, fun d => ?_, fun d g => ?_,
    fun i => ?_⟩
  · rw [second.frame, before, frame_giveUp]
    split_ifs
    · rfl
    · rw [(lists j).1]
  · rw [second.frame, before, frame_giveUp]
    split_ifs with hj
    · exact (lists f).2.symm
    · exact (lists j).2.symm
  · rw [second.frame, before, frame_giveUp]
    split_ifs with hj
    · exact Nat.zero_sub _
    · rw [first.frame]
      rfl
  · rw [ctx]
  · rw [ctx]
  · rw [ctx]
  · rw [ctx]
    exact id
  · have same : v.entry d g = u.entry d g := by
      unfold State.entry
      rw [secondRest.2, firstRest.2]
    exact congrArg _ same
  · have same : v.offer i = u.offer i := by
      rw [second.offer, first.offer]
      rfl
    exact congrArg _ same

end CountLaw

/-! ## The acts -/

theorem Act.counts {s t : State} (act : Act s t) (g : Grounds s) (h : Holding s) (k : CountLaw s) : CountLaw t := by
  cases act with
  | ports => exact k.congr (.of_eq rfl rfl rfl rfl)
  | aside => exact k.congr (.of_eq rfl rfl rfl rfl)
  | engine => exact k.congr (.of_eq rfl rfl rfl rfl)
  | @failed f n age current =>
    have retired : SameCounts s (modFrame s f fun x => { x with state := .retired, errorMark := true }) :=
      .modFrame rfl rfl rfl
    exact k.congr (t := scrubFail s f) (retired.trans (.of_eq rfl rfl rfl rfl))
  | marked f => exact k.congr (.modFrame rfl rfl rfl)
  | admitted => exact k.congr (.of_eq rfl rfl rfl rfl)
  | answered => exact k.congr (.respond _ _ _ _ _)
  | woke => exact k.congr (.of_eq rfl rfl rfl rfl)
  | bound => exact k.congr (.of_eq rfl rfl rfl rfl)
  | switching => exact k.congr (.of_eq rfl rfl rfl rfl)
  | switched => exact k.congr (.completeSwitch _ _)
  | allocated => exact k.congr (.of_eq rfl rfl rfl rfl)
  | freed => exact k.congr (.of_eq rfl rfl rfl rfl)
  | claimed live room enough => exact k.claimFrames h g.lists (by rw [live]; nofun) enough
  | created classes pool free =>
    obtain ⟨noEntries, nowhere⟩ := k.freeCtx _ free
    exact k.setBlankCtx ⟨rfl, rfl, rfl⟩ noEntries nowhere
  | destroyed => exact k.congr ((SameCounts.activate _ _ _).trans (.startPooledTeardown _ _ _))
  | @ceded a b n other source target room =>
    have first : SameCounts s (modCtx s a fun x => { x with quota := x.quota - n }) := .modCtx rfl rfl rfl id
    exact k.congr (first.trans (.modCtx (g := fun x => { x with quota := x.quota + n }) rfl rfl rfl id))
  | entrySet rests live by' => exact k.makeEntry (by rw [live]; nofun)
  | entryCleared c n => exact k.clearEntry c n
  | @joined p t r waits named acting fresh count room =>
    have queued : SameCounts s { activate s p t with loadQueue := s.loadQueue ++ [r] } := .of_eq rfl rfl rfl rfl
    refine k.congr ?_
    unfold acceptLoad
    dsimp only
    split_ifs
    · exact queued.trans (.runLoads _)
    · exact queued
  | loadEnded e => exact k.congr ((SameCounts.endRunning s e).trans (.runLoads _))
  | @goesOn r rest queue more =>
    have head : SameCounts s { s with loadQueue := { r with next := r.next + 1 } :: rest } := .of_eq rfl rfl rfl rfl
    exact k.congr (head.trans (.runLoads _))
  | idled => exact k.congr (.of_eq rfl rfl rfl rfl)
  | unqueued which e => exact k.congr (.removeQueued s which e)
  | stopPlaced q => exact k.congr (.placeStop s q)
  | @offered p x i acting up origin other single places empty =>
    let o : OfferRec := ⟨s.nextSerial, x.frame, x.offerer, x.target, x.rights, x.lifetime⟩
    let u : State := { s.setOffer i (some o) with nextSerial := s.nextSerial + 1 }
    have frame (f : Frame) : (modFrame u x.frame fun r => { r with pendingOffers := r.pendingOffers + 1 }).frame f =
        if f = x.frame then { s.frame x.frame with pendingOffers := (s.frame x.frame).pendingOffers + 1 } else s.frame f := by
      rw [frame_modFrame]
      rfl
    have offer (j : OfferId) : (modFrame u x.frame fun r => { r with pendingOffers := r.pendingOffers + 1 }).offer j =
        if j = i then some o else s.offer j := State.offer_setOffer s i j (some o)
    refine k.offerChanged (i := i) ⟨fun j hj => ?_, fun f => ?_, fun f => ?_, rfl, rfl⟩ (fun f => ?_) fun f => ?_
    · exact (offer j).trans (if_neg hj)
    · rw [frame]
      split_ifs with hf
      · rw [hf]
      · rfl
    · rw [frame]
      split_ifs with hf
      · rw [hf]
      · rfl
    · rw [frame, offer, if_pos rfl, empty, offeredOn_some]
      split_ifs with hf
      · rw [hf, decide_eq_true rfl]
        rfl
      · rw [decide_eq_false hf]
        rfl
    · rw [frame]
      split_ifs with hf
      · rw [hf]
        exact places
      · exact k.places f
  | offerRemoved i => exact k.removeOffer i
  | @accepted i o there live =>
    obtain ⟨origin, other, single⟩ := h.offers i o there
    have ended := k.endOffer i .accepted o.offerer
    have many := offersOn_pos there
    rw [← k.pendingOffers] at many
    have room := k.places o.frame
    have removed : SameCounts (removeOffer s i) (endOffer s i .accepted o.offerer) := by
      rw [endOffer_of_some there]
      exact .addressOwner _ _ _
    have state : ((endOffer s i .accepted o.offerer).ctx o.target).state = (s.ctx o.target).state :=
      ((Alike.endOffer s i .accepted o.offerer).contexts o.target).1
    have list : ((endOffer s i .accepted o.offerer).frame o.frame).holders = (s.frame o.frame).holders :=
      ((Alike.endOffer s i .accepted o.offerer).frames o.frame).2
    have pending : ((endOffer s i .accepted o.offerer).frame o.frame).pendingOffers = (s.frame o.frame).pendingOffers - 1 := by
      rw [removed.pending, frame_removeOffer there, if_pos rfl]
    refine ended.appendHolder ?_ ?_ ?_ ?_
    · rw [list]
      intro none'
      rw [none'] at origin
      cases origin
    · rw [list]
      exact other
    · rw [state, live]
      nofun
    · rw [list, pending]
      omega
  | lowered =>
    refine k.congr { SameCounts.refl s with offers := fun i => ?_ }
    refine (congrArg (Option.map OfferRec.frame) (mapVec_get _ s.offers i)).trans ?_
    rw [Option.map_map]
    rfl

/-! ## What is due -/

theorem DueStep.counts {s t : State} (due : DueStep s t) (h : Holding s) (k : CountLaw s) : CountLaw t := by
  have coHolderEnds {w : Withdrawal} (listed : w ∈ s.withdrawals) {f : Frame} (frame : w.frame = some f)
      (who : ofCoHolder w.requester = true) : CountLaw (removeHolder (removeRecord s w) f w.ctx) := by
    obtain ⟨x, tail, ctx, -⟩ := h.flagged w listed who f frame
    have shares : Shares (s.frame f).holders w.ctx = true :=
      (holds_iff _ _).2 (ctx ▸ List.mem_map_of_mem tail)
    exact (k.congr (.removeRecord s w)).removeHolder (f := f) shares (h.holders f).2
  cases due with
  | @released w listed empty f =>
    exact k.congr (((SameCounts.removeRecord s w).trans (.reclaimExit _ f)).trans (.respond _ _ _ _ _))
  | @hasLeft w listed empty f frame p t who =>
    exact (coHolderEnds listed frame (by rw [who]; rfl)).congr ((SameCounts.notifyOrigin _ _ _).trans (.respond _ _ _ _ _))
  | @revoked w listed empty f frame p t who =>
    exact (coHolderEnds listed frame (by rw [who]; rfl)).congr ((SameCounts.notifyOwner _ _ _).trans (.respond _ _ _ _ _))
  | @departed w listed empty f frame o who =>
    exact (coHolderEnds listed frame (by rw [who]; rfl)).congr (.notifyOwner _ _ _)
  | @drained w =>
    unfold endDrain
    split
    · exact k.congr ((SameCounts.removeRecord s w).trans (.setStep _ _ _))
    · exact k.congr (.removeRecord s w)
  | @dropped w => exact k.congr (.removeRecord s w)
  | @drains c => exact (k.congr (.setStep s c .drain)).withdrawal c none .teardown
  | gone => exact k.congr (.setStep _ _ _)
  | waits => exact k.congr (.setStep _ _ _)
  | @leaves c st x teardown past f held stands free other =>
    have shares : Shares (s.frame f).holders c = true := by
      refine (shares_iff _ _).2 ?_
      cases list : (s.frame f).holders.map Holder.ctx with
      | nil =>
        rw [list] at stands
        cases stands
      | cons y rest =>
        rw [list] at stands other
        rcases List.mem_cons.1 stands with rfl | inside
        · exact absurd rfl other
        · exact inside
    exact (k.removeHolder shares (h.holders f).2).congr ((SameCounts.notifyOrigin _ _ _).trans (.setStep _ _ _))
  | @givesUp c st x teardown past f held origin sole =>
    have first : originOf (s.frame f).holders = some c := by
      rcases origin with rfl | ⟨first, -⟩
      · obtain ⟨y, head, ctx, -⟩ := h.departures c st f teardown
        exact (originOf_iff _ _).2 ⟨y, head, ctx⟩
      · rw [originOf_eq]
        exact first
    have only : (s.frame f).holders.map Holder.ctx = [c] := by
      cases list : (s.frame f).holders with
      | nil =>
        rw [list] at first
        cases first
      | cons y rest =>
        rw [list] at first sole
        obtain rfl : rest = [] := sole
        have same : y.ctx = c := Option.some.inj first
        rw [List.map_singleton, same]
    have unoffered : offersOn s f = 0 := by
      refine count_eq_zero.2 fun i => ?_
      cases there : s.offer i with
      | none => rfl
      | some o =>
        rw [Option.map_some, beq_eq_false_iff_ne]
        intro same
        have origin' := (h.offers i o there).1
        rw [Option.some.inj same, first] at origin'
        exact h.noOffers c _ teardown (by rintro rfl; cases past) i o there (Option.some.inj origin').symm
    exact (k.giveUp only unoffered).congr ((SameCounts.reclaimExit _ _).trans (.setStep _ _ _))
  | @inherits c st x teardown past f held free origin d heir room =>
    have shares : Shares (s.frame f).holders d.ctx = true := (holds_iff _ _).2 (List.mem_map_of_mem heir)
    exact (k.promote origin shares (h.holders f).2).congr ((SameCounts.notifyOwner _ _ _).trans (.setStep _ _ _))
  | departs => exact k.congr ((SameCounts.markWithdrawing _ _ _).trans (.setStep _ _ _))
  | takesNext => exact k.withdrawHolder _ _ _
  | @finishes c st teardown nowhere =>
    have ended : CountLaw (s.setTeardown c none) := k.congr (.of_eq rfl rfl rfl rfl)
    have noEntries : entriesOf s c = 0 := count_eq_zero.2 fun g => by
      rw [(h.noEntries c _ teardown rfl).1 g]
      rfl
    have stands (f : Frame) : holds (s.frame f).holders c = false := by
      by_cases held : (s.frame f).state = .held
      · have out := nowhere f
        unfold standsOn at out
        rw [held] at out
        exact out
      · rw [h.noHolders held]
        rfl
    have freed : CountLaw (freedCtx s c) := by
      unfold freedCtx
      cases (s.ctx c).owner with
      | none => exact ended.setBlankCtx ⟨rfl, rfl, rfl⟩ noEntries stands
      | some p =>
        have returned : CountLaw (modCtx (s.setTeardown c none) (homeOf p) fun x =>
            { x with quota := x.quota + (s.ctx c).quota }) := ended.congr (.modCtx rfl rfl rfl id)
        exact returned.setBlankCtx ⟨rfl, rfl, rfl⟩ noEntries stands
    rcases finishTeardown_cases s c with ⟨-, same⟩ | ⟨-, ⟨p, t, x, -, same⟩ | ⟨-, same⟩⟩
    · rw [same]
      exact ended
    · rw [same]
      exact freed.congr (.respond _ _ _ _ _)
    · rw [same]
      exact freed
  | @enters p c =>
    have entered : SameCounts s (modPort s p fun x => { x with state := .teardown (.contexts c) }) := .of_eq rfl rfl rfl rfl
    exact k.congr (entered.trans (.startPooledTeardown _ _ _))
  | joins => exact k.congr (.of_eq rfl rfl rfl rfl)
  | @entersHome p =>
    have entered : CountLaw (modPort s p fun x => { x with state := .teardown (.contexts (homeOf p)) }) :=
      k.congr (.of_eq rfl rfl rfl rfl)
    exact entered.cancelThenEndLoads _ _
  | ends => exact k.congr (.of_eq rfl rfl rfl rfl)

/-! ## Every step -/

theorem Start.counts {s t : State} (start : Start s t) (g : Grounds s) (h : Holding s) (k : CountLaw s) : CountLaw t := by
  cases start with
  | act act => exact act.counts g h k
  | due due => exact due.counts h k
  | released waits acting held origin sole => exact k.acceptRelease origin sole
  | withdraws => exact (k.congr (.activate _ _ _)).withdrawHolder _ _ _
  | offersCancelled => exact k.cancelThenEndLoads _ _
  | @cut p up =>
    obtain ⟨l, n, -, started⟩ := startPortTeardown_eq s p
    rw [started]
    refine CountLaw.congr ?_ (SameCounts.endLoadsWhere _ (fun r => r.port == p) .portReset)
    exact k.congr (.of_eq rfl rfl rfl rfl)

/-- The laws that carry one another through an event. -/
structure Laws (s : State) : Prop where
  grounds : Grounds s
  holding : Holding s
  counts : CountLaw s

theorem Laws.settle {s : State} (h : Laws s) : Laws (settle s) := by
  refine DueStep.kept_by_settle (P := Laws) (fun s n k => ?_) (fun s t k due => ?_) (fun s k => ?_) h
  · exact ⟨⟨k.grounds.lists.of_eq (fun _ => rfl) rfl rfl rfl, k.grounds.contexts.of_eq fun _ => rfl, k.grounds.tables⟩,
      k.holding.kept ⟨.of_eq rfl rfl rfl rfl rfl rfl rfl, rfl, rfl⟩, k.counts.congr (.of_eq rfl rfl rfl rfl)⟩
  · exact ⟨k.grounds.moves due.moves, due.holding k.grounds k.holding, due.counts k.holding k.counts⟩
  · exact ⟨k.grounds.moves (Moves.placeNotices s), k.holding.kept (.placeNotices s), k.counts.congr (.of_eq rfl rfl rfl rfl)⟩

theorem Turn.laws {s t : State} (turn : Turn s t) (h : Laws s) : Laws t := by
  cases turn with
  | act act => exact ⟨h.grounds.moves act.moves, act.holding h.grounds h.holding, act.counts h.grounds h.holding h.counts⟩
  | event starts =>
    refine Laws.settle ?_
    induction starts with
    | refl => exact h
    | tail _ last ih =>
      exact ⟨ih.grounds.moves last.moves, last.holding ih.grounds ih.holding, last.counts ih.grounds ih.holding ih.counts⟩

theorem Turns.laws {s t : State} (turns : Turns s t) (h : Laws s) : Laws t := by
  induction turns with
  | refl => exact h
  | tail _ last ih => exact last.laws ih

theorem countLaw_exec {c : Instr} {s t : State} (lists : FrameLists s) (contexts : ContextLaw s) (ports : PortTables s)
    (h : Holding s) (k : CountLaw s) (run : exec c s = .next t) : CountLaw t := by
  have tables (p : Port) : TablesLaw p (s.port p) := ((portLaw_iff p _).1 (ports.port p)).1
  cases asserted : s.rstAsserted with
  | true =>
    have reset := lists.inReset_of asserted
    rcases reset.exec run with ⟨part, rfl⟩ | rfl | ⟨p, level, access, control, rfl⟩
    · obtain rfl : (if s.rstAsserted then releaseReset s part else s) = t := by injection run
      rw [if_pos asserted]
      exact (fresh_releaseReset s part).countLaw
    · exact k
    · exact (reset.setPort p level access control).fresh.countLaw
  | false =>
    rcases turns_of_exec tables run with turns | rfl | ⟨part, rfl⟩ | ⟨f, -, rfl⟩
    · exact (turns.laws ⟨⟨lists.listsLaw asserted, contexts, tables⟩, h, k⟩).counts
    · obtain rfl : (if s.rstAsserted then s else assertReset s) = t := by injection run
      rw [if_neg (by rw [asserted]; nofun)]
      exact (fresh_assertReset s).countLaw
    · obtain rfl : (if s.rstAsserted then releaseReset s part else s) = t := by injection run
      rw [if_neg (by rw [asserted]; nofun)]
      exact k
    · have freed : SameCounts s (modFrame s f fun x => { x with state := .free, errorMark := false }) :=
        .modFrame rfl rfl rfl
      exact k.congr (t := scrubbed s f) (freed.trans (.of_eq rfl rfl rfl rfl))

/-- Settles O57: each change of an entry, a holder list or an offer moves its counts with it, upon the law of holdings, which
holds within an event too. -/
theorem countLawKept : Obligations.CountLawKept := by
  intro s t lists contexts ports h k run
  rcases of_step run with rfl | ⟨c, rest, -, run⟩
  · exact k
  · have queued : PortTables { s with pending := rest } :=
      ⟨ports.port, SameCarried.carried (s := s) (.of_eq rfl rfl rfl rfl) ports.carried⟩
    exact countLaw_exec (lists.withPending rest) (contexts.of_eq fun _ => rfl) queued
      (h.kept ⟨.of_eq rfl rfl rfl rfl rfl rfl rfl, rfl, rfl⟩) (k.congr (.of_eq rfl rfl rfl rfl)) run

end Sys2Proof.Machine
end

section
/-! SUPPORT. A port in its teardown under PRST_N: it hears nothing and answers nothing, whatever an event takes as due. -/

namespace Sys2Proof.Machine

open Sys2Proof

/-- What is left of the record `r` of a port that is not UP, while its PRST_N is asserted: its streams and its notice queue as
they were, and some of its control slots (R164, R165, R177). -/
structure Muted (r r' : PortRec) : Prop where
  down : r'.state ≠ .up
  asserted : r'.prst = true
  arriving : r'.arriving = []
  notices : r'.notices = r.notices
  dropped : r'.dropped = r.dropped
  answers : r'.controlResponses = r.controlResponses
  slots : r'.slots.Sublist r.slots

namespace Muted

section Record

variable {r r' : PortRec} (h : Muted r r')

include h

theorem responded (t : Tag) (v : Verdict) (rs : List Byte) : Muted r (r'.responded t v rs) := by
  unfold PortRec.responded
  split
  · exact h
  · dsimp only
    rw [if_pos (by simpa using Or.inr h.down)]
    exact { h with slots := List.filter_sublist.trans h.slots }

theorem notified (n : Notice) : Muted r (r'.notified n) := by
  unfold PortRec.notified
  rwa [if_neg h.down]

theorem placed : Muted r r'.placed := by
  rwa [placed_of_nil h.arriving]

theorem phase {st : PortState} (down : st ≠ .up) : Muted r { r' with state := st } := { h with down := down }

end Record

variable {r : PortRec} {p : Port} {s : State}

theorem modPort (h : Muted r (s.port p)) {q : Port} {g : PortRec → PortRec} (own : q = p → Muted r (g (s.port p))) :
    Muted r ((modPort s q g).port p) := by
  rw [port_modPort]
  split_ifs with hq
  · subst hq
    exact own rfl
  · exact h

/-- The ports are not written. -/
theorem of_ports {t : State} (h : Muted r (s.port p)) (same : t.ports = s.ports) : Muted r (t.port p) := by
  unfold State.port
  rwa [same]

section Operations

variable (h : Muted r (s.port p))

include h

theorem respond (q : Port) (t : Tag) (v : Verdict) (rs : List Byte) : Muted r ((respond s q t v rs).port p) :=
  h.modPort fun _ => h.responded t v rs

theorem notifyOwner (c : Ctx) (n : Notice) : Muted r ((notifyOwner s c n).port p) := by
  unfold Machine.notifyOwner
  split
  · exact h.modPort fun _ => h.notified n
  · exact h

theorem notifyOrigin (f : Frame) (n : Notice) : Muted r ((notifyOrigin s f n).port p) := by
  unfold Machine.notifyOrigin
  split
  · exact h.notifyOwner _ n
  · exact h

theorem reclaimExit (f : Frame) : Muted r ((reclaimExit s f).port p) := by
  rw [reclaimExit_frame]
  exact h

theorem setStep (c : Ctx) (y : TeardownStep) : Muted r ((setStep s c y).port p) := by
  unfold Machine.setStep
  split <;> exact h

theorem startWithdrawal (c : Ctx) (f : Option Frame) (q : Requester) : Muted r ((startWithdrawal s c f q).port p) := by
  rw [startWithdrawal_eq]
  obtain ⟨a, b, m, same⟩ : ∃ a b m, invalidate s c f = { s with frames := a, contexts := b, maps := m } :=
    ⟨_, _, _, invalidate_frame s c f⟩
  rw [same]
  exact h

theorem cancelOffer (i : OfferId) (c : Ctx) : Muted r ((cancelOffer s i c).port p) := by
  unfold Machine.cancelOffer
  split
  · exact h
  · rename_i o there
    refine Muted.notifyOwner ?_ c _
    rw [removeOffer_of_some there]
    exact h

theorem cancelOffersOf (c : Ctx) : Muted r ((cancelOffersOf s c).port p) := by
  unfold Machine.cancelOffersOf
  refine foldl_keeps (P := fun u : State => Muted r (u.port p)) (fun u i k => ?_) _ h
  split
  · exact k
  · split_ifs
    · exact k.cancelOffer i _
    · exact k.cancelOffer i _
    · exact k

theorem endRunning (e : LoadEnd) : Muted r ((endRunning s e).port p) := by
  unfold Machine.endRunning
  split
  · exact h
  · rename_i x rest queue
    exact Muted.respond (s := { s with loadQueue := rest, load := .idle }) h _ _ _ _

theorem finishTeardown (c : Ctx) : Muted r ((finishTeardown s c).port p) := by
  have freed : Muted r ((freedCtx s c).port p) := h.of_ports (freedCtx_beside s c).2.2.2
  rcases finishTeardown_cases s c with ⟨-, same⟩ | ⟨-, ⟨q, t, x, -, same⟩ | ⟨-, same⟩⟩
  · rw [same]
    exact h
  · rw [same]
    exact freed.respond q t .done _
  · rw [same]
    exact freed

end Operations

theorem runLoadsFor (n : Nat) {s : State} (h : Muted r (s.port p)) : Muted r ((runLoadsFor n s).port p) := by
  induction n generalizing s with
  | zero => exact h
  | succ n ih =>
    unfold Machine.runLoadsFor
    split
    · exact h
    · split
      · exact h
      · exact ih (h.endRunning _)

section Loads

variable (h : Muted r (s.port p))

include h

theorem removeQueued (which : LoadRec → Bool) (e : LoadEnd) : Muted r ((removeQueued s which e).port p) := by
  unfold Machine.removeQueued
  split
  · exact h
  · exact foldl_keeps (P := fun u : State => Muted r (u.port p))
      (g := fun u (x : LoadRec) => Machine.respond u x.port x.tag e.1 e.2) (fun _ x k => k.respond x.port x.tag e.1 e.2) _ h

theorem placeStop (q : StopRequest) : Muted r ((placeStop s q).port p) := by
  unfold Machine.placeStop
  split
  · exact h
  · dsimp only
    split_ifs
    · exact h
    · exact runLoadsFor _ h
    · exact h

theorem endLoadsWhere (which : LoadRec → Bool) (q : StopRequest) : Muted r ((endLoadsWhere s which q).port p) := by
  have removed := h.removeQueued which (stopped .contextGone 0)
  unfold Machine.endLoadsWhere
  dsimp only
  split
  · exact removed
  · split_ifs
    · exact removed.placeStop q
    · exact removed

theorem cancelThenEndLoads (c : Ctx) (st : Starter) : Muted r ((cancelThenEndLoads s c st).port p) := by
  have cancelled := h.cancelOffersOf c
  unfold Machine.cancelThenEndLoads
  generalize Machine.cancelOffersOf s c = u at cancelled ⊢
  exact Muted.endLoadsWhere (s := u.setTeardown c (some ⟨st, .loads⟩)) cancelled _ _

/-- Whatever is due and taken (R165, R177, R179). -/
theorem dueStep {t : State} (due : DueStep s t) : Muted r (t.port p) := by
  have same {u : State} (ports : u.ports = s.ports) : Muted r (u.port p) := h.of_ports ports
  cases due with
  | @released w _ _ f _ q tag _ results => exact ((same (u := removeRecord s w) rfl).reclaimExit f).respond q tag .done results
  | @hasLeft w _ _ f _ q tag _ =>
    exact ((same (u := removeHolder (removeRecord s w) f w.ctx) rfl).notifyOrigin f _).respond q tag .done []
  | @revoked w _ _ f _ q tag _ =>
    exact ((same (u := removeHolder (removeRecord s w) f w.ctx) rfl).notifyOwner w.ctx _).respond q tag .done []
  | @departed w _ _ f => exact (same (u := removeHolder (removeRecord s w) f w.ctx) rfl).notifyOwner w.ctx _
  | @drained w =>
    unfold endDrain
    split
    · exact (same (u := removeRecord s w) rfl).setStep w.ctx .frames
    · exact h
  | dropped => exact h
  | @drains c => exact (h.setStep c .drain).startWithdrawal c none .teardown
  | @gone c => exact h.setStep c .frames
  | @waits c _ _ _ _ f => exact h.setStep c (.turn f)
  | @leaves c _ _ _ _ f => exact ((same (u := removeHolder s f c) rfl).notifyOrigin f _).setStep c .frames
  | @givesUp c _ _ _ _ f => exact ((same (u := giveUp s f c) rfl).reclaimExit f).setStep c .frames
  | @inherits c _ _ _ _ f _ _ _ d => exact ((same (u := promote s f c d.ctx) rfl).notifyOwner d.ctx _).setStep c .frames
  | @departs c _ _ _ _ f => exact (same (u := markWithdrawing s f c) rfl).setStep c (.departure f)
  | @takesNext c _ f _ _ d => exact (same (u := markWithdrawing s f d.ctx) rfl).startWithdrawal d.ctx (some f) (.departure c)
  | @finishes c => exact h.finishTeardown c
  | @enters q c =>
    have entered : Muted r ((Machine.modPort s q fun x => { x with state := .teardown (.contexts c) }).port p) :=
      h.modPort fun _ => h.phase nofun
    exact entered
  | @joins q c => exact h.modPort fun _ => h.phase nofun
  | @entersHome q =>
    have entered : Muted r ((Machine.modPort s q fun x => { x with state := .teardown (.contexts (homeOf q)) }).port p) :=
      h.modPort fun _ => h.phase nofun
    exact entered.cancelThenEndLoads (homeOf q) (.portReset q)
  | @ends q =>
    refine h.modPort fun _ => ?_
    have ended : (if (s.port p).prst then PortState.teardown .ended else .up) = .teardown .ended := if_pos h.asserted
    rw [ended]
    exact h.phase nofun

theorem settle : Muted r ((settle s).port p) :=
  DueStep.kept_by_settle (P := fun u : State => Muted r (u.port p)) (fun _ _ k => k) (fun _ _ k due => k.dueStep due)
    (fun u k => by
      rw [port_placeNotices]
      exact k.placed) h

end Loads

end Muted

end Sys2Proof.Machine
end

section
/-! SUPPORT. The load queue and a port's control slots, from the start of the port's teardown on (R150, R166). -/

namespace Sys2Proof.Machine

open Sys2Proof

/-! ## Responses -/

theorem port_respond_other (s : State) {p q : Port} (other : q ≠ p) (t : Tag) (v : Verdict) (rs : List Byte) :
    (respond s q t v rs).port p = s.port p := by
  unfold respond
  rw [port_modPort, if_neg other.symm]

/-- A response frees its slot and no other (R176, R177). -/
theorem mem_slots_respond (s : State) (p q : Port) (t : Tag) (v : Verdict) (rs : List Byte) (x : ControlSlot) :
    x ∈ ((respond s q t v rs).port p).slots ↔ x ∈ (s.port p).slots ∧ (q = p → x.tag ≠ t) := by
  by_cases hq : q = p
  · subst hq
    unfold respond
    rw [port_modPort, if_pos rfl]
    unfold PortRec.responded
    split
    · rename_i none'
      refine ⟨fun listed => ⟨listed, fun _ same => ?_⟩, And.left⟩
      exact List.find?_eq_none.1 none' x listed (beq_iff_eq.2 same)
    · dsimp only
      split_ifs
      all_goals simp [List.mem_filter]
  · rw [port_respond_other s hq]
    simp [hq]

theorem mem_slots_foldl_respond (l : List LoadRec) (s : State) (p : Port) (v : Verdict) (rs : List Byte) (x : ControlSlot) :
    x ∈ ((l.foldl (fun u r => respond u r.port r.tag v rs) s).port p).slots ↔
      x ∈ (s.port p).slots ∧ ∀ r ∈ l, r.port = p → x.tag ≠ r.tag := by
  induction l generalizing s with
  | nil => simp
  | cons r l ih =>
    rw [List.foldl_cons, ih, mem_slots_respond, and_assoc, List.forall_mem_cons]

theorem port_foldl_respond {l : List LoadRec} {p : Port} (others : ∀ r ∈ l, r.port ≠ p) (s : State) (v : Verdict)
    (rs : List Byte) : (l.foldl (fun u r => respond u r.port r.tag v rs) s).port p = s.port p := by
  induction l generalizing s with
  | nil => rfl
  | cons r l ih =>
    obtain ⟨first, rest⟩ := List.forall_mem_cons.1 others
    exact (ih rest _).trans (port_respond_other s first _ _ _)

/-! ## A queue without loads of the port -/

/-- No load is the port's, and its record is `r`. -/
structure Loadless (p : Port) (r : PortRec) (u : State) : Prop where
  queue : ∀ x ∈ u.loadQueue, x.port ≠ p
  port : u.port p = r

namespace Loadless

variable {p : Port} {r : PortRec}

theorem endRunning {u : State} (h : Loadless p r u) (e : LoadEnd) : Loadless p r (endRunning u e) := by
  unfold Machine.endRunning
  split
  · exact h
  · rename_i x rest queue
    have others := h.queue
    rw [queue] at others
    obtain ⟨first, left⟩ := List.forall_mem_cons.1 others
    exact ⟨left, (port_respond_other _ first _ _ _).trans h.port⟩

theorem runLoadsFor (n : Nat) {u : State} (h : Loadless p r u) : Loadless p r (runLoadsFor n u) := by
  induction n generalizing u with
  | zero => exact h
  | succ n ih =>
    unfold Machine.runLoadsFor
    split
    · exact ⟨h.queue, h.port⟩
    · split
      · exact ⟨h.queue, h.port⟩
      · exact ih (h.endRunning _)

theorem runLoads {u : State} (h : Loadless p r u) : Loadless p r (runLoads u) := runLoadsFor _ h

end Loadless

/-! ## What the end of a port's loads leaves -/

/-- The running load waits for its outstanding read. -/
def readOf (s : State) (r : LoadRec) : Bool := s.loadQueue.head? == some r && s.load != .ready

theorem readOf_iff (s : State) (r : LoadRec) : readOf s r = true ↔ s.loadQueue.head? = some r ∧ s.load ≠ .ready := by
  simp [readOf]

/-- What an event that ends the loads of port `p` leaves of the running load `r`, whose read is outstanding. -/
structure StillRuns (p : Port) (r r' : LoadRec) : Prop where
  port : r'.port = r.port
  target : r'.target = r.target
  stop : r.port = p → r' = { r with stop := some (r.stop.getD .portReset) }

/-- From the loads of `s` those of port `p` are gone but for the running one whose read is outstanding, and any such running
load stays. -/
inductive LoadsLeft (s : State) (p : Port) (u : State) : Prop where
  /-- The running load waits for its read. -/
  | running {r r' : LoadRec} {rest : List LoadRec} (before : s.loadQueue.head? = some r) (reads : s.load ≠ .ready)
      (queue : u.loadQueue = r' :: rest) (still : u.load ≠ .ready) (runs : StillRuns p r r') (others : ∀ x ∈ rest, x.port ≠ p)
  /-- No load waits for a read. -/
  | idle (before : s.load = .ready ∨ s.loadQueue = []) (others : ∀ x ∈ u.loadQueue, x.port ≠ p)

namespace LoadsLeft

variable {s u : State} {p : Port}

/-- The loads that are left stand in the queue alone. -/
theorem of_eq (h : LoadsLeft s p u) {v : State} (queue : v.loadQueue = u.loadQueue) (load : v.load = u.load) :
    LoadsLeft s p v := by
  cases h with
  | running before reads list still runs others =>
    exact .running before reads (queue.trans list) (fun ready => still (load ▸ ready)) runs others
  | idle before others => exact .idle before (queue ▸ others)

/-- Where the running load of `s` waits for its read it stays, and so does its target's wait. -/
theorem targets (h : LoadsLeft s p u) {r : LoadRec} (reads : readOf s r = true) : loadTargets u r.target = true := by
  obtain ⟨head, waits⟩ := (readOf_iff s r).1 reads
  unfold loadTargets
  cases h with
  | @running r0 r' rest before _ queue _ runs _ =>
    obtain rfl := Option.some.inj (head.symm.trans before)
    rw [queue, List.any_cons, Bool.or_eq_true, beq_iff_eq]
    exact .inl runs.target
  | idle before _ =>
    rcases before with ready | none'
    · exact absurd ready waits
    · rw [none'] at head
      cases head

/-- A load of the port is left exactly where one waits for its read. -/
theorem loadOfPort_iff (h : LoadsLeft s p u) : loadOfPort u p = true ↔ ∃ r, readOf s r = true ∧ r.port = p := by
  unfold loadOfPort
  rw [List.any_eq_true]
  cases h with
  | @running r r' rest before reads queue _ runs others =>
    rw [queue]
    constructor
    · rintro ⟨x, listed, port⟩
      rcases List.mem_cons.1 listed with rfl | listed
      · exact ⟨r, (readOf_iff s r).2 ⟨before, reads⟩, runs.port.symm.trans (beq_iff_eq.1 port)⟩
      · exact absurd (beq_iff_eq.1 port) (others x listed)
    · rintro ⟨r0, read, port⟩
      obtain rfl := Option.some.inj (before.symm.trans ((readOf_iff s r0).1 read).1)
      exact ⟨r', .head _, beq_iff_eq.2 (runs.port.trans port)⟩
  | idle before others =>
    constructor
    · rintro ⟨x, listed, port⟩
      exact absurd (beq_iff_eq.1 port) (others x listed)
    · rintro ⟨r, read, -⟩
      obtain ⟨head, waits⟩ := (readOf_iff s r).1 read
      rcases before with ready | none'
      · exact absurd ready waits
      · rw [none'] at head
        cases head

/-- A load of the port that is left is the running one, as its stop request leaves it. -/
theorem mem (h : LoadsLeft s p u) {x : LoadRec} (listed : x ∈ u.loadQueue) (port : x.port = p) :
    ∃ r, readOf s r = true ∧ r.port = p ∧ x = { r with stop := some (r.stop.getD .portReset) } := by
  cases h with
  | @running r r' rest before reads queue _ runs others =>
    rw [queue] at listed
    rcases List.mem_cons.1 listed with rfl | listed
    · have own := runs.port.symm.trans port
      exact ⟨r, (readOf_iff s r).2 ⟨before, reads⟩, own, runs.stop own⟩
    · exact absurd port (others x listed)
  | idle before others => exact absurd port (others x listed)

theorem head (h : LoadsLeft s p u) {r : LoadRec} (reads : readOf s r = true) (port : r.port = p) :
    u.loadQueue.head? = some { r with stop := some (r.stop.getD .portReset) } := by
  obtain ⟨first, waits⟩ := (readOf_iff s r).1 reads
  cases h with
  | @running r0 r' rest before _ queue _ runs _ =>
    obtain rfl := Option.some.inj (first.symm.trans before)
    rw [queue, runs.stop port]
    rfl
  | idle before _ =>
    rcases before with ready | none'
    · exact absurd ready waits
    · rw [none'] at first
      cases first

/-- The ends of a context's loads leave them so, and the port's record as it is (R149). -/
theorem endsLoads (h : LoadsLeft s p u) {v : State} {ends : LoadRec → Bool} (ended : EndsLoads u v ends .contextGone) :
    LoadsLeft s p v ∧ v.port p = u.port p := by
  obtain ⟨empty, cons⟩ := ended
  cases list : u.loadQueue with
  | nil =>
    rw [empty list]
    exact ⟨h, rfl⟩
  | cons r' rest =>
    have written := cons r' rest list
    have others : ∀ x ∈ rest, x.port ≠ p := by
      cases h with
      | running _ _ queue _ _ others =>
        rw [list] at queue
        cases queue
        exact others
      | idle _ others => exact fun x listed => others x (list ▸ .tail _ listed)
    have told := port_foldl_respond (l := rest.filter ends) (p := p) (fun x listed => others x (List.mem_filter.1 listed).1) u
      .loadStopped [7, 0, 0, 0]
    have load := foldl_keeps (P := fun t : State => t.load = u.load)
      (g := fun t (x : LoadRec) => respond t x.port x.tag .loadStopped [7, 0, 0, 0]) (fun _ _ k => k) (rest.filter ends) rfl
    have kept : ∀ x ∈ rest.filter (fun x => !ends x), x.port ≠ p := fun x listed => others x (List.mem_filter.1 listed).1
    dsimp only at written
    generalize (rest.filter ends).foldl (fun t (x : LoadRec) => respond t x.port x.tag .loadStopped [7, 0, 0, 0]) u = t
      at written told load
    cases h with
    | @running r _ _ before reads queue still runs _ =>
      rw [list] at queue
      cases queue
      rw [if_neg still] at written
      split_ifs at written with stays
      · rw [written]
        exact ⟨.running before reads rfl (fun ready => still (load.symm.trans ready)) runs kept, told⟩
      · rw [written]
        refine ⟨.running before reads rfl (fun ready => still (load.symm.trans ready)) ⟨runs.port, runs.target, fun own => ?_⟩
          kept, told⟩
        refine absurd (.inr ?_) stays
        rw [runs.stop own]
        nofun
    | idle before all =>
      have first : r'.port ≠ p := all r' (list ▸ .head _)
      have queued : ∀ x ∈ r' :: rest.filter (fun x => !ends x), x.port ≠ p := List.forall_mem_cons.2 ⟨first, kept⟩
      split_ifs at written
      · rw [written]
        exact ⟨.idle before queued, told⟩
      · have left : Loadless p (u.port p) v := by
          rw [written]
          exact Loadless.runLoads ⟨kept, (port_respond_other _ first _ _ _).trans told⟩
        exact ⟨.idle before left.queue, left.port⟩
      · rw [written]
        exact ⟨.idle before (List.forall_mem_cons.2 ⟨first, kept⟩), told⟩

/-- Of the queue of `s`, with head `r` and the rest `rest`: what the answers to the port's queued loads leave of its slots. -/
theorem mem_slots_told {r : LoadRec} {rest : List LoadRec} (list : s.loadQueue = r :: rest)
    (tags : (s.loadQueue.map fun r => (r.port, r.tag)).Nodup) (u : State) (q : ControlSlot) :
    q ∈ (((rest.filter fun x => x.port == p).foldl
      (fun t (x : LoadRec) => respond t x.port x.tag .loadStopped [7, 0, 0, 0]) u).port p).slots ↔
      q ∈ (u.port p).slots ∧ ∀ x ∈ rest, x.port = p → readOf s x = false → q.tag ≠ x.tag := by
  rw [mem_slots_foldl_respond]
  refine and_congr_right fun _ => ⟨fun all x listed port _ => all x (List.mem_filter.2 ⟨listed, beq_iff_eq.2 port⟩) port,
    fun all x listed port => ?_⟩
  have behind := (List.mem_filter.1 listed).1
  refine all x behind port ?_
  rw [← Bool.not_eq_true, readOf_iff, list]
  rintro ⟨first, -⟩
  obtain rfl := Option.some.inj first
  rw [list, List.map_cons, List.nodup_cons] at tags
  exact tags.1 (List.mem_map.2 ⟨r, behind, rfl⟩)

/-- The end of a port's loads at the start of its teardown (R150, R166): what is left of them, and the slots that go with the
others. -/
theorem of_cut {v : State} (loads : LoadLaw s) (tags : (s.loadQueue.map fun r => (r.port, r.tag)).Nodup)
    (queue : u.loadQueue = s.loadQueue) (load : u.load = s.load)
    (ended : EndsLoads u v (fun r => r.port == p) .portReset) :
    LoadsLeft s p v ∧ ∀ q, q ∈ (v.port p).slots ↔
      q ∈ (u.port p).slots ∧ ∀ r ∈ s.loadQueue, r.port = p → readOf s r = false → q.tag ≠ r.tag := by
  obtain ⟨empty, cons⟩ := ended
  cases list : s.loadQueue with
  | nil =>
    rw [empty (queue.trans list)]
    refine ⟨.idle (.inr list) fun x listed => ?_, fun q => ⟨fun listed => ⟨listed, nofun⟩, And.left⟩⟩
    rw [queue, list] at listed
    cases listed
  | cons r rest =>
    have written := cons r rest (queue.trans list)
    have told := mem_slots_told (p := p) list tags u
    have same := foldl_keeps (P := fun t : State => t.load = u.load)
      (g := fun t (x : LoadRec) => respond t x.port x.tag .loadStopped [7, 0, 0, 0]) (fun _ _ k => k)
      (rest.filter fun x => x.port == p) rfl
    have kept : ∀ x ∈ rest.filter (fun x => !(x.port == p)), x.port ≠ p := fun x listed => by
      simpa using (List.mem_filter.1 listed).2
    dsimp only at written
    generalize (rest.filter fun x => x.port == p).foldl
      (fun t (x : LoadRec) => respond t x.port x.tag .loadStopped [7, 0, 0, 0]) u = t at written told same
    have untouched (stays : r.port = p → readOf s r = true) (q : ControlSlot) : q ∈ (t.port p).slots ↔
        q ∈ (u.port p).slots ∧ ∀ x ∈ r :: rest, x.port = p → readOf s x = false → q.tag ≠ x.tag := by
      rw [told, List.forall_mem_cons]
      refine and_congr_right fun _ => ⟨fun all => ⟨fun port none' => ?_, all⟩, And.right⟩
      rw [stays port] at none'
      cases none'
    have first : s.loadQueue.head? = some r := by rw [list]; rfl
    by_cases ready : s.load = .ready
    · by_cases own : r.port = p
      · have unread : readOf s r = false := by
          rw [← Bool.not_eq_true, readOf_iff]
          exact fun both => both.2 ready
        have free : r.stop = none := loads.ready ready r first
        rw [if_neg (by rw [beq_iff_eq.2 own, free]; simp), if_pos (load.trans ready)] at written
        have responded := mem_slots_respond { t with loadQueue := rest.filter fun x => !(x.port == p), load := .idle } p r.port
          r.tag .loadStopped [7, byteOf r.next, byteOf r.next, 0]
        have list' : (respond { t with loadQueue := rest.filter fun x => !(x.port == p), load := .idle } r.port
          r.tag .loadStopped [7, byteOf r.next, byteOf r.next, 0]).loadQueue = rest.filter fun x => !(x.port == p) := rfl
        generalize respond { t with loadQueue := rest.filter fun x => !(x.port == p), load := .idle } r.port
          r.tag .loadStopped [7, byteOf r.next, byteOf r.next, 0] = w at written responded list'
        have left : Loadless p (w.port p) v := by
          rw [written]
          exact Loadless.runLoads ⟨list'.symm ▸ kept, rfl⟩
        refine ⟨.idle (.inl ready) left.queue, fun q => ?_⟩
        rw [left.port, responded]
        change q ∈ (t.port p).slots ∧ _ ↔ _
        rw [told, List.forall_mem_cons, and_assoc]
        exact and_congr_right fun _ => ⟨fun ⟨all, hit⟩ => ⟨fun _ _ => hit own, all⟩, fun ⟨hit, all⟩ =>
          ⟨all, fun _ => hit own unread⟩⟩
      · rw [if_pos (.inl (beq_eq_false_iff_ne.2 own))] at written
        rw [written]
        exact ⟨.idle (.inl ready) (List.forall_mem_cons.2 ⟨own, kept⟩), untouched fun port => absurd port own⟩
    · have waits : u.load ≠ .ready := load ▸ ready
      have still : t.load ≠ .ready := same.symm ▸ waits
      have reads : readOf s r = true := (readOf_iff s r).2 ⟨first, ready⟩
      rw [if_neg waits] at written
      split_ifs at written with stays
      · rw [written]
        refine ⟨.running first ready rfl still ⟨rfl, rfl, fun own => ?_⟩ kept, untouched fun _ => reads⟩
        have asked := stays.resolve_left (by rw [beq_iff_eq.2 own]; nofun)
        cases stop : r.stop with
        | none => exact absurd stop asked
        | some x =>
          show r = { r with stop := some x }
          rw [← stop]
      · rw [written]
        refine ⟨.running first ready rfl still ⟨rfl, rfl, fun own => ?_⟩ kept, untouched fun _ => reads⟩
        rw [not_not.1 (not_or.1 stays).2]
        rfl

end LoadsLeft

end Sys2Proof.Machine
end

section
/-! SUPPORT. How far the event goes at which a port's teardown starts: what waits in a lawful state still waits, and the port
stands in the first phase that has something to wait for (R36, R164 to R167). -/

namespace Sys2Proof.Machine

open Sys2Proof

/-- A holder of the frame is under withdrawal: what has a turn on it waits (R41). -/
def Stuck (s : State) (f : Frame) : Prop := (s.frame f).state = .held ∧ anyWithdrawing (s.frame f).holders = true

theorem not_stuck_of_free {s : State} {f : Frame} (free : anyWithdrawing (s.frame f).holders = false) : ¬ Stuck s f := by
  rintro ⟨-, stuck⟩
  rw [free] at stuck
  cases stuck

/-- The phase at which the teardown of port `p` stands in `u`, of an event that started it in `s` (R166, R167). -/
inductive PhaseReached (s : State) (p : Port) (u : State) : Prop where
  /-- Phase LOADS, while no pooled context of the port is entered. -/
  | loads (state : (u.port p).state = .teardown .loads) (same : ∀ c, pooled c = true → (s.ctx c).owner = some p →
      (u.ctx c).state = (s.ctx c).state ∧ u.teardown c = s.teardown c)
  /-- Phase CONTEXTS at the lowest pooled context of the port, whose teardown a later event takes on. -/
  | pool {c : Ctx} (state : (u.port p).state = .teardown (.contexts c)) (gone : ∀ r, readOf s r = true → r.port ≠ p)
      (next : nextPooled s p = some c) (under : (u.teardown c).isSome = true)
  /-- Phase CONTEXTS at the home context, or its end. -/
  | home (state : (u.port p).state = .teardown (.contexts (homeOf p)) ∨ (u.port p).state = .teardown .ended)
      (gone : ∀ r, readOf s r = true → r.port ≠ p) (next : nextPooled s p = none)

theorem PhaseReached.congr {s u v : State} {p : Port} (h : PhaseReached s p u) (port : (v.port p).state = (u.port p).state)
    (contexts : ∀ c, pooled c = true → (s.ctx c).owner = some p →
      (v.ctx c).state = (u.ctx c).state ∧ v.teardown c = u.teardown c) : PhaseReached s p v := by
  cases h with
  | loads state same =>
    refine .loads (port.trans state) fun c pool own => ?_
    rw [(contexts c pool own).1, (contexts c pool own).2]
    exact same c pool own
  | @pool c state gone next under =>
    have found := List.find?_some next
    simp only [Bool.and_eq_true, ownedBy, beq_iff_eq] at found
    refine .pool (port.trans state) gone next ?_
    rwa [(contexts c found.1.1 found.1.2).2]
  | home state gone next => exact .home (by rwa [port]) gone next

/-- `u` lies within the event that starts the teardown of port `p` in `s`; the port's slots are `slots`. The frames with a
holder under withdrawal, and the context teardowns of `s`, stand as they did; the others are of home contexts, or stand before
step 2; a withdrawal started since rests on another frame or is of another teardown. -/
structure Within (s : State) (p : Port) (slots : List ControlSlot) (u : State) : Prop where
  stuck : ∀ f, Stuck s f → (u.frame f).state = (s.frame f).state ∧ (u.frame f).holders = (s.frame f).holders
  records : ∀ w ∈ u.withdrawals, w ∈ s.withdrawals ∨
    (∃ o f, w.requester = .departure o ∧ w.frame = some f ∧ ¬ Stuck s f) ∨
    (w.requester = .teardown ∧ s.teardown w.ctx = none)
  old : ∀ c td, s.teardown c = some td → u.teardown c = some td
  new : ∀ c td, s.teardown c = none → u.teardown c = some td →
    (pooled c = true → td.step = .offers) ∧ ∀ f, td.step = .departure f → ¬ Stuck s f
  owners : ∀ c, (u.ctx c).owner = (s.ctx c).owner
  loads : LoadsLeft s p u
  slots : (u.port p).slots = slots
  phase : PhaseReached s p u

namespace Within

variable {s u : State} {p : Port} {slots : List ControlSlot} (h : Within s p slots u)

include h

/-! ## What waits -/

theorem not_stuck {f : Frame} (free : anyWithdrawing (u.frame f).holders = false) : ¬ Stuck s f := by
  intro stuck
  rw [(h.stuck f stuck).2] at free
  exact not_stuck_of_free free stuck

/-- A turn or a departure that waits in `s` still waits (R41, R87). -/
theorem waits (settled : Settled s) {c : Ctx} {td : Teardown} (before : s.teardown c = some td) : turnDue u c = false := by
  have waited := settled.turns c
  unfold turnDue at waited ⊢
  rw [h.old c td before]
  rw [before] at waited
  obtain ⟨st, x⟩ := td
  cases x with
  | offers => rfl
  | loads => rfl
  | drain => rfl
  | frames => exact waited
  | turn f =>
    dsimp only at waited ⊢
    rw [Bool.or_eq_false_iff, bne_eq_false_iff_eq, Bool.not_eq_false'] at waited
    obtain ⟨held, holders⟩ := h.stuck f waited
    rw [held, holders, Bool.or_eq_false_iff, bne_eq_false_iff_eq, Bool.not_eq_false']
    exact waited
  | departure f =>
    dsimp only at waited ⊢
    have stuck : Stuck s f := by
      rw [Bool.or_eq_false_iff, bne_eq_false_iff_eq] at waited
      obtain ⟨held, rest⟩ := waited
      refine ⟨held, ?_⟩
      cases list : (s.frame f).holders with
      | nil =>
        rw [list] at rest
        cases rest
      | cons x tail =>
        rw [list] at rest
        cases tail with
        | nil => cases rest
        | cons y tail =>
          have flag : y.withdrawing = true := by simpa using rest
          unfold anyWithdrawing
          rw [List.any_cons, List.any_cons, flag, Bool.true_or, Bool.or_true]
    rw [(h.stuck f stuck).1, (h.stuck f stuck).2]
    exact waited

/-- What goes on within step 5 is of a home context whose teardown has started since (R36, R37). -/
theorem home_of_turnDue (settled : Settled s) {c : Ctx} (due : turnDue u c = true) :
    pooled c = false ∧ s.teardown c = none := by
  have none' : s.teardown c = none := by
    cases before : s.teardown c with
    | none => rfl
    | some td =>
      rw [h.waits settled before] at due
      cases due
  refine ⟨?_, none'⟩
  rw [← Bool.not_eq_true]
  intro pool
  unfold turnDue at due
  cases there : u.teardown c with
  | none =>
    rw [there] at due
    cases due
  | some td =>
    obtain ⟨st, x⟩ := td
    obtain rfl := (h.new c _ none' there).1 pool
    rw [there] at due
    cases due

/-- What has step 4 due is the teardown of a home context that has started since (R39, R149). -/
theorem home_of_stepDue (settled : Settled s) (holding : Holding s) {c : Ctx} {st : Starter}
    (there : u.teardown c = some ⟨st, .loads⟩) (idle : loadTargets u c = false) :
    pooled c = false ∧ s.teardown c = none := by
  have none' : s.teardown c = none := by
    cases before : s.teardown c with
    | none => rfl
    | some td =>
      obtain rfl := Option.some.inj ((h.old c td before).symm.trans there)
      have waited := settled.steps c
      unfold stepDue at waited
      rw [before] at waited
      have targets : loadTargets s c = true := by simpa using waited
      unfold loadTargets at targets
      obtain ⟨x, listed, target⟩ := List.any_eq_true.1 targets
      cases list : s.loadQueue with
      | nil =>
        rw [list] at listed
        cases listed
      | cons r rest =>
        obtain ⟨others, stops⟩ := holding.stopping c st before r rest list
        rw [list] at listed
        rcases List.mem_cons.1 listed with rfl | behind
        · have first : s.loadQueue.head? = some x := by rw [list]; rfl
          have target := beq_iff_eq.1 target
          have reads : readOf s x = true :=
            (readOf_iff s x).2 ⟨first, fun ready => stops target (holding.loads.ready ready x first)⟩
          have still := h.loads.targets reads
          rw [target, idle] at still
          cases still
        · exact absurd (beq_iff_eq.1 target) (others x behind)
  refine ⟨?_, none'⟩
  rw [← Bool.not_eq_true]
  intro pool
  cases (h.new c _ none' there).1 pool

/-- A record with an empty drain set has been placed since. -/
theorem record_since (settled : Settled s) {w : Withdrawal} (listed : w ∈ u.withdrawals) (empty : w.drain = []) :
    (∃ o f, w.requester = .departure o ∧ w.frame = some f ∧ ¬ Stuck s f) ∨
      (w.requester = .teardown ∧ s.teardown w.ctx = none) :=
  (h.records w listed).resolve_left fun before => settled.drains w before empty

/-- A port teardown whose wait is over is that of another port, or this port's in phase LOADS without a load left. -/
theorem entered {q : Port} (due : portDue u q = true)
    (before : (u.port q).state ≠ .teardown (.contexts (homeOf q))) : q ≠ p ∨
      ((∀ r, readOf s r = true → r.port ≠ p) ∧ nextPooled u p = nextPooled s p ∧ q = p) := by
  by_cases hq : q = p
  swap
  · exact .inl hq
  subst hq
  refine .inr ?_
  unfold portDue at due
  cases h.phase with
  | loads state same =>
    rw [state] at due
    have none' : loadOfPort u q = false := by simpa using due
    refine ⟨fun r reads own => ?_, ?_, rfl⟩
    · rw [h.loads.loadOfPort_iff.2 ⟨r, reads, own⟩] at none'
      cases none'
    · unfold nextPooled
      congr 1
      funext c
      unfold ownedBy live
      rw [h.owners c]
      by_cases own : pooled c = true ∧ (s.ctx c).owner = some q
      · rw [(same c own.1 own.2).1, (same c own.1 own.2).2]
      · have away : (pooled c && (s.ctx c).owner == some q) = false := by
          rw [← Bool.not_eq_true, Bool.and_eq_true, beq_iff_eq]
          exact own
        rw [away, Bool.false_and, Bool.false_and]
  | pool state _ _ under =>
    rw [state] at due
    have none' := Option.isNone_iff_eq_none.1 due
    rw [none'] at under
    cases under
  | home state =>
    rcases state with at' | at'
    · exact absurd at' before
    · rw [at'] at due
      cases due

/-! ## What keeps it -/

theorem alike {v : State} (same : Alike u v) (loads : LoadsLeft s p v) (slots' : (v.port p).slots = slots) :
    Within s p slots v where
  stuck f stuck := ⟨(same.frames f).1.trans (h.stuck f stuck).1, (same.frames f).2.trans (h.stuck f stuck).2⟩
  records w listed := h.records w (same.withdrawals ▸ listed)
  old c td before := (same.teardowns c).trans (h.old c td before)
  new c td none' there := h.new c td none' ((same.teardowns c).symm.trans there)
  owners c := (same.contexts c).2.trans (h.owners c)
  loads := loads
  slots := slots'
  phase := h.phase.congr (same.states p) fun c _ _ => ⟨(same.contexts c).1, same.teardowns c⟩

theorem kept {v : State} (kept : Kept u v) (slots' : (v.port p).slots = (u.port p).slots) : Within s p slots v :=
  h.alike kept.alike (h.loads.of_eq kept.queue kept.load) (slots'.trans h.slots)

/-- The entries and the offers are not spoken of. -/
theorem withTables (maps : Vector (Vector (Option MapEntry) 128) 16) (offers : Vector (Option OfferRec) 16) :
    Within s p slots { u with maps := maps, offers := offers } :=
  ⟨h.stuck, h.records, h.old, h.new, h.owners, h.loads.of_eq rfl rfl, h.slots,
    h.phase.congr rfl fun _ _ _ => ⟨rfl, rfl⟩⟩

theorem notifyOwner (c : Ctx) (n : Notice) : Within s p slots (notifyOwner u c n) :=
  h.kept (.notifyOwner u c n) ((SameCarried.notifyOwner u c n).slots p)

theorem notifyOrigin (f : Frame) (n : Notice) : Within s p slots (notifyOrigin u f n) :=
  h.kept (.notifyOrigin u f n) ((SameCarried.notifyOrigin u f n).slots p)

theorem modCtx {c : Ctx} {g : CtxRec → CtxRec} (state : (g (u.ctx c)).state = (u.ctx c).state)
    (owner : (g (u.ctx c)).owner = (u.ctx c).owner) : Within s p slots (modCtx u c g) :=
  h.kept ⟨.modCtx state owner, rfl, rfl⟩ rfl

/-- A frame is written on which no holder is under withdrawal. -/
theorem setFrame {f : Frame} (free : ¬ Stuck s f) (r : FrameRec) : Within s p slots (u.setFrame f r) where
  stuck k stuck := by
    rw [State.frame_setFrame, if_neg (by rintro rfl; exact free stuck)]
    exact h.stuck k stuck
  records := h.records
  old := h.old
  new := h.new
  owners := h.owners
  loads := h.loads.of_eq rfl rfl
  slots := h.slots
  phase := h.phase.congr rfl fun _ _ _ => ⟨rfl, rfl⟩

theorem reclaimExit {f : Frame} (free : ¬ Stuck s f) : Within s p slots (reclaimExit u f) := by
  rw [reclaimExit_eq]
  have written := h.setFrame free { u.frame f with state := .scrub }
  split_ifs
  · exact h
  · exact h.setFrame free _
  · exact written.kept ⟨.of_eq rfl rfl rfl rfl rfl rfl rfl, rfl, rfl⟩ rfl
  · exact written.kept ⟨.of_eq rfl rfl rfl rfl rfl rfl rfl, rfl, rfl⟩ rfl

/-- The withdrawal list is written. -/
theorem withRecords {list : List Withdrawal} (records : ∀ w ∈ list, w ∈ u.withdrawals ∨
    (∃ o f, w.requester = .departure o ∧ w.frame = some f ∧ ¬ Stuck s f) ∨
    (w.requester = .teardown ∧ s.teardown w.ctx = none)) : Within s p slots { u with withdrawals := list } where
  stuck := h.stuck
  records w listed := (records w listed).elim (h.records w) .inr
  old := h.old
  new := h.new
  owners := h.owners
  loads := h.loads.of_eq rfl rfl
  slots := h.slots
  phase := h.phase.congr rfl fun _ _ _ => ⟨rfl, rfl⟩

theorem removeRecord (w : Withdrawal) : Within s p slots (removeRecord u w) :=
  h.withRecords fun _ listed => .inl (List.mem_filter.1 listed).1

theorem startWithdrawal {c : Ctx} {o : Option Frame} {q : Requester}
    (record : (∃ d f, q = .departure d ∧ o = some f ∧ ¬ Stuck s f) ∨ (q = .teardown ∧ s.teardown c = none)) :
    Within s p slots (startWithdrawal u c o q) := by
  have invalid := Kept.invalidate u c o
  have same := (SameCarried.invalidate u c o).slots p
  have records : (invalidate u c o).withdrawals = u.withdrawals := invalid.alike.withdrawals
  rw [startWithdrawal_eq]
  generalize invalidate u c o = v at invalid same records ⊢
  have entries : Within s p slots v := (h.withTables v.maps u.offers).kept invalid same
  refine entries.withRecords fun w listed => ?_
  rcases List.mem_append.1 listed with before | new
  · exact .inl (records.symm ▸ before)
  · rw [List.mem_singleton.1 new]
    exact .inr record

/-- The teardown of a home context that has started since goes on, or ends. -/
theorem setTeardown {c : Ctx} {x : Option Teardown} (home : pooled c = false ∧ s.teardown c = none)
    (departs : ∀ td, x = some td → ∀ f, td.step = .departure f → ¬ Stuck s f) : Within s p slots (u.setTeardown c x) where
  stuck := h.stuck
  records := h.records
  old d td before := by
    rw [State.teardown_setTeardown, if_neg (by rintro rfl; rw [home.2] at before; cases before)]
    exact h.old d td before
  new d td none' there := by
    rw [State.teardown_setTeardown] at there
    split_ifs at there with hd
    · refine ⟨fun pool => ?_, departs td there⟩
      rw [hd, home.1] at pool
      cases pool
    · exact h.new d td none' there
  owners := h.owners
  loads := h.loads.of_eq rfl rfl
  slots := h.slots
  phase := h.phase.congr rfl fun d pool _ => by
    rw [State.teardown_setTeardown, if_neg (by rintro rfl; rw [home.1] at pool; cases pool)]
    exact ⟨rfl, rfl⟩

theorem setStep {c : Ctx} {y : TeardownStep} (home : pooled c = false ∧ s.teardown c = none)
    (departs : ∀ f, y = .departure f → ¬ Stuck s f) : Within s p slots (setStep u c y) := by
  unfold Machine.setStep
  split
  · refine h.setTeardown home fun td same => ?_
    cases same
    exact departs
  · exact h

/-- The phase of another port's teardown. -/
theorem withPhase {q : Port} (other : q ≠ p) (st : PortState) : Within s p slots (modPort u q fun x => { x with state := st }) where
  stuck := h.stuck
  records := h.records
  old := h.old
  new := h.new
  owners := h.owners
  loads := h.loads.of_eq rfl rfl
  slots := by
    rw [port_modPort, if_neg other.symm]
    exact h.slots
  phase := h.phase.congr (by rw [port_modPort, if_neg other.symm]) fun _ _ _ => ⟨rfl, rfl⟩

/-- The port's own teardown goes on from phase LOADS. -/
theorem withOwnPhase {st : PortState}
    (phase : PhaseReached s p (modPort u p fun x => { x with state := st })) :
    Within s p slots (modPort u p fun x => { x with state := st }) where
  stuck := h.stuck
  records := h.records
  old := h.old
  new := h.new
  owners := h.owners
  loads := h.loads.of_eq rfl rfl
  slots := by
    rw [port_modPort, if_pos rfl]
    exact h.slots
  phase := phase

end Within

end Sys2Proof.Machine
end

section
/-! PROOFS. Everything that is due at the event at which a port's teardown starts keeps to its bounds. -/

namespace Sys2Proof.Machine

open Sys2Proof

namespace Within

variable {s u : State} {p : Port} {slots : List ControlSlot} (h : Within s p slots u)

include h

/-- A port's teardown goes on to a LIVE pooled context, which enters its teardown (R37, R167). -/
theorem enters {q : Port} {c : Ctx} (pool : pooled c = true) (owned : (s.ctx c).owner = some q) (none' : s.teardown c = none)
    (own : q = p → (∀ r, readOf s r = true → r.port ≠ p) ∧ nextPooled s p = some c) :
    Within s p slots (startPooledTeardown (modPort u q fun x => { x with state := .teardown (.contexts c) }) c
      (.portReset q)) where
  stuck := h.stuck
  records := h.records
  old d td before := by
    rw [startPooledTeardown, State.teardown_setTeardown, if_neg (by rintro rfl; rw [none'] at before; cases before)]
    exact h.old d td before
  new d td before there := by
    rw [startPooledTeardown, State.teardown_setTeardown] at there
    split_ifs at there
    · cases there
      exact ⟨fun _ => rfl, nofun⟩
    · exact h.new d td before there
  owners d := by
    show ((Machine.modCtx u c fun x => { x with state := .teardown }).ctx d).owner = _
    rw [ctx_modCtx]
    split_ifs with hd
    · exact hd ▸ h.owners c
    · exact h.owners d
  loads := h.loads.of_eq rfl rfl
  slots := by
    show ((modPort u q fun x => { x with state := .teardown (.contexts c) }).port p).slots = _
    rw [port_modPort]
    split_ifs with hq
    · exact hq ▸ h.slots
    · exact h.slots
  phase := by
    by_cases hq : q = p
    · obtain ⟨gone, next⟩ := own hq
      subst hq
      refine .pool (c := c) ?_ gone next ?_
      · show ((modPort u q fun x => { x with state := .teardown (.contexts c) }).port q).state = _
        rw [port_modPort, if_pos rfl]
      · rw [startPooledTeardown, State.teardown_setTeardown, if_pos rfl]
        rfl
    · refine (h.withPhase hq (.teardown (.contexts c))).phase.congr rfl fun d _ own' => ?_
      have hd : d ≠ c := by
        rintro rfl
        exact hq (Option.some.inj (owned.symm.trans own'))
      show ((Machine.modCtx u c fun x => { x with state := .teardown }).ctx d).state = _ ∧ _
      rw [ctx_modCtx, if_neg hd, startPooledTeardown, State.teardown_setTeardown, if_neg hd]
      exact ⟨rfl, rfl⟩

/-- A port's teardown ends (R167). -/
theorem ends {q : Port} (state : (u.port q).state = .teardown (.contexts (homeOf q))) (asserted : (u.port p).prst = true) :
    Within s p slots (endPortTeardown u q) := by
  by_cases hq : q = p
  · subst hq
    have phase : (if (u.port q).prst then PortState.teardown .ended else .up) = .teardown .ended := if_pos asserted
    have ended : endPortTeardown u q = modPort u q fun x => { x with state := .teardown .ended } :=
      congrArg (fun st => u.setPort q { u.port q with state := st }) phase
    rw [ended]
    have at' : ((modPort u q fun x => { x with state := .teardown .ended }).port q).state = .teardown .ended := by
      rw [port_modPort, if_pos rfl]
    refine h.withOwnPhase ?_
    cases h.phase with
    | loads loads =>
      rw [state] at loads
      cases loads
    | @pool c here _ next =>
      have pool := (nextPooled_spec next).1
      rw [state] at here
      cases here
      rw [pooled_homeOf] at pool
      cases pool
    | home _ gone next => exact .home (.inr at') gone next
  · exact h.withPhase hq (if (u.port q).prst then .teardown .ended else .up)

/-- Steps 2 and 3 of a home context's teardown (R38, R39, R44). -/
theorem cancelThenEndLoads {c : Ctx} (st : Starter) (home : pooled c = false ∧ s.teardown c = none) :
    Within s p slots (cancelThenEndLoads u c st) := by
  have cancelled := Kept.cancelOffersOf u c
  have same := (SameCarried.cancelOffersOf u c).slots p
  unfold Machine.cancelThenEndLoads
  generalize Machine.cancelOffersOf u c = v at cancelled same ⊢
  have left : Within s p slots v := (h.withTables u.maps v.offers).kept cancelled same
  have begun := left.setTeardown (x := some ⟨st, .loads⟩) home fun td at' f departs => by
    cases at'
    cases departs
  have ends : LoadsEnd (v.setTeardown c (some ⟨st, .loads⟩)) (endLoadsOfCtx (v.setTeardown c (some ⟨st, .loads⟩)) c) :=
    .endLoadsWhere _ _ _
  obtain ⟨loads, port⟩ := begun.loads.endsLoads (endLoadsOfCtx_endsLoads (v.setTeardown c (some ⟨st, .loads⟩)) c)
  generalize endLoadsOfCtx (v.setTeardown c (some ⟨st, .loads⟩)) c = t at ends loads port ⊢
  exact begun.alike ends.alike loads (by rw [port]; exact begun.slots)

/-- The end of step 4 of a home context's teardown (R40, R99). -/
theorem endDrain {c : Ctx} (none' : s.teardown c = none) : Within s p slots (endDrain u c) := by
  unfold Machine.endDrain
  cases there : u.teardown c with
  | none => exact h
  | some td =>
    obtain ⟨st, x⟩ := td
    cases x with
    | drain =>
      refine h.setStep ⟨?_, none'⟩ nofun
      rw [← Bool.not_eq_true]
      intro pool
      cases (h.new c _ none' there).1 pool
    | _ => exact h

/-- Everything that is due and taken keeps to the bounds of the event (R36, R41, R99, R166, R167). -/
theorem dueStep (settled : Settled s) (holding : Holding s) (now : Holding u) (asserted : (u.port p).prst = true) {t : State}
    (due : DueStep u t) : Within s p slots t := by
  have noRequest {w : Withdrawal} (listed : w ∈ u.withdrawals) (empty : w.drain = [])
      (who : ∀ o, w.requester ≠ .departure o) (other : w.requester ≠ .teardown) : False := by
    rcases h.record_since settled listed empty with ⟨o, f, asks, -⟩ | ⟨asks, -⟩
    · exact who o asks
    · exact other asks
  cases due with
  | released listed empty frame who => exact (noRequest listed empty (by rw [who]; nofun) (by rw [who]; nofun)).elim
  | hasLeft listed empty frame who => exact (noRequest listed empty (by rw [who]; nofun) (by rw [who]; nofun)).elim
  | revoked listed empty frame who => exact (noRequest listed empty (by rw [who]; nofun) (by rw [who]; nofun)).elim
  | @departed w listed empty f frame o who =>
    rcases h.record_since settled listed empty with ⟨-, k, -, at', free⟩ | ⟨asks, -⟩
    · obtain rfl := Option.some.inj (at'.symm.trans frame)
      exact (((h.removeRecord w).setFrame free _).modCtx rfl rfl).notifyOwner _ _
    · rw [who] at asks
      cases asks
  | @drained w listed empty who =>
    rcases h.record_since settled listed empty with ⟨o, f, asks, -⟩ | ⟨-, none'⟩
    · rw [who] at asks
      cases asks
    · exact (h.removeRecord w).endDrain none'
  | @dropped w => exact h.removeRecord w
  | drains there idle =>
    have home := h.home_of_stepDue settled holding there idle
    exact (h.setStep (y := .drain) home nofun).startWithdrawal (.inr ⟨rfl, home.2⟩)
  | gone _ _ due => exact h.setStep (h.home_of_turnDue settled due) nofun
  | waits _ _ due => exact h.setStep (h.home_of_turnDue settled due) nofun
  | @leaves c st x _ _ f _ _ free _ due =>
    have left := (h.setFrame (h.not_stuck free) { u.frame f with holders := (u.frame f).holders.filter fun y => y.ctx != c }).modCtx
      (c := c) (g := fun y => { y with shareCount := y.shareCount - 1 }) rfl rfl
    exact (left.notifyOrigin f (.shareLeft f c)).setStep (h.home_of_turnDue settled due) nofun
  | @givesUp c st x there _ f _ origin _ due =>
    have home := h.home_of_turnDue settled due
    have free : ¬ Stuck s f := by
      rcases origin with rfl | ⟨-, free⟩
      · exact (h.new c _ home.2 there).2 f rfl
      · exact h.not_stuck free
    have given := (h.setFrame free { u.frame f with state := .reclaim, holders := [], pendingOffers := 0 }).modCtx
      (c := c) (g := fun y => { y with charged := y.charged - 1 }) rfl rfl
    exact (given.reclaimExit free).setStep home nofun
  | @inherits c st x _ _ f _ free _ d _ _ due =>
    have promoted := ((h.setFrame (h.not_stuck free) { u.frame f with
        holders := ⟨d.ctx, .readWrite, false⟩ :: (u.frame f).holders.filter fun y => y.ctx != c && y.ctx != d.ctx }).modCtx
      (c := d.ctx) (g := fun y => { y with charged := y.charged + 1, shareCount := y.shareCount - 1 }) rfl rfl).modCtx
      (c := c) (g := fun y => { y with charged := y.charged - 1 }) rfl rfl
    exact (promoted.notifyOwner d.ctx (.originInherited f d.ctx)).setStep (h.home_of_turnDue settled due) nofun
  | @departs c st x _ _ f _ free _ due =>
    have unstuck := h.not_stuck free
    refine (h.setFrame unstuck _).setStep (h.home_of_turnDue settled due) fun k same => ?_
    cases same
    exact unstuck
  | @takesNext c st f there _ d _ _ due =>
    have unstuck := (h.new c _ (h.home_of_turnDue settled due).2 there).2 f rfl
    exact (h.setFrame unstuck _).startWithdrawal (.inl ⟨c, f, rfl, rfl, unstuck⟩)
  | @finishes c st there _ =>
    have home : pooled c = false ∧ s.teardown c = none := h.home_of_turnDue settled (by
      unfold turnDue
      rw [there])
    rcases finishTeardown_cases u c with ⟨-, same⟩ | ⟨pool, -⟩
    · rw [same]
      exact h.setTeardown home nofun
    · rw [home.1] at pool
      cases pool
  | @enters q c _ pool owned live before due next =>
    have none' : s.teardown c = none := by
      cases was : s.teardown c with
      | none => rfl
      | some td =>
        have there := h.old c td was
        rw [now.noTeardown_of_pooled pool (by rw [live]; nofun)] at there
        cases there
    have owned' := (h.owners c).symm.trans owned
    rcases h.entered due before with other | ⟨gone, same, rfl⟩
    · exact h.enters pool owned' none' fun hq => absurd hq other
    · exact h.enters pool owned' none' fun _ => ⟨gone, same.symm.trans next⟩
  | @joins q c _ pool owned there before due next =>
    rcases h.entered due before with other | ⟨gone, same, rfl⟩
    · exact h.withPhase other _
    · refine h.withOwnPhase (.pool ?_ gone (same.symm.trans next) there)
      rw [port_modPort, if_pos rfl]
  | @entersHome q _ before due next =>
    have none' : s.teardown (homeOf q) = none := by
      cases was : s.teardown (homeOf q) with
      | none => rfl
      | some td =>
        have there := h.old _ td was
        rw [now.noTeardown_of_home before] at there
        cases there
    have home := And.intro (homeOf_not_pooled q) none'
    rcases h.entered due before with other | ⟨gone, same, rfl⟩
    · exact (h.withPhase other _).cancelThenEndLoads _ home
    · refine (h.withOwnPhase (.home (.inl ?_) gone (same.symm.trans next))).cancelThenEndLoads _ home
      rw [port_modPort, if_pos rfl]
  | ends state _ => exact h.ends state asserted

end Within

end Sys2Proof.Machine
end

section
/-! PROOFS. The start of a port's teardown (R164 to R167). -/

namespace Sys2Proof.Machine

open Sys2Proof

/-! ## What the event writes at once -/

/-- The record of port `p` as its teardown starts under PRST_N, with the OFFLINE answers `l` sent (R164, R165). -/
def PortRec.cut (r : PortRec) (p : Port) (l : List AccessResponse) : PortRec :=
  { r with
    prst := true
    state := .teardown .loads
    notices := []
    dropped := 0
    arriving := []
    bound := homeOf p
    binding := .settled
    lastLane := .plain
    plainLane := []
    elevatedLane := []
    accessResponses := r.accessResponses ++ l
    slots := (r.slots.filter fun q => q.standing == .active && q.kind != .bind).map fun q => { q with discard := true } }

/-- The state as the teardown of port `p` starts, before its loads are ended. -/
def cutPort (s : State) (p : Port) (l : List AccessResponse) (k : Nat) : State :=
  { withPort s p ((s.port p).cut p l) with choices := k }

theorem port_cutPort (s : State) (p : Port) (l : List AccessResponse) (k : Nat) :
    (cutPort s p l k).port p = (s.port p).cut p l := (State.port_setPort s p p _).trans (if_pos rfl)

/-- The slots at the start of a port's teardown: the ACTIVE ones but a BIND's, marked (R165). -/
theorem filterMap_discardSlot (slots : List ControlSlot) : slots.filterMap discardSlot =
    (slots.filter fun q => q.standing == .active && q.kind != .bind).map fun q => { q with discard := true } := by
  rw [← List.filterMap_eq_map, List.filterMap_filter]
  congr 1
  funext ⟨tag, kind, operands, classes, standing, discard⟩
  unfold discardSlot
  cases standing with
  | waiting => rfl
  | active => cases kind <;> rfl

/-- PRST_N_ASSERT at a port that is UP. -/
theorem prstNAssert_cuts {s : State} {p : Port} (low : (s.port p).prst = false) (up : (s.port p).state = .up) : ∃ l k,
    l.Perm (((s.port p).plainLane ++ (s.port p).elevatedLane).map fun a => (⟨a.tag, .offline⟩ : AccessResponse)) ∧
    startPortTeardown (modPort s p fun x => { x with prst := true }) p = endLoadsOfPort (cutPort s p l k) p ∧
    exec (.prstNAssert p) s = .next (settle (endLoadsOfPort (cutPort s p l k) p)) := by
  obtain ⟨l, k, perm, started⟩ := startPortTeardown_eq (modPort s p fun x => { x with prst := true }) p
  have record : (modPort s p fun x => { x with prst := true }).port p = { s.port p with prst := true } := by
    rw [port_modPort, if_pos rfl]
  rw [record] at perm started
  have cut : startPortTeardown (modPort s p fun x => { x with prst := true }) p = endLoadsOfPort (cutPort s p l k) p := by
    rw [started, filterMap_discardSlot]
    refine congrArg (fun u : State => endLoadsOfPort { u with choices := k } p) ?_
    exact modPort_modPort s p (fun x => { x with prst := true }) fun _ => _
  refine ⟨l, k, perm, cut, ?_⟩
  exact congrArg Host.Outcome.next ((if_neg (by rw [low]; nofun)).trans
    ((if_pos ((portUp_iff s p).2 up)).trans (congrArg settle cut)))

/-- What the end of the port's loads leaves of its streams, its notice queue and its slots. -/
theorem muted_cutPort (s : State) (p : Port) (l : List AccessResponse) (k : Nat) :
    Muted ((s.port p).cut p l) ((endLoadsOfPort (cutPort s p l k) p).port p) := by
  have cut : Muted ((s.port p).cut p l) ((cutPort s p l k).port p) := by
    rw [port_cutPort]
    exact ⟨nofun, rfl, rfl, rfl, rfl, rfl, .refl _⟩
  exact cut.endLoadsWhere _ _

/-- What the event leaves of all else of the port and of the memory port. -/
theorem apart_cutPort (s : State) (p : Port) (l : List AccessResponse) (k : Nat) :
    ((settle (endLoadsOfPort (cutPort s p l k) p)).port p).apart = ((s.port p).cut p l).apart ∧
      (settle (endLoadsOfPort (cutPort s p l k) p)).memoryRequests = s.memoryRequests := by
  have ended := State.apart_endLoadsWhere (cutPort s p l k) (fun r => r.port == p) .portReset
  change (endLoadsOfPort (cutPort s p l k) p).apart = _ at ended
  rw [settle_port, settle_memoryRequests]
  generalize endLoadsOfPort (cutPort s p l k) p = u at ended ⊢
  have port := congrArg (fun t => State.port t p) ended
  have requests := congrArg (fun t : State => t.memoryRequests) ended
  simp only [State.port, State.apart, mapVec_get] at port
  exact ⟨port.trans (congrArg PortRec.apart (port_cutPort s p l k)), requests⟩

/-! ## The whole event in a lawful state -/

theorem Lawful.grounds {s : State} (h : Lawful s) {p : Port} (up : (s.port p).state = .up) : Grounds s := by
  have released : s.rstAsserted = false := by
    rw [← Bool.not_eq_true]
    intro asserted
    rw [(h.lists.inReset_of asserted).state p] at up
    cases up
  exact ⟨h.lists.listsLaw released, h.contexts, fun q => ((portLaw_iff q _).1 (h.ports.port q)).1⟩

/-- The event starts within its bounds. -/
theorem within_cutPort {s : State} (h : Lawful s) (p : Port) (l : List AccessResponse) (k : Nat) :
    Within s p ((endLoadsOfPort (cutPort s p l k) p).port p).slots (endLoadsOfPort (cutPort s p l k) p) := by
  have ends : LoadsEnd (cutPort s p l k) (endLoadsOfPort (cutPort s p l k) p) := .endLoadsWhere _ _ _
  have loads := LoadsLeft.of_cut (u := cutPort s p l k) h.holding.loads h.ports.carried.loadTags rfl rfl
    (endLoadsOfPort_endsLoads (cutPort s p l k) p)
  generalize endLoadsOfPort (cutPort s p l k) p = u at ends loads ⊢
  have same := ends.alike
  refine ⟨fun f _ => same.frames f, fun w listed => .inl (same.withdrawals ▸ listed),
    fun c td before => (same.teardowns c).trans before, fun c td none' there => ?_, fun c => (same.contexts c).2,
    loads.1, rfl, .loads ?_ fun c _ _ => ⟨(same.contexts c).1, same.teardowns c⟩⟩
  · have both := (same.teardowns c).symm.trans there
    change s.teardown c = some td at both
    rw [none'] at both
    cases both
  · rw [same.states, port_cutPort]
    rfl

/-- The event ends within its bounds (R36, R166, R167). -/
theorem within_settle {s : State} (h : Lawful s) {p : Port} (up : (s.port p).state = .up)
    {l : List AccessResponse} {k : Nat}
    (started : startPortTeardown (modPort s p fun x => { x with prst := true }) p = endLoadsOfPort (cutPort s p l k) p) :
    Within s p ((endLoadsOfPort (cutPort s p l k) p).port p).slots (settle (endLoadsOfPort (cutPort s p l k) p)) := by
  have grounds := h.grounds up
  have raised : Moves s (modPort s p fun x => { x with prst := true }) := Moves.modPort (.line true _ (.inl rfl))
  have alike : Kept s (modPort s p fun x => { x with prst := true }) := ⟨.setPort rfl rfl rfl rfl, rfl, rfl⟩
  have cut : Start (modPort s p fun x => { x with prst := true }) (endLoadsOfPort (cutPort s p l k) p) := by
    rw [← started]
    exact .cut (by rw [port_modPort, if_pos rfl]; exact up)
  have begun := (grounds.moves raised).moves cut.moves
  have holds := cut.holding (grounds.moves raised) (h.holding.kept alike)
  have within := within_cutPort h p l k
  have muted := muted_cutPort s p l k
  generalize endLoadsOfPort (cutPort s p l k) p = u at begun holds within muted ⊢
  have all := DueStep.kept_by_settle
    (P := fun v : State => (Grounds v ∧ Holding v) ∧ Muted ((s.port p).cut p l) (v.port p) ∧ Within s p (u.port p).slots v)
    (fun v n g => ⟨⟨⟨g.1.1.lists.of_eq (fun _ => rfl) rfl rfl rfl, g.1.1.contexts.of_eq fun _ => rfl, g.1.1.tables⟩,
      g.1.2.kept ⟨.of_eq rfl rfl rfl rfl rfl rfl rfl, rfl, rfl⟩⟩, g.2.1,
      g.2.2.kept ⟨.of_eq rfl rfl rfl rfl rfl rfl rfl, rfl, rfl⟩ rfl⟩)
    (fun v w g due => ⟨⟨g.1.1.moves due.moves, due.holding g.1.1 g.1.2⟩, g.2.1.dueStep due,
      g.2.2.dueStep h.settled h.holding g.1.2 g.2.1.asserted due⟩)
    (fun v g => ⟨⟨g.1.1.moves (Moves.placeNotices v), g.1.2.kept (.placeNotices v)⟩, by
      rw [port_placeNotices]
      exact g.2.1.placed, g.2.2.kept (.placeNotices v) ((SameCarried.placeNotices v).slots p)⟩)
    ⟨⟨begun, holds⟩, muted, within⟩
  exact all.2.2

/-! ## The phase that is reached -/

namespace Within

variable {s t : State} {p : Port} {slots : List ControlSlot} (h : Within s p slots t) (settled : Settled t)

include h

/-- While a load of the port waits for its read, phase LOADS goes on (R166). -/
theorem phase_loads {r : LoadRec} (reads : readOf s r = true) (own : r.port = p) :
    (t.port p).state = .teardown .loads := by
  cases h.phase with
  | loads state _ => exact state
  | pool _ gone _ _ => exact absurd own (gone r reads)
  | home _ gone _ => exact absurd own (gone r reads)

include settled

/-- Without such a load phase LOADS has ended. -/
theorem phase_gone (gone : ∀ r, readOf s r = true → r.port ≠ p) : (t.port p).state ≠ .teardown .loads := by
  intro state
  have due := settled.ports p
  unfold portDue at due
  rw [state] at due
  have left : loadOfPort t p = true := by simpa using due
  obtain ⟨r, reads, own⟩ := h.loads.loadOfPort_iff.1 left
  exact gone r reads own

theorem phase_pool (gone : ∀ r, readOf s r = true → r.port ≠ p) {c : Ctx} (next : nextPooled s p = some c) :
    (t.port p).state = .teardown (.contexts c) := by
  cases h.phase with
  | loads state _ => exact absurd state (h.phase_gone settled gone)
  | pool state _ next' _ =>
    rw [next] at next'
    cases next'
    exact state
  | home _ _ none' =>
    rw [next] at none'
    cases none'

theorem phase_home (holding : Holding t) (gone : ∀ r, readOf s r = true → r.port ≠ p) (next : nextPooled s p = none) :
    (t.port p).state = .teardown (if t.teardown (homeOf p) = none then .ended else .contexts (homeOf p)) := by
  have state : (t.port p).state = .teardown (.contexts (homeOf p)) ∨ (t.port p).state = .teardown .ended := by
    cases h.phase with
    | loads state _ => exact absurd state (h.phase_gone settled gone)
    | pool _ _ some' _ =>
      rw [next] at some'
      cases some'
    | home state _ _ => exact state
  split_ifs with ended
  · refine state.resolve_left fun at' => ?_
    have due := settled.ports p
    unfold portDue at due
    rw [at'] at due
    dsimp only at due
    rw [ended] at due
    cases due
  · refine state.resolve_right fun at' => ended ?_
    refine holding.noTeardown_of_home (p := p) ?_
    rw [at']
    nofun

end Within

/-! ## The slots -/

/-- A MAP_LOAD's slot is that of its load. -/
theorem slot_ne_of_load {s : State} (h : PortTables s) {p : Port} {q : ControlSlot} (listed : q ∈ (s.port p).slots)
    (kind : q.kind ≠ .mapLoad) {r : LoadRec} (queued : r ∈ s.loadQueue) (own : r.port = p) : q.tag ≠ r.tag := by
  intro same
  obtain ⟨x, found, load, -⟩ := h.carried.loads r queued
  rw [own] at found
  unfold slotOf at found
  have tag := beq_iff_eq.1 (List.find?_some (p := fun x : ControlSlot => x.tag == r.tag) found)
  have unique : q = x := List.inj_on_of_nodup_map (h.port p).slotTags listed (List.mem_of_find?_eq_some found)
    (same.trans tag.symm)
  exact kind (unique ▸ load)

/-- The loads of a port under one tag are one. -/
theorem load_unique {s : State} (h : PortTables s) {r r' : LoadRec} (listed : r ∈ s.loadQueue) (listed' : r' ∈ s.loadQueue)
    (port : r'.port = r.port) (tag : r'.tag = r.tag) : r' = r :=
  List.inj_on_of_nodup_map h.carried.loadTags listed' listed (Prod.ext port tag)

/-- The slots that stand after the event: the marked ones but those of the loads that have ended (R146, R165). -/
theorem mem_slots_settle {s : State} (h : Lawful s) {p : Port} (up : (s.port p).state = .up) {l : List AccessResponse} {k : Nat}
    (started : startPortTeardown (modPort s p fun x => { x with prst := true }) p = endLoadsOfPort (cutPort s p l k) p)
    (q : ControlSlot) : q ∈ ((settle (endLoadsOfPort (cutPort s p l k) p)).port p).slots ↔
      q ∈ ((s.port p).cut p l).slots ∧ ∀ r ∈ s.loadQueue, r.port = p → readOf s r = false → q.tag ≠ r.tag := by
  have left := LoadsLeft.of_cut (u := cutPort s p l k) h.holding.loads h.ports.carried.loadTags rfl rfl
    (endLoadsOfPort_endsLoads (cutPort s p l k) p)
  rw [(within_settle h up started).slots, left.2, port_cutPort]

theorem mem_slots_cut (r : PortRec) (p : Port) (l : List AccessResponse) (q : ControlSlot) : q ∈ (r.cut p l).slots ↔
    ∃ q0 ∈ r.slots, q0.standing = .active ∧ q0.kind ≠ .bind ∧ q = { q0 with discard := true } := by
  unfold PortRec.cut
  simp only [List.mem_map, List.mem_filter, Bool.and_eq_true, beq_iff_eq, bne_iff_ne, and_assoc, eq_comm (a := q)]

namespace Within

variable {s t : State} {p : Port} {slots : List ControlSlot} (h : Within s p slots t)

include h

/-- The load that waits for its read is stopped and keeps its slot (R148, R150). -/
theorem reading_load (carried : Carried t) {r : LoadRec} (reads : readOf s r = true) (own : r.port = p) :
    t.loadQueue.head? = some { r with stop := some (r.stop.getD .portReset) } ∧
      (slotOf (t.port p) r.tag).map ControlSlot.kind = some .mapLoad := by
  have head := h.loads.head reads own
  obtain ⟨q, found, kind, -⟩ := carried.loads _ (List.mem_of_mem_head? head)
  subst own
  exact ⟨head, (congrArg (Option.map ControlSlot.kind) found).trans (congrArg some kind)⟩

/-- Every other load of the port is gone. -/
theorem ended_load (ports : PortTables s) {r : LoadRec} (listed : r ∈ s.loadQueue) (own : r.port = p)
    (unread : readOf s r = false) : ∀ x ∈ t.loadQueue, ¬ (x.port = p ∧ x.tag = r.tag) := by
  rintro x there ⟨port, tag⟩
  obtain ⟨r0, reads, own0, rfl⟩ := h.loads.mem there port
  have first := List.mem_of_mem_head? ((readOf_iff s r0).1 reads).1
  rw [load_unique ports listed first (own0.trans own.symm) tag, unread] at reads
  cases reads

end Within

/-- Settles O6: what the start writes at once, which the rest of the event leaves; and, in a lawful state, the loads, the slots
and the phase that stand when nothing more is due. -/
theorem prstNAssertStartsTeardown : Obligations.PrstNAssertStartsTeardown := by
  intro p s
  refine ⟨fun asserted => congrArg Host.Outcome.next (if_pos asserted), fun low down => ?_, endLoadsOfPort_endsLoads s p,
    fun low up => ?_⟩
  · exact congrArg Host.Outcome.next ((if_neg (by rw [low]; nofun)).trans
      (if_neg fun h => down ((portUp_iff s p).1 h)))
  obtain ⟨l, k, perm, started, run⟩ := prstNAssert_cuts low up
  obtain ⟨beside, requests⟩ := apart_cutPort s p l k
  have muted := (muted_cutPort s p l k).settle
  have settled := settled_settle (endLoadsOfPort (cutPort s p l k) p)
  have slots (law : Lawful s) := mem_slots_settle law up started
  have within (law : Lawful s) := within_settle law up started
  refine ⟨l, k, _, run, perm, rfl, ?_⟩
  generalize settle (endLoadsOfPort (cutPort s p l k) p) = t at *
  have of_beside {α : Type} (g : PortRec → α) (kept : ∀ r : PortRec, g r.apart = g r) :
      g (t.port p) = g ((s.port p).cut p l) := by
    rw [← kept, beside, kept]
  refine ⟨muted.asserted, muted.notices, muted.dropped, of_beside PortRec.bound fun _ => rfl,
    of_beside PortRec.binding fun _ => rfl, of_beside PortRec.lastLane fun _ => rfl,
    of_beside PortRec.plainLane fun _ => rfl, of_beside PortRec.elevatedLane fun _ => rfl,
    of_beside PortRec.accessResponses fun _ => rfl, muted.answers, fun q listed => ?_,
    of_beside PortRec.transit fun _ => rfl, of_beside PortRec.issueQueue fun _ => rfl,
    of_beside PortRec.plainCount fun _ => rfl, requests, fun law => ?_⟩
  · obtain ⟨q0, there, active, kind, rfl⟩ := (mem_slots_cut ..).1 (muted.slots.subset listed)
    exact ⟨rfl, active, kind, q0, there, rfl⟩
  · have within := within law
    have holding := holding_exec law.lists law.contexts law.ports law.holding run
    have ports := portTables_exec law.ports run
    refine ⟨fun q there active bind load => ?_, fun r listed own => ?_, ?_⟩
    · exact (slots law _).2 ⟨(mem_slots_cut ..).2 ⟨q, there, active, bind, rfl⟩, fun r queued own _ =>
        slot_ne_of_load law.ports there load queued own⟩
    · split_ifs with reads
      · exact within.reading_load ports.carried reads own
      · have unread : readOf s r = false := Bool.not_eq_true _ ▸ reads
        refine ⟨within.ended_load law.ports listed own unread, List.find?_eq_none.2 fun q there tag => ?_⟩
        exact ((slots law q).1 there).2 r listed own unread (beq_iff_eq.1 tag)
    · by_cases some' : (s.loadQueue.any fun r => r.port == p && readOf s r) = true
      · obtain ⟨r, -, both⟩ := List.any_eq_true.1 some'
        obtain ⟨own, reads⟩ := Bool.and_eq_true_iff.1 both
        exact (within.phase_loads reads (beq_iff_eq.1 own)).trans (congrArg PortState.teardown (if_pos some').symm)
      · refine Eq.trans ?_ (congrArg PortState.teardown (if_neg some').symm)
        have gone (r : LoadRec) (reads : readOf s r = true) : r.port ≠ p := fun own => by
          refine some' (List.any_eq_true.2 ⟨r, List.mem_of_mem_head? ((readOf_iff s r).1 reads).1, ?_⟩)
          exact Bool.and_eq_true_iff.2 ⟨beq_iff_eq.2 own, reads⟩
        have home := within.phase_home settled holding gone
        have pool {c : Ctx} := within.phase_pool settled gone (c := c)
        unfold nextPooled pooled ownedBy live at home pool
        split
        · exact pool ‹_›
        · exact home ‹_›

end Sys2Proof.Machine
end
